-- ==== Sys2Proof/Word.lean ====
section
/-! DEFINITION. The words of the part: bytes, frame numbers, 16-bit identities. -/

namespace Sys2Proof

/-- A byte of a frame, record, packet or trunk cell (10.1). -/
abbrev Byte := BitVec 8

/-- A frame number, 0..4095, counted modulo 4096 (00, "FN distance"). -/
abbrev Fn := BitVec 12

/-- A multiplex id or a program id: two bytes (10.2, 10.3). -/
abbrev Id16 := BitVec 16

end Sys2Proof
end

