-- ==== Sys2Proof/Config.lean ====
section
/-! DEFINITION. What the spec leaves open: the free choices, constants with no body. -/

namespace Sys2Proof.Config

/-- FREE CHOICE (log 7). R117: a held APPLY and a handover decided at the same release may act in
either order. The n-th time the part meets this, the APPLY acts first when this is true. -/
opaque applyActsFirst : Nat → Bool

end Sys2Proof.Config
end

