-- ==== Sys2Proof/Syntax.lean ====
section
/-! DEFINITION. The commands of the MA460, one constructor per row of spec/opcode_table.json. -/

namespace Sys2Proof

/-- The two ingress links. -/
inductive LinkId
  | a
  | b
  deriving DecidableEq, Repr

/-- The tag of a request, 0..255 (R166: the part does not judge tags). -/
abbrev Tag := Byte

/-- The writable fields of a LINK entry as coded in a WRITE, bytes 3..5 (10.7). -/
structure LinkFields where
  role : Byte
  expectedId : Id16
  deriving DecidableEq, Repr

/-- The writable fields of a ROUTE entry as coded in a WRITE, bytes 3..15 (10.7). -/
structure RouteFields where
  program : Id16
  component : Byte
  channel : Byte
  listening : Bool
  pin : Bool
  damage : BitVec 16
  addrCount : Byte
  /-- The four 10-bit address fields, in order. -/
  addrs : List (BitVec 10)
  deriving DecidableEq, Repr

/-- The twelve settings as coded in a WRITE, bytes 3..15 (10.7). -/
structure SettingsFields where
  warn : Byte
  drop : Byte
  hysteresis : BitVec 6
  window : BitVec 2
  autoSwap : BitVec 2
  follow : BitVec 2
  dwell : Byte
  announce : Byte
  wake : Byte
  coast : BitVec 16
  assembly : BitVec 16
  liveRefresh : BitVec 16
  deriving DecidableEq, Repr

/-- The commands. A request row (STATUS to UNKNOWN_REQUEST, APPLY_ACTION apart) is the step in which
the management unit takes the request at the front of the request queue (R165); its operands are the
request's tag and content. -/
inductive Instr
  /-- POWER_ON_RESET (R164). -/
  | powerOnReset
  /-- PIN_RESET (R164): RESET asserted for at least 16 reference ticks. -/
  | pinReset
  /-- WAKE_INPUT (R152): WAKE changes from deasserted to asserted. -/
  | wakeInput
  /-- HOLD_ASSERTED (R162). -/
  | holdAsserted
  /-- HOLD_DEASSERTED (R162). -/
  | holdDeasserted
  /-- ARRIVAL (R2): a whole frame (11,632 bytes) and its 720 erasure marks (true = erased) are in the
  port's buffer at the given reference time. -/
  | arrival (link : LinkId) (time : Nat) (frame : List Byte) (marks : List Bool)
  /-- MISS (R17): the frame timer of the link expires. -/
  | miss (link : LinkId)
  /-- UPSTREAM_ARRIVAL (R155): a whole 20-byte cell has come in on the receive line. -/
  | upstreamArrival (cell : List Byte)
  /-- CELL_BROKEN_OFF (R163). -/
  | cellBrokenOff
  /-- CELL_START (R157, R158): a cell start point. -/
  | cellStart
  /-- CELL_FINISH (R157): the cell in transmission finishes on the line. -/
  | cellFinish
  /-- STATUS (R177). -/
  | status (tag : Tag)
  /-- READ (R169) of a table code and an index. -/
  | read (tag : Tag) (table index : Byte)
  /-- STEP (R170). -/
  | step (tag : Tag)
  /-- WRITE (R168) naming a table or entry that is not writable. -/
  | write (tag : Tag) (table index : Byte)
  /-- WRITE_LINK (R171): a WRITE of a LINK entry. -/
  | writeLink (tag : Tag) (link : LinkId) (fields : LinkFields)
  /-- WRITE_ROUTE (R108): a WRITE of a host route's entry. -/
  | writeRoute (tag : Tag) (route : Fin 16) (fields : RouteFields)
  /-- WRITE_SETTINGS (R172). -/
  | writeSettings (tag : Tag) (fields : SettingsFields)
  /-- MARK_FROM (R113). -/
  | markFrom (tag : Tag) (route : Byte)
  /-- MARK_TO (R113). -/
  | markTo (tag : Tag) (route : Byte)
  /-- UNMARK (R113). -/
  | unmark (tag : Tag) (route : Byte)
  /-- APPLY_RELEASE (R115, R116): takes an APPLY with action RELEASE. -/
  | applyRelease (tag : Tag)
  /-- APPLY_SUSPEND (R115, R116): takes an APPLY with action SUSPEND. -/
  | applySuspend (tag : Tag)
  /-- APPLY_ENGAGE (R115, R116): takes an APPLY with action ENGAGE. -/
  | applyEngage (tag : Tag)
  /-- APPLY_ACTION (R115): the held APPLY acts. -/
  | applyAction
  /-- ARM (R65). -/
  | arm (tag : Tag) (fn : Fn)
  /-- DISARM (R65). -/
  | disarm (tag : Tag)
  /-- FOLLOW (R69). -/
  | follow (tag : Tag) (force : Bool)
  /-- CANCEL (R147). -/
  | cancel (tag : Tag)
  /-- LEVEL_WATCH (R150). -/
  | levelWatch (tag : Tag)
  /-- LEVEL_RUN (R152). -/
  | levelRun (tag : Tag)
  /-- RESET (R180): the trunk reset. -/
  | reset (tag : Tag)
  /-- UNKNOWN_REQUEST (R168): a request whose code names no request. -/
  | unknownRequest (tag : Tag) (code : Byte)
  /-- RESET_RELEASED (R164): the RESET input is deasserted. -/
  | resetReleased
  deriving DecidableEq, Repr

end Sys2Proof
end

