-- ==== Sys2Proof/WellFormed.lean ====
section
/-! DEFINITION. Which commands are events that the spec describes: sizes of frames and cells, and
which WRITE and which request code belongs to which row. -/

namespace Sys2Proof

/-- The bytes of a frame (10.2). -/
def frameBytes : Nat := 11632

/-- The cells of a payload, and so the erasure marks beside a frame (00, Terms). -/
def frameCells : Nat := 720

/-- The bytes of a trunk cell (8.1). -/
def trunkCellBytes : Nat := 20

/-- The WRITEs whose table and entry are writable (9.4): LINK 0..1, ROUTE 0..15, SETTINGS 0. They
belong to the rows WRITE_LINK, WRITE_ROUTE and WRITE_SETTINGS. -/
def writableEntry (table index : Byte) : Bool :=
  (table == 1 && index.toNat ≤ 1) || (table == 6 && index.toNat ≤ 15) || (table == 9 && index == 0)

/-- Request codes that name a request (10.7). -/
def knownCode (code : Byte) : Bool :=
  1 ≤ code.toNat && code.toNat ≤ 14

/-- A command that is an event of the spec. -/
def Instr.wf : Instr → Bool
  | .powerOnReset => true
  | .pinReset => true
  | .wakeInput => true
  | .holdAsserted => true
  | .holdDeasserted => true
  | .arrival _ _ frame marks => frame.length == frameBytes && marks.length == frameCells
  | .miss _ => true
  | .upstreamArrival cell => cell.length == trunkCellBytes
  | .cellBrokenOff => true
  | .cellStart => true
  | .cellFinish => true
  | .status _ => true
  | .read _ _ _ => true
  | .step _ => true
  | .write _ table index => !writableEntry table index
  | .writeLink _ _ _ => true
  | .writeRoute _ _ fields => fields.addrs.length == 4
  | .writeSettings _ _ => true
  | .markFrom _ _ => true
  | .markTo _ _ => true
  | .unmark _ _ => true
  | .applyRelease _ => true
  | .applySuspend _ => true
  | .applyEngage _ => true
  | .applyAction => true
  | .arm _ _ => true
  | .disarm _ => true
  | .follow _ _ => true
  | .cancel _ => true
  | .levelWatch _ => true
  | .levelRun _ => true
  | .reset _ => true
  | .unknownRequest _ code => !knownCode code
  | .resetReleased => true

end Sys2Proof
end

