-- ==== Sys2Proof/Decode.lean ====
section
/-! DEFINITION. The command that a word spells by the bits of spec/opcode_table.json. The table gives
bits to none of its rows ("fields" is empty in every one), so no word spells a command (log 16). The
layouts of chapter 10 (frames, records, packets, request cells) are decoded in Machine/Operands.lean. -/

namespace Sys2Proof

/-- No row of the table has bits, so every word spells none. -/
def decodeTableWord (_nbits _w : Nat) : Option Instr := none

end Sys2Proof
end

