-- ==== Sys2Proof/Machine/Types.lean ====
section
/-! DEFINITION. The data the part keeps: frames, maps, routes, queues, tables (no operations). -/

namespace Sys2Proof.Machine

/-- What a link is used for (R48). -/
inductive Role
  | lead | partner | scout | off
  deriving DecidableEq, Repr

/-- The sync state of a link (1.3). -/
inductive SyncState
  | hunt | confirm | locked | coast
  deriving DecidableEq, Repr

/-- The quality level of a link (R22). -/
inductive QLevel
  | none | good | weak | poor
  deriving DecidableEq, Repr

/-- The operating level of the part (7.7). -/
inductive OpLevel
  | run | watch
  deriving DecidableEq, Repr

/-- The map tracker of the lead and of the scout (2.2). -/
inductive TrackerId
  | lead | scout
  deriving DecidableEq, Repr

/-- How a lane's content is organised (00, Terms). -/
inductive Form
  | stream | packet
  deriving DecidableEq, Repr

/-! ### Frames -/

/-- A cell with its erasure mark. -/
structure Cell where
  bytes : List Byte
  erased : Bool
  deriving DecidableEq, Repr

/-- The header fields a frame carries beside FN, multiplex id and q (10.2). -/
structure Header where
  mapVersion : Nat
  countdown : Nat
  nextVersion : Nat
  deriving DecidableEq, Repr

/-- A frame as a port hands it on (R14). A record position holds 24 bytes or nothing. -/
structure Frame where
  fn : Fn
  mux : Id16
  header : Header
  records : List (Option (List Byte))
  cells : List Cell
  q : Nat
  real : Bool
  deriving DecidableEq, Repr

/-! ### Links -/

/-- The measuring window of a frame timer (R16, R20). -/
structure Window where
  first : Nat
  latest : Nat
  count : Nat
  sum : Nat
  deriving DecidableEq, Repr

/-- A link entry (1.1) with its merge counters (R55). -/
structure Link where
  role : Role
  expectedId : Id16
  followedId : Id16
  sync : SyncState
  confirmCount : Nat
  lastFn : Option Fn
  consecutive : Nat
  due : Option Nat
  trim : Int
  phase : Nat
  window : Option Window
  score : Nat
  quality : Nat
  level : QLevel
  taken : Nat
  badHeaders : Nat
  foreign : Nat
  late : Nat
  misses : Nat
  resyncs : Nat
  coastExpiries : Nat
  merged : Nat
  mergeLate : Nat
  mergeDropped : Nat
  /-- Header of the last real frame taken on the link (R14, R51). -/
  lastHeader : Option Header
  deriving DecidableEq, Repr

/-- A partner frame held for its lead frame, with the link it came from (R55). -/
structure HeldFrame where
  link : LinkId
  frame : Frame
  deriving DecidableEq, Repr

/-- The merge stage (R55). -/
structure MergeStage where
  waiting : List Frame
  held : List HeldFrame
  releasePoint : Option Fn
  lastRelease : Option (Fn × Nat)
  deriving DecidableEq, Repr

/-- Why a handover is made (R54). -/
inductive RoleReason
  | manual | autoSwap | armed | follow | level
  deriving DecidableEq, Repr

/-- The kind of a handover (3.2). -/
inductive HandoverKind
  | seamless | brk | following
  deriving DecidableEq, Repr

/-- A change of roles decided at a release and made after the last release of the event (R63). -/
inductive Decision
  | autoSwap | armedSwap | follow
  deriving DecidableEq, Repr

/-- The role controller (R48); the roles themselves stand in the link entries. -/
structure RoleController where
  arm : Option Fn
  dwell : Nat
  advised : Bool
  decision : Option Decision
  deriving DecidableEq, Repr

/-! ### Maps -/

/-- Start, size and depth of a lane, taken together. -/
structure Geometry where
  start : Nat
  size : Nat
  depth : Nat
  deriving DecidableEq, Repr

/-- A lane of a map (2.1). -/
structure Lane where
  id : Nat
  geometry : Geometry
  form : Form
  deriving DecidableEq, Repr

/-- A program of a map (2.1). -/
structure Program where
  id : Id16
  label : List Byte
  primary : Nat
  companions : List Nat
  cluster : Nat
  deriving DecidableEq, Repr

/-- An alternate record of a map (2.1). -/
structure Alternate where
  id : Id16
  others : List Id16
  deriving DecidableEq, Repr

/-- A map: lanes in lane-id order, programs and alternates in index order (2.2). -/
structure MuxMap where
  version : Nat
  lanes : List Lane
  programs : List Program
  alternates : List Alternate
  deriving DecidableEq, Repr

/-- A collection (2.2): the records filed so far with their indices, in rising order of index. -/
structure Collection where
  version : Nat
  records : List (Nat × List Byte)
  summary : Option (List Byte)
  complete : Bool
  deriving DecidableEq, Repr

/-- A switch target (2.2). -/
structure SwitchTarget where
  fn : Fn
  version : Nat
  deriving DecidableEq, Repr

/-- A map tracker (2.2). -/
structure Tracker where
  map : Option MuxMap
  collection : Option Collection
  target : Option SwitchTarget
  lastFn : Option Fn
  deriving DecidableEq, Repr

/-- Reasons of MAP_SWITCH (R46). -/
inductive SwitchReason
  | acquired | switched | unannounced
  deriving DecidableEq, Repr

/-- Reasons of MAP_LOST (R46). -/
inductive LostReason
  | incomplete | unannounced | multiplex | handover
  deriving DecidableEq, Repr

/-- Reasons of MAP_REJECTED, in the order of R46. -/
inductive RejectReason
  | conflict | excessIndex | sum | field | laneId | extent | overlap | depth | laneMissing | programId
  | alternateId | limit
  deriving DecidableEq, Repr

/-! ### Routes -/

/-- The state of a route (R94). -/
inductive RouteState
  | vacant | pending | starved | filling | running | suspended
  deriving DecidableEq, Repr

/-- Why a route is suspended (5.1). -/
inductive SuspendReason
  | request | level
  deriving DecidableEq, Repr

/-- The kind of a unit (R102). -/
inductive UnitKind
  | full | damaged | lost | gap
  deriving DecidableEq, Repr

/-- A unit (R102): its opener's fields and its body cells. `source` is a class, or 8 for PROGRAM. -/
structure StreamUnit where
  number : Fn
  logical : Fn
  kind : UnitKind
  erased : Nat
  source : Nat
  sourceChanged : Bool
  runStart : Bool
  body : List Cell
  deriving DecidableEq, Repr

/-- A complete data group (R130). -/
structure Group where
  address : Nat
  number : Fn
  runStart : Bool
  bytes : List Byte
  deriving DecidableEq, Repr

/-- What an item of a route queue carries. -/
inductive Content
  | ofUnit (u : StreamUnit)
  | ofGroup (g : Group)
  deriving DecidableEq, Repr

/-- An item of a route queue: its channel (R154), how many of its cells have started, its content. -/
structure Item where
  channel : Nat
  started : Nat
  content : Content
  deriving DecidableEq, Repr

/-- Reasons of an abort, in the order of R125 and 10.9. -/
inductive AbortReason
  | gap | restart | evicted | continuity | length | noBlocks | timeout | service | tooLong
  deriving DecidableEq, Repr

/-- A last-abort record (R118, R125). The FN is none when no release has been made. -/
structure LastAbort where
  reason : AbortReason
  fn : Option Fn
  deriving DecidableEq, Repr

/-- The lane and class an announcement route follows (5.1). -/
structure AnnounceBinding where
  lane : Nat
  cls : Nat
  deriving DecidableEq, Repr

/-- A route record (5.1) with its store record (R79). -/
structure Route where
  program : Id16
  component : Nat
  channel : Option Nat
  listening : Bool
  pin : Bool
  held : Bool
  damage : Nat
  addrs : List Nat
  binding : Option AnnounceBinding
  state : RouteState
  reason : Option SuspendReason
  bound : Option Lane
  run : Bool
  pages : List Nat
  geometry : Option Geometry
  fill : Nat
  tallies : List Nat
  sent : Nat
  damaged : Nat
  lost : Nat
  gaps : Nat
  overrun : Nat
  delivered : Nat
  bad : Nat
  aborted : Nat
  overrunFlag : Bool
  queue : List Item
  lastAbort : Option LastAbort
  deriving DecidableEq, Repr

/-- The lane store (chapter 4) without the page lists, which stand in the route records. `cells` is
the written part of the page pool: (64 * page + offset, cell). -/
structure LaneStore where
  cells : List (Nat × Cell)
  refusals : Nat
  deriving DecidableEq, Repr

/-- An assembly (R118). Its bytes so far and block count are those of `bytes`; its rank is its place
in the start order. -/
structure Assembly where
  route : Nat
  address : Nat
  continuity : Nat
  declared : Nat
  bytes : List Byte
  lastProgress : Fn
  deriving DecidableEq, Repr

/-- The packet assembler (R118): 8 records and the start order, oldest first. -/
structure Assembler where
  table : List (Option Assembly)
  order : List Nat
  deriving DecidableEq, Repr

/-! ### Announcements -/

/-- The last refusal reported for a live entry (7.1). -/
inductive NotedRefusal
  | none | stackFull | noRoom
  deriving DecidableEq, Repr

/-- A live entry (7.1). -/
structure LiveEntry where
  cluster : Nat
  cls : Nat
  lane : Nat
  lastSeen : Fn
  dismissed : Bool
  quiet : Bool
  noted : NotedRefusal
  deriving DecidableEq, Repr

/-- A stack entry (7.1): `cls` is none for the PROGRAM entry. -/
structure StackEntry where
  cls : Option Nat
  cluster : Nat
  lane : Option Nat
  start : Option Fn
  deriving DecidableEq, Repr

/-- The announcement controller (7.1). `evalDue` is set by the triggers of R139 within a step. -/
structure Announcer where
  live : List (Option LiveEntry)
  stack : List StackEntry
  onAir : Option Nat
  switchMark : Bool
  level : OpLevel
  evalDue : Bool
  deriving DecidableEq, Repr

/-- Events of ANNOUNCE (R153). -/
inductive AnnounceEvent
  | push | onAir | remove
  deriving DecidableEq, Repr

/-- Reasons of ANNOUNCE REMOVE (R145), in the order of 10.6. -/
inductive RemoveReason
  | ended | expired | laneGone | cluster | cancelled | cleared | follow | level
  deriving DecidableEq, Repr

/-- Sources of a wake (R152). -/
inductive WakeSource
  | candidate | pin | request
  deriving DecidableEq, Repr

/-! ### Notices, replies, requests -/

/-- The cause of a reset (R178). -/
inductive ResetCause
  | power | pin | trunk
  deriving DecidableEq, Repr

/-- The reset record (R178); level none is NONE. -/
structure ResetRecord where
  cause : ResetCause
  level : Option OpLevel
  deriving DecidableEq, Repr

/-- The notices (9.8) with their fields in the order of 10.6. -/
inductive NoticeBody
  | quality (link : LinkId) (old new : QLevel) (q : Nat)
  | coastExpired (link : LinkId)
  | mapSwitch (tracker : TrackerId) (link : LinkId) (reason : SwitchReason) (new : Nat) (old : Option Nat)
  | mapLost (tracker : TrackerId) (link : LinkId) (reason : LostReason) (version : Nat)
  | mapRejected (tracker : TrackerId) (link : LinkId) (reason : RejectReason) (version : Nat) (index : Option Nat)
  | role (roleA roleB : Role) (reason : RoleReason) (kind : Option HandoverKind) (q : Nat)
  | armFailed (partner : Option (LinkId × SyncState))
  | armMissed
  | followCandidate (link : LinkId) (mux program : Id16) (scoutQ q : Nat)
  | announce (event : AnnounceEvent) (cls cluster lane route : Option Nat) (depth : Nat) (reason : Option RemoveReason)
  | stackFull (cluster cls lane : Nat)
  | noRoom (cluster cls lane need free : Nat)
  | wake (source : WakeSource) (cls cluster : Option Nat)
  | reset (record : ResetRecord)
  deriving DecidableEq, Repr

/-- A queued notice: its number (R161), the FN of bytes 1..2 (10.6), its kind and fields. -/
structure Notice where
  number : Byte
  fn : Option Fn
  body : NoticeBody
  deriving DecidableEq, Repr

/-- A reply (R160): the 16-byte bodies of its cells, and how many of them have started. -/
structure Reply where
  tag : Tag
  cells : List (List Byte)
  started : Nat
  deriving DecidableEq, Repr

/-- The queue a downstream cell was taken from. `nowhere` is a cell whose item a trunk reset has
discarded while the cell was on the line (R164). -/
inductive Origin
  | reply | notice | route (n : Nat) | nowhere
  deriving DecidableEq, Repr

/-- The cell in transmission (R157): its 20 bytes and where it came from. -/
structure LineCell where
  bytes : List Byte
  origin : Origin
  deriving DecidableEq, Repr

/-- The trunk (chapter 8): queues, notice number, round-robin pointer, line, and the HOLD and RESET
inputs as the arbiter reads them. `resetFirst`: since the last power-on or pin reset no cell has started and
HOLD has not been asserted outside RESET, so the RESET notice is the next cell (R164, R179; log 17). -/
structure Trunk where
  replies : List Reply
  notices : List Notice
  noticeNumber : Byte
  pointer : Option Nat
  line : Option LineCell
  hold : Bool
  resetHeld : Bool
  resetFirst : Bool
  deriving DecidableEq, Repr

/-- What a request asks (10.7). A WRITE of a writable entry is told apart by its table. -/
inductive RequestOp
  | status
  | read (table index : Byte)
  | step
  | write (table index : Byte)
  | writeLink (link : LinkId) (fields : LinkFields)
  | writeRoute (route : Fin 16) (fields : RouteFields)
  | writeSettings (fields : SettingsFields)
  | markFrom (route : Byte)
  | markTo (route : Byte)
  | unmark (route : Byte)
  | apply (action : Byte)
  | arm (fn : Fn)
  | disarm
  | follow (force : Bool)
  | cancel
  | level (code : Byte)
  | reset
  | unknown (code : Byte)
  deriving DecidableEq, Repr

/-- A request in the request queue (R156). -/
structure Request where
  tag : Tag
  op : RequestOp
  deriving DecidableEq, Repr

/-- The follow policy (R68). -/
inductive FollowPolicy
  | off | advise | auto
  deriving DecidableEq, Repr

/-- The twelve settings (00, "Settings at a glance"). A set of classes is a byte, bit n for class n. -/
structure Settings where
  warn : Nat
  drop : Nat
  hysteresis : Nat
  window : Nat
  autoSwap : Bool
  follow : FollowPolicy
  dwell : Nat
  announce : Byte
  wake : Byte
  coast : Nat
  assembly : Nat
  liveRefresh : Nat
  deriving DecidableEq, Repr

/-- The tables of 9.4. -/
inductive Table
  | link | lane | program | alternate | live | route | stack | assembly | settings | pool
  deriving DecidableEq, Repr

/-- The cursor (R169). -/
structure Cursor where
  table : Table
  index : Nat
  deriving DecidableEq, Repr

/-- The phase of the selection record (5.7). -/
inductive Phase
  | idle | fromSet | toSet
  deriving DecidableEq, Repr

/-- The selection record (5.7). -/
structure Selection where
  phase : Phase
  first : Option Nat
  last : Option Nat
  unmarked : List Nat
  deriving DecidableEq, Repr

/-- The actions of APPLY (R115). -/
inductive ApplyKind
  | release | suspend | engage
  deriving DecidableEq, Repr

/-- Outcome codes (10.8, in the order of their codes). -/
inductive Outcome
  | ok | badRequest | badTable | badIndex | readOnly | badValue | channelInUse | role | sequence | range
  | noCandidate | nothingToCancel | level
  deriving DecidableEq, Repr

/-- The sticky flags (R176). -/
structure Sticky where
  noticeLost : Bool
  requestLost : Bool
  mapRejectedA : Bool
  mapRejectedB : Bool
  coastExpired : Bool
  stackFull : Bool
  lateFrames : Bool
  deriving DecidableEq, Repr

/-- The LAST flags (R175). -/
structure LastFlags where
  outcome : Outcome
  sequenceReset : Bool
  pinSkip : Bool
  deriving DecidableEq, Repr

/-- The management unit (9.1). `held` is an accepted APPLY that has not acted; `applyDue` is set once
it has met its release or departure (R115). -/
structure Management where
  requests : List Request
  held : Option ApplyKind
  applyDue : Bool
  settings : Settings
  cursor : Cursor
  selection : Selection
  sticky : Sticky
  last : LastFlags
  record : ResetRecord
  deriving DecidableEq, Repr

end Sys2Proof.Machine
end

