-- ==== Sys2Proof/Machine/State.lean ====
section
/-! DEFINITION. The state of the part, the reasons a step can stop, and the state after reset. -/

namespace Sys2Proof.Machine

/-- Everything the spec gives the part, and the queue of commands that wait. -/
structure State where
  /-- The reference time in ticks of the 19.2 MHz clock (1.5). -/
  clock : Nat
  linkA : Link
  linkB : Link
  merge : MergeStage
  roles : RoleController
  leadTracker : Tracker
  scoutTracker : Tracker
  store : LaneStore
  /-- Routes 0..17. -/
  routes : List Route
  packets : Assembler
  ann : Announcer
  trunk : Trunk
  mgmt : Management
  /-- MODEL's own: how many open orders have been met (log 7). -/
  freeIndex : Nat
  /-- MODEL's own: the commands that wait, first in, first out. -/
  pending : List Instr
  deriving DecidableEq, Repr

/-- Why a step stops with a fault. Both are raised for operands that are no event of the spec
(log 8); both are safe: the part itself never meets such an event. -/
inductive Fault
  /-- ARRIVAL with a frame that is not 11,632 bytes or not 720 marks. Safe. -/
  | malformedFrame
  /-- UPSTREAM_ARRIVAL with a cell that is not 20 bytes. Safe. -/
  | malformedCell
  deriving DecidableEq, Repr

/-- Why a step is refused. -/
inductive Refusal
  /-- Raised by exec alone for a command with no meaning yet. Safe. -/
  | notModelled (mnemonic : String)
  deriving DecidableEq, Repr

/-! ### Reset values of the parts -/

/-- R1, R16, R22, R55: a link entry after every reset, in the given role. -/
def Link.reset (role : Role) : Link where
  role := role
  expectedId := 0
  followedId := 0
  sync := .hunt
  confirmCount := 0
  lastFn := none
  consecutive := 0
  due := none
  trim := 0
  phase := 0
  window := none
  score := 0
  quality := 0
  level := .none
  taken := 0
  badHeaders := 0
  foreign := 0
  late := 0
  misses := 0
  resyncs := 0
  coastExpiries := 0
  merged := 0
  mergeLate := 0
  mergeDropped := 0
  lastHeader := none

/-- R55. -/
def MergeStage.reset : MergeStage where
  waiting := []
  held := []
  releasePoint := none
  lastRelease := none

/-- R48. -/
def RoleController.reset : RoleController where
  arm := none
  dwell := 0
  advised := false
  decision := none

/-- R27. -/
def Tracker.reset : Tracker where
  map := none
  collection := none
  target := none
  lastFn := none

/-- R93 and R79: route n after every reset. Host route n has channel n + 1; 16 and 17 have none. -/
def Route.reset (n : Nat) : Route where
  program := 0
  component := 0
  channel := if n < 16 then some (n + 1) else none
  listening := false
  pin := false
  held := false
  damage := 72
  addrs := []
  binding := none
  state := .vacant
  reason := none
  bound := none
  run := false
  pages := []
  geometry := none
  fill := 0
  tallies := []
  sent := 0
  damaged := 0
  lost := 0
  gaps := 0
  overrun := 0
  delivered := 0
  bad := 0
  aborted := 0
  overrunFlag := false
  queue := []
  lastAbort := none

/-- R118: eight free records. -/
def Assembler.reset : Assembler where
  table := List.replicate 8 none
  order := []

/-- R134, 7.1. -/
def Announcer.reset : Announcer where
  live := List.replicate 16 none
  stack := []
  onAir := none
  switchMark := false
  level := .run
  evalDue := false

/-- The defaults of the settings (00, "Settings at a glance"). -/
def Settings.defaults : Settings where
  warn := 96
  drop := 48
  hysteresis := 16
  window := 2
  autoSwap := true
  follow := .advise
  dwell := 25
  announce := 3
  wake := 3
  coast := 250
  assembly := 50
  liveRefresh := 75

/-- 5.7: the selection record after every reset. -/
def Selection.idle : Selection where
  phase := .idle
  first := none
  last := none
  unmarked := []

/-- All sticky flags clear (9.1). -/
def Sticky.clear : Sticky where
  noticeLost := false
  requestLost := false
  mapRejectedA := false
  mapRejectedB := false
  coastExpired := false
  stackFull := false
  lateFrames := false

/-- 9.1: outcome OK, both flags clear. -/
def LastFlags.reset : LastFlags where
  outcome := .ok
  sequenceReset := false
  pinSkip := false

/-- 9.1 and R178: the management unit after a reset, with the settings and the record it leaves. -/
def Management.reset (settings : Settings) (record : ResetRecord) : Management where
  requests := []
  held := none
  applyDue := false
  settings := settings
  cursor := { table := .route, index := 0 }
  selection := .idle
  sticky := .clear
  last := .reset
  record := record

/-- R164, R179: the trunk after a power-on or pin reset. The RESET notice, number 0, is queued and is the
first cell, unless HOLD is then asserted. -/
def Trunk.reset (record : ResetRecord) (hold resetHeld : Bool) : Trunk where
  replies := []
  notices := [{ number := 0, fn := none, body := .reset record }]
  noticeNumber := 1
  pointer := none
  line := none
  hold := hold
  resetHeld := resetHeld
  resetFirst := resetHeld || !hold

/-- The part right after power-on reset. Values the spec does not give are those of log 1 (reference
time, HOLD and RESET inputs, free index) and log 2 (page cells). -/
def State.reset : State where
  clock := 0
  linkA := .reset .lead
  linkB := .reset .off
  merge := .reset
  roles := .reset
  leadTracker := .reset
  scoutTracker := .reset
  store := { cells := [], refusals := 0 }
  routes := (List.range 18).map Route.reset
  packets := .reset
  ann := .reset
  trunk := .reset { cause := .power, level := none } false false
  mgmt := .reset .defaults { cause := .power, level := none }
  freeIndex := 0
  pending := []

end Sys2Proof.Machine
end

