-- ==== Sys2Proof/Machine/Ops.lean ====
section
/-! DEFINITION. The named operations over the part's state: counters, frame numbers, links, routes,
trackers, notices, flags, the page pool and the block pool. -/

namespace Sys2Proof.Machine

/-! ### Numbers -/

/-- A counter rises by 1 and saturates at 65,535 (00, "Counters"). -/
def bump (n : Nat) : Nat := min (n + 1) 65535

/-- The distance from FN a to FN b (00, "FN distance"). -/
def fnDist (x y : Fn) : Nat := (y - x).toNat

/-- FN y is after FN x (00, "FN distance"). -/
def fnAfter (x y : Fn) : Bool := 1 ≤ fnDist x y && fnDist x y ≤ 2047

/-- x replaced by the nearest end of lo..hi when it lies outside (00, "Clamped and refused"). -/
def clamp (lo hi x : Nat) : Nat := min hi (max lo x)

/-- Nominal frame period P in reference ticks. -/
def framePeriod : Nat := 768000

/-- The miss grace, P/8 (R17). -/
def missGrace : Nat := 96000

/-! ### Links -/

/-- The other link. -/
def otherLink : LinkId → LinkId
  | .a => .b
  | .b => .a

/-- The entry of a link. -/
def State.link (s : State) : LinkId → Link
  | .a => s.linkA
  | .b => s.linkB

/-- Replaces the entry of a link. -/
def State.setLink (s : State) (l : LinkId) (x : Link) : State :=
  match l with
  | .a => { s with linkA := x }
  | .b => { s with linkB := x }

/-- Changes the entry of a link. -/
def State.modLink (s : State) (l : LinkId) (f : Link → Link) : State :=
  s.setLink l (f (s.link l))

/-- The lead link. At most one link holds LEAD and one always does (R48). -/
def State.leadLink (s : State) : LinkId :=
  if s.linkA.role = .lead then .a else .b

/-- The link that holds a role, if any. -/
def State.linkOf (s : State) (r : Role) : Option LinkId :=
  if s.linkA.role = r then some .a else if s.linkB.role = r then some .b else none

/-- A link that hands frames on: LOCKED or COAST (R14). -/
def Link.synced (x : Link) : Bool := x.sync = .locked || x.sync = .coast

/-! ### Trackers -/

/-- A map tracker. -/
def State.tracker (s : State) : TrackerId → Tracker
  | .lead => s.leadTracker
  | .scout => s.scoutTracker

/-- Changes a map tracker. -/
def State.modTracker (s : State) (t : TrackerId) (f : Tracker → Tracker) : State :=
  match t with
  | .lead => { s with leadTracker := f s.leadTracker }
  | .scout => { s with scoutTracker := f s.scoutTracker }

/-- The link that feeds a tracker (2.2): the lead link, or the link in the SCOUT role. -/
def State.feeder (s : State) : TrackerId → LinkId
  | .lead => s.leadLink
  | .scout => (s.linkOf .scout).getD (otherLink s.leadLink)

/-- The lead tracker's current map. -/
def State.leadMap (s : State) : Option MuxMap := s.leadTracker.map

/-- The LANE record of an id in a map. -/
def MuxMap.lane (m : MuxMap) (id : Nat) : Option Lane := m.lanes.find? (·.id = id)

/-- The PROGRAM record of a program id in a map. -/
def MuxMap.program (m : MuxMap) (id : Id16) : Option Program := m.programs.find? (·.id = id)

/-- The LANE record of an id in the lead tracker's current map. -/
def State.lane (s : State) (id : Nat) : Option Lane := s.leadMap.bind (·.lane id)

/-! ### Routes -/

/-- A route record. Beyond the table a record in its reset values is read. -/
def State.route (s : State) (n : Nat) : Route := s.routes.getD n (.reset n)

/-- Changes a route record. -/
def State.modRoute (s : State) (n : Nat) (f : Route → Route) : State :=
  { s with routes := s.routes.modify n f }

/-- The number of the listening route, if any (00, Terms). -/
def State.listening (s : State) : Option Nat :=
  (List.range 16).find? (fun n => (s.route n).listening)

/-- The number of an announcement route bound to a lane, the lower one first (R141). -/
def State.carrierOf (s : State) (lane : Nat) : Option Nat :=
  [16, 17].find? (fun n => (s.route n).binding.any (·.lane = lane))

/-! ### Releases, sticky flags, notices -/

/-- The FN of the last release, or none (R55). -/
def State.lastFn (s : State) : Option Fn := s.merge.lastRelease.map (·.1)

/-- The released q of the last release, or 0 (R54). -/
def State.lastQ (s : State) : Nat := (s.merge.lastRelease.map (·.2)).getD 0

/-- Changes the sticky flags. -/
def State.modSticky (s : State) (f : Sticky → Sticky) : State :=
  { s with mgmt := { s.mgmt with sticky := f s.mgmt.sticky } }

/-- R161: a notice takes the current number, which advances; it enters a queue of fewer than 16, or
is dropped and sets NOTICE_LOST. -/
def State.raiseAt (s : State) (fn : Option Fn) (body : NoticeBody) : State :=
  let number := s.trunk.noticeNumber
  if s.trunk.notices.length < 16 then
    { s with trunk :=
      { s.trunk with
        noticeNumber := number + 1
        notices := s.trunk.notices ++ [{ number := number, fn := fn, body := body }] } }
  else
    ({ s with trunk := { s.trunk with noticeNumber := number + 1 } }).modSticky
      fun k => { k with noticeLost := true }

/-- A notice whose FN is that of the last release (10.6). -/
def State.raise (s : State) (body : NoticeBody) : State := s.raiseAt s.lastFn body

/-- Changes the announcement controller. -/
def State.modAnn (s : State) (f : Announcer → Announcer) : State := { s with ann := f s.ann }

/-- A trigger of R139 has happened: an evaluation is due in this step. -/
def State.dueEval (s : State) : State := s.modAnn fun a => { a with evalDue := true }

/-! ### The page pool -/

/-- What a page cell that nothing has written reads as (log 2). -/
def blankCell : Cell := { bytes := List.replicate 16 0, erased := false }

/-- Reads one cell of the page pool. -/
def readCell : List (Nat × Cell) → Nat → Cell
  | [], _ => blankCell
  | (b, d) :: rest, a => if a = b then d else readCell rest a

/-- Writes one cell of the page pool, keeping the canonical form. -/
def writeCell : List (Nat × Cell) → Nat → Cell → List (Nat × Cell)
  | [], a, c => if c = blankCell then [] else [(a, c)]
  | (b, d) :: rest, a, c =>
    if a < b then (if c = blankCell then (b, d) :: rest else (a, c) :: (b, d) :: rest)
    else if a = b then (if c = blankCell then rest else (a, c) :: rest)
    else (b, d) :: writeCell rest a c

/-- The canonical form of the page pool: addresses strictly rising, no listed cell blank. -/
def cellsWf : List (Nat × Cell) → Bool
  | [] => true
  | (a, c) :: rest => rest.all (fun e => a < e.1) && c ≠ blankCell && cellsWf rest

/-- Pages of the pool (R71). -/
def poolPages : Nat := 384

/-- The page need of a lane: ceil(D·S/64) (R72). -/
def pageNeed (g : Geometry) : Nat := (g.depth * g.size + 63) / 64

/-- The free set, lowest page number first (R71): the pages in no route's page list. -/
def State.freePages (s : State) : List Nat :=
  (List.range poolPages).filter fun p => s.routes.all fun r => !r.pages.contains p

/-- The pool address of store index i of a route (R73): page list entry i div 64, offset i mod 64. -/
def pageAddress (pages : List Nat) (i : Nat) : Nat := pages.getD (i / 64) 0 * 64 + i % 64

/-! ### The block pool -/

/-- Blocks of the pool (R118). -/
def poolBlocks : Nat := 512

/-- The blocks that b bytes hold: ceil(b/64) (R128). -/
def blocksFor (b : Nat) : Nat := (b + 63) / 64

/-- The blocks a queued item holds: those of a group's bytes (R128). -/
def Item.blocks (i : Item) : Nat :=
  match i.content with
  | .ofUnit _ => 0
  | .ofGroup g => blocksFor g.bytes.length

/-- Blocks held by the open assemblies. -/
def Assembler.blocks (a : Assembler) : Nat :=
  (a.table.map fun r => (r.map fun x => blocksFor x.bytes.length).getD 0).sum

/-- Blocks held by the groups queued or being sent. -/
def State.queueBlocks (s : State) : Nat :=
  (s.routes.map fun r => (r.queue.map Item.blocks).sum).sum

/-- The free block count (R128). -/
def State.freeBlocks (s : State) : Nat := poolBlocks - (s.packets.blocks + s.queueBlocks)

end Sys2Proof.Machine
end

