-- ==== Sys2Proof/Machine/Operands.lean ====
section
/-! DEFINITION. The input layouts of chapter 10 and the checks of R181: frames, map records, packets,
upstream cells and request bodies, and the clamping of what they carry (R168, R108, R172). -/

namespace Sys2Proof.Machine

/-! ### Bytes and checks (R181) -/

/-- Byte i of a format. -/
def byteAt (bs : List Byte) (i : Nat) : Byte := bs.getD i 0

/-- The two-byte field at byte i, most significant byte first. -/
def wordAt (bs : List Byte) (i : Nat) : BitVec 16 := byteAt bs i ++ byteAt bs (i + 1)

/-- One bit through a check register. -/
def crcBit {w : Nat} (poly reg : BitVec w) (bit : Bool) : BitVec w :=
  if reg.msb != bit then (reg <<< 1) ^^^ poly else reg <<< 1

/-- One byte through a check register, most significant bit first. -/
def crcByte {w : Nat} (poly reg : BitVec w) (x : Byte) : BitVec w :=
  [7, 6, 5, 4, 3, 2, 1, 0].foldl (fun r i => crcBit poly r (x.getLsbD i)) reg

/-- CRC-16: x^16 + x^12 + x^5 + 1, register all ones at the start (R181). -/
def crc16 (bs : List Byte) : BitVec 16 := bs.foldl (crcByte 0x1021#16) 0xFFFF#16

/-- CRC-8: x^8 + x^2 + x + 1, register zero at the start (R181). -/
def crc8 (bs : List Byte) : BitVec 8 := bs.foldl (crcByte 0x07#8) 0#8

/-- The first n runs of 16 bytes. -/
def cells16 : Nat → List Byte → List (List Byte)
  | 0, _ => []
  | n + 1, bs => bs.take 16 :: cells16 n (bs.drop 16)

/-! ### Frames (10.2) -/

/-- R3: sync pattern, header check and multiplex id of a frame are good. -/
def frameValid (bs : List Byte) : Bool :=
  bs.take 4 == [0xB4, 0x6E, 0x1D, 0x93] && wordAt bs 14 == crc16 (bs.take 14)
    && wordAt bs 4 != 0x0000 && wordAt bs 4 != 0xFFFF

/-- The fields of a frame's bytes, with the erasure mark of each payload cell. -/
def decodeFrame (bs : List Byte) (marks : List Bool) : Frame where
  fn := (wordAt bs 6).extractLsb' 0 12
  mux := wordAt bs 4
  header :=
    { mapVersion := ((wordAt bs 6).extractLsb' 12 4).toNat
      countdown := ((byteAt bs 8).extractLsb' 0 5).toNat
      nextVersion := ((byteAt bs 9).extractLsb' 0 4).toNat }
  records := [16, 40, 64, 88].map fun i => some ((bs.drop i).take 24)
  cells := (cells16 720 (bs.drop 112)).zipWith (fun b e => { bytes := b, erased := e }) marks
  q := (byteAt bs 10).toNat
  real := true

/-- The 720 erased cells of a substitute or fill frame (log 12). -/
def erasedCells : List Cell := List.replicate 720 { bytes := List.replicate 16 0, erased := true }

/-- R14, R56: a frame the part makes: every cell erased, no map records, q = 0. -/
def substituteFrame (fn : Fn) (mux : Id16) (header : Header) : Frame where
  fn := fn
  mux := mux
  header := header
  records := List.replicate 4 none
  cells := erasedCells
  q := 0
  real := false

/-! ### Map records (10.3) -/

/-- The check of a record: CRC-8 over bytes 0..22 at byte 23. -/
def recordOk (r : List Byte) : Bool := byteAt r 23 == crc8 (r.take 23)

/-- The next marker. -/
def recordNext (r : List Byte) : Bool := (byteAt r 1).getLsbD 7

/-- The version. -/
def recordVersion (r : List Byte) : Nat := ((byteAt r 1).extractLsb' 0 4).toNat

/-- The index. -/
def recordIndex (r : List Byte) : Nat := ((byteAt r 2).extractLsb' 0 7).toNat

/-- What a record whose check passed is, by R30. -/
inductive RecordSort
  | ignored
  | live
  | filed (index : Nat)
  | summary
  deriving DecidableEq, Repr

/-- R30: sorting by kind, index and record count. -/
def sortRecord (r : List Byte) : RecordSort :=
  if byteAt r 0 = 5 then .live
  else if byteAt r 0 = 1 ∨ byteAt r 0 = 2 ∨ byteAt r 0 = 3 then
    (if recordIndex r ≤ 124 then .filed (recordIndex r) else .ignored)
  else if byteAt r 0 = 4 then
    (if 1 ≤ (byteAt r 3).toNat ∧ (byteAt r 3).toNat ≤ 125 then .summary else .ignored)
  else .ignored

/-- The record count N of a SUMMARY. -/
def summaryCount (r : List Byte) : Nat := (byteAt r 3).toNat

/-- The map sum of a SUMMARY. -/
def summarySum (r : List Byte) : Nat := (wordAt r 4).toNat

/-- The kind code of a record: 1 LANE, 2 PROGRAM, 3 ALTERNATE. -/
def recordKind (r : List Byte) : Byte := byteAt r 0

/-- The fields of a LANE record. -/
def laneOf (r : List Byte) : Lane where
  id := (byteAt r 3).toNat
  geometry := { start := (wordAt r 4).toNat, size := (wordAt r 6).toNat, depth := (byteAt r 8).toNat }
  form := if byteAt r 9 = 1 then .packet else .stream

/-- The fields of a PROGRAM record. -/
def programOf (r : List Byte) : Program where
  id := wordAt r 3
  label := (r.drop 5).take 8
  primary := (byteAt r 13).toNat
  companions := ((r.drop 15).take (min 3 (byteAt r 14).toNat)).map BitVec.toNat
  cluster := (byteAt r 18).toNat

/-- The fields of an ALTERNATE record. -/
def alternateOf (r : List Byte) : Alternate where
  id := wordAt r 3
  others := ((List.range 4).take (byteAt r 5).toNat).map fun i => wordAt r (6 + 2 * i)

/-- R35, FIELD: every field of the record other than depth is within its range (2.1, 10.3). -/
def fieldsOk (r : List Byte) : Bool :=
  let inLane := fun (x : Nat) => 1 ≤ x && x ≤ 63
  if recordKind r = 1 then
    inLane (byteAt r 3).toNat && (wordAt r 4).toNat ≤ 719 && 1 ≤ (wordAt r 6).toNat
      && (wordAt r 6).toNat ≤ 720 && (byteAt r 9).toNat ≤ 1
  else if recordKind r = 2 then
    wordAt r 3 != 0 && inLane (byteAt r 13).toNat && (byteAt r 14).toNat ≤ 3
      && (programOf r).companions.all inLane && (byteAt r 18).toNat ≤ 31
  else
    wordAt r 3 != 0 && 1 ≤ (byteAt r 5).toNat && (byteAt r 5).toNat ≤ 4
      && (alternateOf r).others.all fun m => m != 0x0000 && m != 0xFFFF

/-- A LIVE record (10.3): cluster, class, state code, lane id. -/
structure LiveRecord where
  cluster : Nat
  cls : Nat
  code : Byte
  lane : Nat
  deriving DecidableEq, Repr

/-- The fields of a LIVE record. -/
def liveOf (r : List Byte) : LiveRecord where
  cluster := ((byteAt r 3).extractLsb' 0 5).toNat
  cls := ((byteAt r 4).extractLsb' 0 3).toNat
  code := byteAt r 5
  lane := ((byteAt r 6).extractLsb' 0 6).toNat

/-! ### Packets (10.4) -/

/-- A packet's head. -/
structure PacketHead where
  cells : Nat
  continuity : Nat
  first : Bool
  last : Bool
  address : Nat
  useful : Nat
  deriving DecidableEq, Repr

/-- The head of a packet from its first 3 bytes. -/
def packetHead (bs : List Byte) : PacketHead where
  cells := ((byteAt bs 0).extractLsb' 6 2).toNat + 1
  continuity := ((byteAt bs 0).extractLsb' 4 2).toNat
  first := (byteAt bs 0).getLsbD 3
  last := (byteAt bs 0).getLsbD 2
  address := ((wordAt bs 0).extractLsb' 0 10).toNat
  useful := ((byteAt bs 2).extractLsb' 0 6).toNat

/-- The packet check of a packet of L cells: CRC-16 over all but its last 2 bytes. -/
def packetOk (cells : Nat) (bs : List Byte) : Bool :=
  wordAt bs (16 * cells - 2) == crc16 (bs.take (16 * cells - 2))

/-! ### Upstream cells and requests (10.5, 10.7) -/

/-- R155, step 1: CRC-8 over bytes 0..2 and 4..19 at byte 3. -/
def upstreamOk (cell : List Byte) : Bool :=
  byteAt cell 3 == crc8 (cell.take 3 ++ cell.drop 4)

/-- The channel of a cell. -/
def cellChannel (cell : List Byte) : Nat := ((byteAt cell 0).extractLsb' 3 5).toNat

/-- The tag of a REQUEST cell: bits 13..6 of bytes 1..2. -/
def cellTag (cell : List Byte) : Tag := (wordAt cell 1).extractLsb' 6 8

/-- The fields of a LINK WRITE from a request body. -/
def linkFieldsOf (body : List Byte) : LinkFields where
  role := byteAt body 3
  expectedId := wordAt body 4

/-- The four 10-bit addresses of a ROUTE WRITE: bytes 11..15 read across, first the most significant. -/
def addressFieldsOf (body : List Byte) : List (BitVec 10) :=
  let bits : BitVec 40 := byteAt body 11 ++ byteAt body 12 ++ byteAt body 13 ++ byteAt body 14 ++ byteAt body 15
  [30, 20, 10, 0].map fun i => bits.extractLsb' i 10

/-- The fields of a ROUTE WRITE from a request body. -/
def routeFieldsOf (body : List Byte) : RouteFields where
  program := wordAt body 3
  component := byteAt body 5
  channel := byteAt body 6
  listening := (byteAt body 7).getLsbD 0
  pin := (byteAt body 7).getLsbD 1
  damage := wordAt body 8
  addrCount := byteAt body 10
  addrs := addressFieldsOf body

/-- The fields of a SETTINGS WRITE from a request body. -/
def settingsFieldsOf (body : List Byte) : SettingsFields where
  warn := byteAt body 3
  drop := byteAt body 4
  hysteresis := (byteAt body 5).extractLsb' 2 6
  window := (byteAt body 5).extractLsb' 0 2
  autoSwap := (byteAt body 6).extractLsb' 6 2
  follow := (byteAt body 6).extractLsb' 4 2
  dwell := byteAt body 7
  announce := byteAt body 8
  wake := byteAt body 9
  coast := wordAt body 10
  assembly := wordAt body 12
  liveRefresh := wordAt body 14

/-- A WRITE by its table and index (9.4): the writable entries have their own fields. -/
def writeOf (body : List Byte) : RequestOp :=
  let table := byteAt body 1
  let index := byteAt body 2
  if table = 1 ∧ index = 0 then .writeLink .a (linkFieldsOf body)
  else if table = 1 ∧ index = 1 then .writeLink .b (linkFieldsOf body)
  else if h : table = 6 ∧ index.toNat < 16 then .writeRoute ⟨index.toNat, h.2⟩ (routeFieldsOf body)
  else if table = 9 ∧ index = 0 then .writeSettings (settingsFieldsOf body)
  else .write table index

/-- The request a 16-byte body asks (10.7). Bytes a request does not use are ignored (R182). -/
def requestOf (body : List Byte) : RequestOp :=
  match (byteAt body 0).toNat with
  | 1 => .status
  | 2 => .read (byteAt body 1) (byteAt body 2)
  | 3 => .step
  | 4 => writeOf body
  | 5 => .markFrom (byteAt body 1)
  | 6 => .markTo (byteAt body 1)
  | 7 => .unmark (byteAt body 1)
  | 8 => .apply (byteAt body 1)
  | 9 => .arm ((wordAt body 1).extractLsb' 0 12)
  | 10 => .disarm
  | 11 => .follow ((byteAt body 1).getLsbD 0)
  | 12 => .cancel
  | 13 => .level (byteAt body 1)
  | 14 => .reset
  | _ => .unknown (byteAt body 0)

/-- The request code of a request (10.7), as received. -/
def RequestOp.code : RequestOp → Byte
  | .status => 1
  | .read _ _ => 2
  | .step => 3
  | .write _ _ => 4
  | .writeLink _ _ => 4
  | .writeRoute _ _ => 4
  | .writeSettings _ => 4
  | .markFrom _ => 5
  | .markTo _ => 6
  | .unmark _ => 7
  | .apply _ => 8
  | .arm _ => 9
  | .disarm => 10
  | .follow _ => 11
  | .cancel => 12
  | .level _ => 13
  | .reset => 14
  | .unknown code => code

/-! ### Codes and clamping -/

/-- The role a code names (10.7). -/
def roleOf (code : Byte) : Option Role :=
  match code.toNat with
  | 0 => some .lead
  | 1 => some .partner
  | 2 => some .scout
  | 3 => some .off
  | _ => none

/-- The APPLY action a code names (10.7). -/
def applyOf (code : Byte) : Option ApplyKind :=
  match code.toNat with
  | 0 => some .release
  | 1 => some .suspend
  | 2 => some .engage
  | _ => none

/-- The table a code names (10.7). -/
def tableOf (code : Byte) : Option Table :=
  match code.toNat with
  | 1 => some .link
  | 2 => some .lane
  | 3 => some .program
  | 4 => some .alternate
  | 5 => some .live
  | 6 => some .route
  | 7 => some .stack
  | 8 => some .assembly
  | 9 => some .settings
  | 10 => some .pool
  | _ => none

/-- The number of entries of a table (9.4). -/
def Table.size : Table → Nat
  | .link => 2
  | .lane => 128
  | .program => 64
  | .alternate => 32
  | .live => 16
  | .route => 18
  | .stack => 4
  | .assembly => 8
  | .settings => 1
  | .pool => 1

/-- R5: an expected multiplex id of 0xFFFF is clamped to 0xFFFE. -/
def clampId (m : Id16) : Id16 := if m = 0xFFFF then 0xFFFE else m

/-- R108: an address that repeats is kept once, in its first place (the model's choice, log 22). -/
def keepOnce : List Nat → List Nat
  | [] => []
  | a :: rest => a :: (keepOnce rest).filter (· ≠ a)

/-- R108: the address list of a write: length clamped to 0..4, addresses of 0 removed, repeats once. -/
def addressList (f : RouteFields) : List Nat :=
  keepOnce (((f.addrs.take (min 4 f.addrCount.toNat)).map BitVec.toNat).filter (· ≠ 0))

/-- R172: the settings of a write after validation and clamping, or none for BAD_VALUE. -/
def settingsOf (f : SettingsFields) : Option Settings :=
  if f.autoSwap.toNat ≥ 2 ∨ f.follow.toNat = 3 ∨ f.drop.toNat ≥ f.warn.toNat then none
  else some
    { warn := f.warn.toNat
      drop := f.drop.toNat
      hysteresis := clamp 1 63 f.hysteresis.toNat
      window := clamp 0 3 f.window.toNat
      autoSwap := f.autoSwap.toNat = 1
      follow := if f.follow.toNat = 0 then .off else if f.follow.toNat = 1 then .advise else .auto
      dwell := clamp 1 255 f.dwell.toNat
      announce := f.announce ||| 1
      wake := f.wake
      coast := clamp 8 1000 f.coast.toNat
      assembly := clamp 2 1000 f.assembly.toNat
      liveRefresh := clamp 10 1000 f.liveRefresh.toNat }

end Sys2Proof.Machine
end

