-- ==== Sys2Proof/Machine/Flags.lean ====
section
/-! DEFINITION. The quality level, the unit kind, and the flags of the status word (R174 to R176). -/

namespace Sys2Proof.Machine

/-! ### Quality level (R23, R25) -/

/-- R23: the level set directly from Q at the entry to LOCKED. -/
def entryLevel (st : Settings) (q : Nat) : QLevel :=
  if st.warn ≤ q then .good else if st.drop ≤ q then .weak else .poor

/-- R25: the level after an update, from the level before it and Q after it. -/
def nextLevel (st : Settings) (before : QLevel) (q : Nat) : QLevel :=
  match before with
  | .good => entryLevel st q
  | .weak =>
    if st.warn + st.hysteresis ≤ q then .good else if st.drop ≤ q then .weak else .poor
  | .poor =>
    if st.warn + st.hysteresis ≤ q then .good
    else if st.drop + st.hysteresis ≤ q then .weak else .poor
  | .none => .none

/-! ### Unit kind (R99) -/

/-- R99: the kind of a completed logical frame with e erased cells. -/
def unitKind (damage e : Nat) : UnitKind :=
  if e = 0 then .full else if e ≤ damage then .damaged else .lost

/-! ### Status word (10.8) -/

/-- The outcome code (10.8). -/
def Outcome.code : Outcome → Byte
  | .ok => 0
  | .badRequest => 1
  | .badTable => 2
  | .badIndex => 3
  | .readOnly => 4
  | .badValue => 5
  | .channelInUse => 6
  | .role => 7
  | .sequence => 8
  | .range => 9
  | .noCandidate => 10
  | .nothingToCancel => 11
  | .level => 12

/-- The code of a role (10.6, 10.9). -/
def Role.code : Role → Nat
  | .lead => 0
  | .partner => 1
  | .scout => 2
  | .off => 3

/-- The code of a sync state (10.6, 10.9). -/
def SyncState.code : SyncState → Nat
  | .hunt => 0
  | .confirm => 1
  | .locked => 2
  | .coast => 3

/-- The code of a quality level (10.6, 10.9). -/
def QLevel.code : QLevel → Nat
  | .none => 0
  | .good => 1
  | .weak => 2
  | .poor => 3

/-- 1 for set, 0 for clear. -/
def bit (b : Bool) : Nat := if b then 1 else 0

/-- Byte 3 of the status word: level, lead link, sync states, arm pending, selection in progress. -/
def currentFlags (s : State) : Byte :=
  BitVec.ofNat 8
    (128 * bit (s.ann.level = .watch) + 64 * bit (s.leadLink = .b) + 16 * s.linkA.sync.code
      + 4 * s.linkB.sync.code + 2 * bit s.roles.arm.isSome + bit (s.mgmt.selection.phase ≠ .idle))

/-- Byte 5 of the status word: the sticky flags. -/
def stickyByte (k : Sticky) : Byte :=
  BitVec.ofNat 8
    (bit k.noticeLost + 2 * bit k.requestLost + 4 * bit k.mapRejectedA + 8 * bit k.mapRejectedB
      + 16 * bit k.coastExpired + 32 * bit k.stackFull + 64 * bit k.lateFrames)

/-- The five bytes of the status word. -/
def statusWord (s : State) : List Byte :=
  [ s.mgmt.last.outcome.code,
    BitVec.ofNat 8 (bit s.mgmt.last.sequenceReset + 2 * bit s.mgmt.last.pinSkip),
    currentFlags s,
    BitVec.ofNat 8 s.ann.stack.length,
    stickyByte s.mgmt.sticky ]

end Sys2Proof.Machine
end

