-- ==== Sys2Proof/Machine/Encode.lean ====
section
/-! DEFINITION. The output layouts of chapter 10: cell heads, openers, notices, table entries and
reply records. Reserved fields are sent as zero (R182). -/

namespace Sys2Proof.Machine

/-! ### Fields -/

/-- A one-byte field. -/
def one (n : Nat) : List Byte := [BitVec.ofNat 8 n]

/-- A two-byte field, most significant byte first (R181). -/
def two (n : Nat) : List Byte := [BitVec.ofNat 8 (n / 256), BitVec.ofNat 8 n]

/-- A one-byte field that may be none: 0xFF. -/
def oneOr (n : Option Nat) : List Byte := one (n.getD 0xFF)

/-- A two-byte field that may be none: 0xFFFF. -/
def twoOr (n : Option Nat) : List Byte := two (n.getD 0xFFFF)

/-- An FN field that may be none. -/
def fnOr (f : Option Fn) : List Byte := twoOr (f.map BitVec.toNat)

/-- A 16-byte body: the fields, then zeros. -/
def body16 (bs : List Byte) : List Byte := (bs ++ List.replicate 16 0).take 16

/-- A cell of a table entry: the absent mark clear in byte 0, the fields from byte 1 (10.9). -/
def entryCell (bs : List Byte) : List Byte := body16 (0 :: bs)

/-- A cell of an absent entry: the mark set, every field zero (R167, 10.9). -/
def absentCell : List Byte := body16 [0x80]

/-! ### Trunk cells (10.5) -/

/-- The cell kinds of the downstream direction. -/
inductive CellKind
  | reply | notice | opener | body | erasedBody
  deriving DecidableEq, Repr

/-- The code of a cell kind. -/
def CellKind.code : CellKind → Nat
  | .reply => 1
  | .notice => 2
  | .opener => 3
  | .body => 4
  | .erasedBody => 5

/-- A 20-byte trunk cell. `field` is what bits 15..6 of bytes 1..2 carry: tag, number or position. -/
def trunkCell (channel : Nat) (kind : CellKind) (field length : Nat) (bs : List Byte) : List Byte :=
  one (channel * 8 + kind.code) ++ two (field * 64 + length) ++ [0] ++ body16 bs

/-! ### Openers (10.6) -/

/-- The code of a unit kind. -/
def UnitKind.code : UnitKind → Nat
  | .full => 0
  | .damaged => 1
  | .lost => 2
  | .gap => 3

/-- The body of a unit opener. -/
def unitOpener (u : StreamUnit) : List Byte :=
  one u.kind.code ++ one (128 * bit u.runStart + 64 * bit u.sourceChanged + u.source)
    ++ two u.number.toNat ++ two u.logical.toNat ++ two u.erased ++ two u.body.length

/-- Body cells of a group: ceil(length/16) (R130). -/
def Group.bodyCount (g : Group) : Nat := (g.bytes.length + 15) / 16

/-- The body of a group opener. -/
def groupOpener (g : Group) : List Byte :=
  one 4 ++ one (128 * bit g.runStart + 8) ++ two g.number.toNat ++ two g.address
    ++ two g.bytes.length ++ two g.bodyCount

/-- The cells of an item: its opener and its body cells. -/
def Item.cellCount (i : Item) : Nat :=
  match i.content with
  | .ofUnit u => 1 + u.body.length
  | .ofGroup g => 1 + g.bodyCount

/-- R103: body cell k of a unit; an erased one carries zeros. -/
def unitBodyCell (channel k : Nat) (c : Cell) : List Byte :=
  if c.erased then trunkCell channel .erasedBody k 16 [] else trunkCell channel .body k 16 c.bytes

/-- R130: body cell k of a group; the last one carries the rest of the bytes. -/
def groupBodyCell (channel k : Nat) (g : Group) : List Byte :=
  let bs := (g.bytes.drop (16 * k)).take 16
  trunkCell channel .body k bs.length bs

/-- The n-th cell of an item, cell 0 being the opener (R154). -/
def Item.cell (i : Item) (n : Nat) : List Byte :=
  match i.content, n with
  | .ofUnit u, 0 => trunkCell i.channel .opener 0 16 (unitOpener u)
  | .ofGroup g, 0 => trunkCell i.channel .opener 0 16 (groupOpener g)
  | .ofUnit u, k + 1 => unitBodyCell i.channel k (u.body.getD k blankCell)
  | .ofGroup g, k + 1 => groupBodyCell i.channel k g

/-! ### Notices (10.6) -/

/-- A link's code. -/
def linkCode : LinkId → Nat
  | .a => 0
  | .b => 1

/-- A tracker's code. -/
def TrackerId.code : TrackerId → Nat
  | .lead => 0
  | .scout => 1

/-- The code of a MAP_SWITCH reason. -/
def SwitchReason.code : SwitchReason → Nat
  | .acquired => 0
  | .switched => 1
  | .unannounced => 2

/-- The code of a MAP_LOST reason. -/
def LostReason.code : LostReason → Nat
  | .incomplete => 0
  | .unannounced => 1
  | .multiplex => 2
  | .handover => 3

/-- The code of a MAP_REJECTED reason. -/
def RejectReason.code : RejectReason → Nat
  | .conflict => 0
  | .excessIndex => 1
  | .sum => 2
  | .field => 3
  | .laneId => 4
  | .extent => 5
  | .overlap => 6
  | .depth => 7
  | .laneMissing => 8
  | .programId => 9
  | .alternateId => 10
  | .limit => 11

/-- The code of a ROLE reason. -/
def RoleReason.code : RoleReason → Nat
  | .manual => 0
  | .autoSwap => 1
  | .armed => 2
  | .follow => 3
  | .level => 4

/-- The code of a handover kind. -/
def HandoverKind.code : HandoverKind → Nat
  | .seamless => 0
  | .brk => 1
  | .following => 2

/-- The code of an ANNOUNCE event. -/
def AnnounceEvent.code : AnnounceEvent → Nat
  | .push => 0
  | .onAir => 1
  | .remove => 2

/-- The code of an ANNOUNCE REMOVE reason. -/
def RemoveReason.code : RemoveReason → Nat
  | .ended => 0
  | .expired => 1
  | .laneGone => 2
  | .cluster => 3
  | .cancelled => 4
  | .cleared => 5
  | .follow => 6
  | .level => 7

/-- The code of a wake source. -/
def WakeSource.code : WakeSource → Nat
  | .candidate => 0
  | .pin => 1
  | .request => 2

/-- The code of a reset cause. -/
def ResetCause.code : ResetCause → Nat
  | .power => 0
  | .pin => 1
  | .trunk => 2

/-- The code of the operating level in a reset record: 2 for NONE. -/
def levelCode : Option OpLevel → Nat
  | some .run => 0
  | some .watch => 1
  | none => 2

/-- Kind code of a notice and its fields from byte 3 on (10.6). -/
def NoticeBody.fields : NoticeBody → Nat × List Byte
  | .quality l old new q => (1, one (linkCode l) ++ one old.code ++ one new.code ++ one q)
  | .coastExpired l => (2, one (linkCode l))
  | .mapSwitch t l reason new old =>
    (3, one t.code ++ one (linkCode l) ++ one reason.code ++ one new ++ oneOr old)
  | .mapLost t l reason v => (4, one t.code ++ one (linkCode l) ++ one reason.code ++ one v)
  | .mapRejected t l reason v i =>
    (5, one t.code ++ one (linkCode l) ++ one reason.code ++ one v ++ oneOr i)
  | .role ra rb reason kind q =>
    (6, one ra.code ++ one rb.code ++ one reason.code ++ oneOr (kind.map HandoverKind.code) ++ one q)
  | .armFailed p =>
    (7, oneOr (p.map fun x => linkCode x.1) ++ oneOr (p.map fun x => x.2.code))
  | .armMissed => (8, [])
  | .followCandidate l mux program sq q =>
    (9, one (linkCode l) ++ two mux.toNat ++ two program.toNat ++ one sq ++ one q)
  | .announce event cls cluster lane route depth reason =>
    (10, one event.code ++ oneOr cls ++ oneOr cluster ++ one (lane.getD 0) ++ oneOr route ++ one depth
      ++ oneOr (reason.map RemoveReason.code))
  | .stackFull cluster cls lane => (11, one cluster ++ one cls ++ one lane)
  | .noRoom cluster cls lane need free =>
    (12, one cluster ++ one cls ++ one lane ++ one need ++ two free)
  | .wake source cls cluster => (13, one source.code ++ oneOr cls ++ oneOr cluster)
  | .reset r => (14, one r.cause.code ++ one (levelCode r.level))

/-- The body of a notice cell. -/
def Notice.bytes (n : Notice) : List Byte :=
  one n.body.fields.1 ++ fnOr n.fn ++ n.body.fields.2

/-! ### Table entries (10.9) -/

/-- Trim part c: floor(x/16) (R21). -/
def Link.trimC (x : Link) : Int := x.trim / 16

/-- Trim part f: x − 16·c (R21). -/
def Link.trimF (x : Link) : Nat := (x.trim - 16 * x.trimC).toNat

/-- The two's complement of a signed field of w bits. -/
def signed (w : Nat) (x : Int) : Nat := (BitVec.ofInt w x).toNat

/-- The four bytes of the low 32 bits of a due time. -/
def dueBytes (d : Option Nat) : List Byte :=
  two ((d.getD 0) / 65536 % 65536) ++ two ((d.getD 0) % 65536)

/-- The 3 cells of a LINK entry. -/
def linkEntry (x : Link) : List (List Byte) :=
  [ entryCell (one (64 * x.role.code + 16 * x.sync.code + 4 * x.level.code + x.confirmCount)
      ++ two x.expectedId.toNat ++ two x.followedId.toNat ++ fnOr x.lastFn ++ two x.consecutive
      ++ two x.score ++ one x.quality ++ two x.taken),
    entryCell (one (bit x.due.isSome) ++ dueBytes x.due ++ two (signed 16 x.trim) ++ one (signed 8 x.trimC)
      ++ one x.trimF ++ one x.phase ++ one ((x.window.map Window.count).getD 0) ++ two x.badHeaders
      ++ two x.foreign),
    entryCell (two x.late ++ two x.misses ++ two x.resyncs ++ two x.coastExpiries ++ two x.merged
      ++ two x.mergeLate ++ two x.mergeDropped) ]

/-- The code of a form. -/
def Form.code : Form → Nat
  | .stream => 0
  | .packet => 1

/-- The cell of a LANE entry. -/
def laneEntry (v : Nat) (x : Lane) : List Byte :=
  entryCell (one x.id ++ two x.geometry.start ++ two x.geometry.size ++ one x.geometry.depth
    ++ one x.form.code ++ one v)

/-- The 2 cells of a PROGRAM entry. -/
def programEntry (v : Nat) (x : Program) : List (List Byte) :=
  [ entryCell (two x.id.toNat ++ x.label.take 8 ++ one x.primary ++ one x.companions.length
      ++ x.companions.flatMap one),
    entryCell (one x.cluster ++ one v) ]

/-- The cell of an ALTERNATE entry. -/
def alternateEntry (v : Nat) (x : Alternate) : List Byte :=
  entryCell (two x.id.toNat ++ one x.others.length
    ++ ((x.others.flatMap fun (m : Id16) => two m.toNat) ++ List.replicate 8 0).take 8 ++ one v)

/-- The code of a noted refusal. -/
def NotedRefusal.code : NotedRefusal → Nat
  | .none => 0
  | .stackFull => 1
  | .noRoom => 2

/-- The cell of a LIVE entry. -/
def liveEntry (x : LiveEntry) : List Byte :=
  entryCell (one x.cluster ++ one x.cls ++ one x.lane ++ two x.lastSeen.toNat
    ++ one (bit x.dismissed + 2 * bit x.quiet + 4 * x.noted.code))

/-- The code of a route state. -/
def RouteState.code : RouteState → Nat
  | .vacant => 0
  | .pending => 1
  | .starved => 2
  | .filling => 3
  | .running => 4
  | .suspended => 5

/-- The code of a suspension reason. -/
def reasonCode : Option SuspendReason → Nat
  | none => 0
  | some .request => 1
  | some .level => 2

/-- The code of a last-abort reason. -/
def AbortReason.code : AbortReason → Nat
  | .gap => 0
  | .restart => 1
  | .evicted => 2
  | .continuity => 3
  | .length => 4
  | .noBlocks => 5
  | .timeout => 6
  | .service => 7
  | .tooLong => 8

/-- Groups among the items of a queue. -/
def groupsIn (q : List Item) : Nat :=
  (q.filter fun i => match i.content with | .ofGroup _ => true | .ofUnit _ => false).length

/-- R132: a route bound to a STREAM lane, or an announcement route, is a stream route. -/
def isStreamRoute (n : Nat) (r : Route) : Bool :=
  16 ≤ n || r.bound.any (·.form = .stream)

/-- The five bytes of four 10-bit addresses, in the layout of a ROUTE WRITE. -/
def addressBytes (as : List Nat) : List Byte :=
  let a := fun i => BitVec.ofNat 10 (as.getD i 0)
  let bits : BitVec 40 := a 0 ++ a 1 ++ a 2 ++ a 3
  [32, 24, 16, 8, 0].map fun i => bits.extractLsb' i 8

/-- The 3 cells of a ROUTE entry. For a stream route the group fields show 0 and none (R132). -/
def routeEntry (n : Nat) (r : Route) : List (List Byte) :=
  let group := fun (x : Nat) => if isStreamRoute n r then 0 else x
  let abort := if isStreamRoute n r then none else r.lastAbort
  let g := (r.bound.map Lane.geometry).getD { start := 0, size := 0, depth := 0 }
  [ entryCell (one n ++ two r.program.toNat ++ one r.component ++ one (r.channel.getD 0)
      ++ one (bit r.listening + 2 * bit r.pin + 4 * bit r.held + 8 * bit r.run + 16 * bit r.overrunFlag
        + 32 * (r.binding.map AnnounceBinding.cls).getD 0)
      ++ one (r.state.code + 8 * reasonCode r.reason + 32 * (r.bound.map fun l => l.form.code).getD 0)
      ++ two r.damage ++ one r.addrs.length ++ one r.fill ++ one (group (groupsIn r.queue))
      ++ oneOr (abort.map fun x => x.reason.code) ++ fnOr (abort.bind LastAbort.fn)),
    entryCell (addressBytes r.addrs ++ one ((r.binding.map AnnounceBinding.lane).getD 0)
      ++ one ((r.bound.map Lane.id).getD 0) ++ two g.start ++ two g.size ++ one g.depth
      ++ one r.pages.length ++ two r.sent),
    entryCell (two r.damaged ++ two r.lost ++ two r.gaps ++ two r.overrun ++ two (group r.delivered)
      ++ two (group r.bad) ++ two (group r.aborted)) ]

/-- The cell of a STACK entry. -/
def stackEntry (s : State) (e : StackEntry) : List Byte :=
  let route := e.lane.bind s.carrierOf
  let source := if e.cls.isSome then route else s.listening
  entryCell (one (bit e.cls.isSome) ++ one (e.cls.getD 8) ++ one e.cluster ++ one (e.lane.getD 0)
    ++ fnOr e.start ++ oneOr route ++ one (bit (s.ann.onAir.isSome && s.ann.onAir == source)))

/-- The 2 cells of an ASSEMBLY entry. -/
def assemblyEntry (rank : Nat) (x : Assembly) : List (List Byte) :=
  [ entryCell (one x.route ++ two x.address ++ one x.continuity ++ two x.declared ++ two x.bytes.length
      ++ one (blocksFor x.bytes.length) ++ two x.lastProgress.toNat ++ one rank),
    entryCell [] ]

/-- The code of the follow policy. -/
def FollowPolicy.code : FollowPolicy → Nat
  | .off => 0
  | .advise => 1
  | .auto => 2

/-- The cell of the SETTINGS entry: the layout of a SETTINGS WRITE. -/
def settingsEntry (st : Settings) : List Byte :=
  entryCell (one st.warn ++ one st.drop ++ one (4 * st.hysteresis + st.window)
    ++ one (64 * bit st.autoSwap + 16 * st.follow.code) ++ one st.dwell ++ [st.announce] ++ [st.wake]
    ++ two st.coast ++ two st.assembly ++ two st.liveRefresh)

/-- The cell of the POOL entry (R91, R132). -/
def poolEntry (s : State) : List Byte :=
  entryCell (two s.freePages.length ++ two s.store.refusals ++ two s.freeBlocks)

/-- Cells of an entry of a table (R167). -/
def Table.cells : Table → Nat
  | .link => 3
  | .route => 3
  | .program => 2
  | .assembly => 2
  | .lane => 1
  | .alternate => 1
  | .live => 1
  | .stack => 1
  | .settings => 1
  | .pool => 1

/-- The map that a LANE, PROGRAM or ALTERNATE index names (R47): 0 lead, 1 scout. -/
def mapAt (s : State) (m : Nat) : Option MuxMap :=
  if m = 0 then s.leadTracker.map else s.scoutTracker.map

/-- The entry at an index of a table as it stands, or none when it is absent (R47, R132, R153). -/
def entryOf (s : State) : Table → Nat → Option (List (List Byte))
  | .link, i => some (linkEntry (s.link (if i = 0 then .a else .b)))
  | .lane, i =>
    (mapAt s (i / 64)).bind fun m => (m.lane (i % 64)).map fun x => [laneEntry m.version x]
  | .program, i =>
    (mapAt s (i / 32)).bind fun m => m.programs[i % 32]?.map (programEntry m.version)
  | .alternate, i =>
    (mapAt s (i / 16)).bind fun m => m.alternates[i % 16]?.map fun x => [alternateEntry m.version x]
  | .live, i => (s.ann.live.getD i none).map fun x => [liveEntry x]
  | .route, i => some (routeEntry i (s.route i))
  | .stack, i => s.ann.stack[i]?.map fun e => [stackEntry s e]
  | .assembly, i =>
    (s.packets.table.getD i none).map (assemblyEntry (s.packets.order.idxOf i))
  | .settings, _ => some [settingsEntry s.mgmt.settings]
  | .pool, _ => some [poolEntry s]

/-- The cells of an absent entry of a table: full length, marked absent (R167). -/
def absentEntry (t : Table) : List (List Byte) := List.replicate t.cells absentCell

/-- The cells a reply carries for an entry (R167). -/
def entryCells (s : State) (t : Table) (i : Nat) : List (List Byte) :=
  (entryOf s t i).getD (absentEntry t)

/-! ### Reply records (10.9) -/

/-- The code of a selection phase. -/
def Phase.code : Phase → Nat
  | .idle => 0
  | .fromSet => 1
  | .toSet => 2

/-- The cell of a selection record, with routes changed and pins skipped. -/
def selectionCell (x : Selection) (changed skipped : Nat) : List Byte :=
  body16 (one x.phase.code ++ oneOr x.first ++ oneOr x.last ++ one x.unmarked.length
    ++ ((x.unmarked.flatMap one) ++ List.replicate 4 0xFF).take 4 ++ one changed ++ one skipped)

/-- The cell of an ARM or DISARM reply. -/
def armCell (s : State) : List Byte := body16 (fnOr s.roles.arm ++ fnOr s.merge.releasePoint)

/-- The cell of a FOLLOW reply. -/
def followCell (s : State) : List Byte :=
  body16 (one s.linkA.role.code ++ one s.linkB.role.code ++ two s.linkA.followedId.toNat
    ++ two s.linkB.followedId.toNat ++ oneOr (s.leadMap.map MuxMap.version))

/-- The cell of a CANCEL reply: the top stack entry, or the absent mark. -/
def cancelCell (s : State) : List Byte :=
  match s.ann.stack.getLast? with
  | some e => stackEntry s e
  | none => absentCell

/-- The cell of a reset record (10.8). -/
def recordCell (r : ResetRecord) : List Byte :=
  body16 (one r.cause.code ++ one (levelCode r.level))

/-- The reply head (10.8): request code, status word, zeros. -/
def replyHead (s : State) (code : Byte) : List Byte := body16 (code :: statusWord s)

end Sys2Proof.Machine
end

