-- ==== Sys2Proof/Machine/Packets.lean ====
section
/-! DEFINITION. The route output queues' displacement (R104, R129) and the packet assembler
(chapter 6). -/

namespace Sys2Proof.Machine

/-! ### Output queues -/

/-- An item that carries a unit. -/
def Item.isUnit (i : Item) : Bool :=
  match i.content with
  | .ofUnit _ => true
  | .ofGroup _ => false

/-- An item has begun once its opener has started (R104, R129; log 13). -/
def Item.begun (i : Item) : Bool := 0 < i.started

/-- Items of one kind a queue may hold: 2 units, 4 groups (R104, R105, R129). -/
def kindLimit (isUnit : Bool) : Nat := if isUnit then 2 else 4

/-- R104, R129: a full queue loses its oldest item of the kind that has not begun. The flag says
whether it was full. -/
def displace (isUnit : Bool) (q : List Item) : List Item × Bool :=
  if kindLimit isUnit ≤ (q.filter fun i => i.isUnit = isUnit).length then
    (q.eraseP fun i => i.isUnit = isUnit && !i.begun, true)
  else (q, false)

/-- An item enters the back of route n's queue, on the route's channel (R104, R129, R154). -/
def State.enqueue (s : State) (n : Nat) (content : Content) : State :=
  s.modRoute n fun r =>
    let item : Item := { channel := r.channel.getD 0, started := 0, content := content }
    let d := displace item.isUnit r.queue
    { r with
      queue := d.1 ++ [item]
      overrun := if d.2 then bump r.overrun else r.overrun
      overrunFlag := r.overrunFlag || d.2 }

/-! ### Aborts (R125) -/

/-- Counts an abort on a route and writes its last-abort record. -/
def countAbort (n : Nat) (reason : AbortReason) (s : State) : State :=
  let fn := s.lastFn
  s.modRoute n fun r =>
    { r with aborted := bump r.aborted, lastAbort := some { reason := reason, fn := fn } }

/-- Frees a record of the assembly table; the assemblies after it move up one rank. -/
def freeRecord (i : Nat) (s : State) : State :=
  { s with packets :=
    { table := s.packets.table.set i none
      order := s.packets.order.filter (· ≠ i) } }

/-- R125: the assembly in record i ends without a group. -/
def abortRecord (i : Nat) (reason : AbortReason) (s : State) : State :=
  match s.packets.table.getD i none with
  | none => s
  | some a => countAbort a.route reason (freeRecord i s)

/-- Aborts every open assembly that satisfies p. -/
def abortWhere (p : Assembly → Bool) (reason : AbortReason) (s : State) : State :=
  (List.range 8).foldl
    (fun s i => if (s.packets.table.getD i none).any p then abortRecord i reason s else s) s

/-- Aborts every open assembly of a route. -/
def abortRoute (n : Nat) (reason : AbortReason) (s : State) : State :=
  abortWhere (fun a => a.route = n) reason s

/-! ### Assemblies (R122 to R124) -/

/-- The record of the open assembly of a route and address. -/
def findAssembly (s : State) (n address : Nat) : Option Nat :=
  (List.range 8).find? fun i =>
    (s.packets.table.getD i none).any fun a => a.route = n && a.address = address

/-- R129: a complete group enters its route's queue, or is discarded while the listening route is
held. -/
def placeGroup (n : Nat) (g : Group) (s : State) : State :=
  if (s.route n).listening && (s.route n).held then s
  else
    (s.modRoute n fun r => { r with delivered := bump r.delivered }).enqueue n (.ofGroup g)

/-- R124: the last packet of record i has been filed. -/
def finishGroup (i : Nat) (u : StreamUnit) (s : State) : State :=
  match s.packets.table.getD i none with
  | none => s
  | some a =>
    if a.bytes.length ≠ a.declared then abortRecord i .length s
    else if wordAt a.bytes (a.declared - 2) = crc16 (a.bytes.take (a.declared - 2)) then
      placeGroup a.route
        { address := a.address, number := u.number, runStart := u.runStart, bytes := a.bytes }
        (freeRecord i s)
    else (freeRecord i s).modRoute a.route fun r => { r with bad := bump r.bad }

/-- Files an assembly into record i. -/
def setRecord (i : Nat) (a : Assembly) (s : State) : State :=
  { s with packets := { s.packets with table := s.packets.table.set i (some a) } }

/-- R122, steps 3 to 5: room, blocks, opening. -/
def openRecord (n : Nat) (u : StreamUnit) (h : PacketHead) (data : List Byte) (declared : Nat)
    (s : State) : State :=
  let isFree := fun (s : State) (i : Nat) => (s.packets.table.getD i none).isNone
  let s := if (List.range 8).any (isFree s) then s
    else abortRecord (s.packets.order.headD 0) .evicted s
  let i := ((List.range 8).find? (isFree s)).getD 0
  if s.freeBlocks < blocksFor h.useful then countAbort n .noBlocks s
  else
    let s := setRecord i
      { route := n, address := h.address, continuity := (h.continuity + 1) % 4
        declared := declared, bytes := data, lastProgress := u.number } s
    let s := { s with packets := { s.packets with order := s.packets.order ++ [i] } }
    if h.last then finishGroup i u s else s

/-- R122: a first packet for route n. -/
def openGroup (n : Nat) (u : StreamUnit) (h : PacketHead) (data : List Byte) (s : State) : State :=
  let s := match findAssembly s n h.address with
    | some i => abortRecord i .restart s
    | none => s
  let declared := if h.useful ≤ 1 then 0 else (wordAt data 0).toNat
  if declared < 4 ∨ 4096 < declared then countAbort n .tooLong s
  else openRecord n u h data declared s

/-- R123: a packet with its first flag clear for route n. -/
def continueGroup (n : Nat) (u : StreamUnit) (h : PacketHead) (data : List Byte) (s : State) : State :=
  match findAssembly s n h.address with
  | none => s
  | some i =>
    match s.packets.table.getD i none with
    | none => s
    | some a =>
      if h.continuity ≠ a.continuity then abortRecord i .continuity s
      else if a.declared < a.bytes.length + h.useful then abortRecord i .length s
      else if s.freeBlocks < blocksFor (a.bytes.length + h.useful) - blocksFor a.bytes.length then
        abortRecord i .noBlocks s
      else
        let s := setRecord i
          { a with
            continuity := (h.continuity + 1) % 4
            bytes := a.bytes ++ data
            lastProgress := u.number } s
        if h.last then finishGroup i u s else s

/-! ### Parsing (R120, R121) -/

/-- R121: a used packet, judged by the route's address list. -/
def usePacket (n : Nat) (u : StreamUnit) (addrs : List Nat) (h : PacketHead) (data : List Byte)
    (s : State) : State :=
  if addrs ≠ [] ∧ h.address ∉ addrs then s
  else if h.first then openGroup n u h data s
  else continueGroup n u h data s

/-- R120: a whole packet whose head could be read: dropped, or used. -/
def takePacket (n : Nat) (u : StreamUnit) (addrs : List Nat) (h : PacketHead) (cells : List Cell)
    (s : State) : State :=
  let bytes := cells.flatMap Cell.bytes
  if cells.any Cell.erased ∨ !packetOk h.cells bytes ∨ 16 * h.cells - 5 < h.useful ∨ h.address = 0 then s
  else usePacket n u addrs h ((bytes.drop 3).take h.useful) s

/-- R120: the walk over the cells of a logical frame that are still to be read. -/
def walk (n : Nat) (u : StreamUnit) (addrs : List Nat) : Nat → List Cell → State → State
  | 0, _, s => s
  | _, [], s => s
  | fuel + 1, c :: rest, s =>
    let h := packetHead c.bytes
    if c.erased ∨ (c :: rest).length < h.cells then s
    else
      walk n u addrs fuel ((c :: rest).drop h.cells) (takePacket n u addrs h ((c :: rest).take h.cells) s)

/-- R119: the assembler takes a unit of host packet route n. -/
def assemble (n : Nat) (u : StreamUnit) (s : State) : State :=
  match u.kind with
  | .lost => abortRoute n .gap s
  | .gap => abortRoute n .gap s
  | .full => parse s
  | .damaged => parse s
where
  /-- R121: aborts what a changed address list excludes, then parses. -/
  parse (s : State) : State :=
    let addrs := (s.route n).addrs
    let s := abortWhere (fun a => a.route = n && addrs ≠ [] && !addrs.contains a.address) .service s
    walk n u addrs u.body.length u.body s

/-- R126: the timeout sweep of release r. -/
def timeoutSweep (r : Fn) (s : State) : State :=
  let limit := s.mgmt.settings.assembly
  abortWhere (fun a => limit < fnDist a.lastProgress r) .timeout s

end Sys2Proof.Machine
end

