-- ==== Sys2Proof/Machine/LaneStore.lean ====
section
/-! DEFINITION. The lane store (chapter 4): grants, returns, flushes, writes, completions. -/

namespace Sys2Proof.Machine

/-! ### Page lists of a route -/

/-- The route holds no pages: no slots, no tallies, fill count 0 (R76, R79). -/
def Route.dropPages (r : Route) : Route :=
  { r with pages := [], geometry := none, fill := 0, tallies := [] }

/-- R79: a flush keeps the page list and the bound geometry. -/
def Route.flush (r : Route) : Route :=
  { r with fill := 0, tallies := r.tallies.map fun _ => 0 }

/-- R74, R86: a grant of pages for the route's bound lane. -/
def Route.grant (pages : List Nat) (g : Geometry) (r : Route) : Route :=
  { r with
    state := .filling
    pages := pages
    geometry := some g
    fill := 0
    tallies := List.replicate g.depth 0 }

/-- An announcement route loses its binding and becomes VACANT, its pages returned (R96, R141). -/
def Route.unbind (r : Route) : Route :=
  { r.dropPages with binding := none, state := .vacant, bound := none, run := false }

/-- R101, R127: the route's run ends, and its assemblies are aborted. -/
def endRun (n : Nat) (s : State) : State :=
  abortRoute n .service (s.modRoute n fun r => { r with run := false })

/-! ### The allocator (R75) -/

/-- One route's turn in a pass. A STARVED route is granted its whole need or refused. `asks` are the
routes that make a request in the step; `imm` is the one whose request is immediate (R74). -/
def allocTurn (asks : List Nat) (imm : Option Nat) (s : State) (n : Nat) : State :=
  match (s.route n).state, (s.route n).bound with
  | .starved, some lane =>
    let free := s.freePages
    let need := pageNeed lane.geometry
    if need ≤ free.length then s.modRoute n (Route.grant (free.take need) lane.geometry)
    else
      let s := if n ∈ asks then { s with store := { s.store with refusals := bump s.store.refusals } } else s
      if imm = some n then s.modRoute n Route.unbind else endRun n s
  | _, _ => s

/-- R75: one allocation pass, in route order. -/
def allocPass (asks : List Nat) (imm : Option Nat) (s : State) : State :=
  (List.range 18).foldl (allocTurn asks imm) s

/-- Whether a step that began at `before` has returned some route's pages. -/
def pagesReturned (before s : State) : Bool :=
  (List.range 18).any fun n => (before.route n).pages ≠ [] && (s.route n).pages = []

/-- The end of an allocator step (R75, R76): the pass when pages came back or a request is made, and
the report of a return to the announcement controller. -/
def closeStep (before : State) (asks : List Nat) (imm : Option Nat) (s : State) : State :=
  let returned := pagesReturned before s
  let s' := if returned || !asks.isEmpty then allocPass asks imm s else s
  if returned then s'.dueEval else s'

/-! ### Writes and completions (R81 to R84) -/

/-- The slot of cell k at release r: logical frame (r − (k mod D)) mod 4096, modulo D (R81). -/
def slotOf (r : Fn) (k d : Nat) : Nat := (r - BitVec.ofNat 12 (k % d)).toNat % d

/-- R81: writes the S cells of one release into the slots of a page list. -/
def writeLane (g : Geometry) (pages : List Nat) (r : Fn) (cells : List Cell)
    (mem : List (Nat × Cell)) : List (Nat × Cell) :=
  (List.range g.size).foldl
    (fun mem k =>
      writeCell mem (pageAddress pages (slotOf r k g.depth * g.size + k)) (cells.getD (g.start + k) blankCell))
    mem

/-- Erased cells that release r writes into a slot. -/
def erasedInto (g : Geometry) (r : Fn) (cells : List Cell) (slot : Nat) : Nat :=
  ((List.range g.size).filter fun k =>
    slotOf r k g.depth = slot && (cells.getD (g.start + k) blankCell).erased).length

/-- R82: the tallies after the write of release r. -/
def nextTallies (g : Geometry) (r : Fn) (cells : List Cell) (tallies : List Nat) : List Nat :=
  (List.range g.depth).map fun slot =>
    if slot = r.toNat % g.depth then erasedInto g r cells slot
    else tallies.getD slot 0 + erasedInto g r cells slot

/-- The logical FN of unit number r at depth D: r − (D − 1), modulo 4096. -/
def logicalFn (r : Fn) (d : Nat) : Fn := r - BitVec.ofNat 12 (d - 1)

/-- The S cells of a slot in order of k. -/
def slotCells (g : Geometry) (pages : List Nat) (mem : List (Nat × Cell)) (slot : Nat) : List Cell :=
  (List.range g.size).map fun k => readCell mem (pageAddress pages (slot * g.size + k))

/-- R81, R82, R84: route n's write of a release, its pages laid out for g. -/
def laneWrite (n : Nat) (g : Geometry) (f : Frame) (s : State) : State :=
  let r := s.route n
  { s with store := { s.store with cells := writeLane g r.pages f.fn f.cells s.store.cells } }.modRoute n
    fun r => { r with fill := min (r.fill + 1) g.depth, tallies := nextTallies g f.fn f.cells r.tallies }

end Sys2Proof.Machine
end

