-- ==== Sys2Proof/Machine/Routes.lean ====
section
/-! DEFINITION. The route engine (chapter 5): resolution, map changes, units and runs, queues, and the
changes of state that writes, APPLY and the level make. -/

namespace Sys2Proof.Machine

/-! ### Resolution (R95, R96) -/

/-- The lane id a host route's component names in a program. -/
def componentLane (p : Program) (component : Nat) : Option Nat :=
  if component = 0 then some p.primary else p.companions[component - 1]?

/-- The lane a route resolves to in the lead map: a host route by program and component (R95), an
announcement route by its lane id (R96). -/
def lookupLane (s : State) (n : Nat) : Option Lane :=
  let r := s.route n
  if n < 16 then
    s.leadMap.bind fun m =>
      (m.program r.program).bind fun p => (componentLane p r.component).bind m.lane
  else r.binding.bind fun b => s.lane b.lane

/-- A route becomes PENDING: its binding gone, its pages returned, its run ended. -/
def toPending (n : Nat) (s : State) : State :=
  endRun n (s.modRoute n fun r => { r.dropPages with state := .pending, bound := none })

/-- A route bound to a lane asks for pages: it waits in STARVED for the pass of its step. -/
def toWaiting (n : Nat) (lane : Lane) (s : State) : State :=
  s.modRoute n fun r => { r.dropPages with state := .starved, bound := some lane }

/-- A route whose pages are laid out for a geometry. -/
def Route.holds (r : Route) (g : Geometry) : Bool := r.pages ≠ [] && r.geometry = some g

/-- R95, R109: a fresh resolution of route n, which ends its run. A route that keeps its geometry is
flushed and keeps its pages (R92). The list gathers the routes that ask for pages. -/
def resolveRoute (x : State × List Nat) (n : Nat) : State × List Nat :=
  let s := endRun n (x.1.modRoute n fun r => { r with reason := none })
  match lookupLane s n with
  | none => (toPending n s, x.2)
  | some lane =>
    if (s.route n).holds lane.geometry then
      (s.modRoute n fun r => { r.flush with state := .filling, bound := some lane }, x.2)
    else (toWaiting n lane s, x.2 ++ [n])

/-- R97, R88: a FILLING or RUNNING route whose component is found in the new map: it keeps its pages where the
lane's geometry is the same, and asks for pages anew where it is not. -/
def rebindRoute (x : State × List Nat) (n : Nat) (lane : Lane) : State × List Nat :=
  if (x.1.route n).holds lane.geometry then (x.1.modRoute n fun r => { r with bound := some lane }, x.2)
  else (toWaiting n lane x.1, x.2 ++ [n])

/-- R97, R88: route n at a change of the lead map. A waiting route counts as asking only when its need
changed (R75). A packet route that becomes a stream route has its assemblies aborted, whether it keeps its
geometry or not (R127). -/
def remapRoute (x : State × List Nat) (n : Nat) : State × List Nat :=
  let s := x.1
  let r := s.route n
  match r.state, lookupLane s n with
  | .vacant, _ => x
  | .suspended, _ => x
  | _, none => (toPending n s, x.2)
  | .pending, some lane => (toWaiting n lane s, x.2 ++ [n])
  | .starved, some lane =>
    let asks := (r.bound.map fun l => pageNeed l.geometry) ≠ some (pageNeed lane.geometry)
    (s.modRoute n fun r => { r with bound := some lane }, if asks then x.2 ++ [n] else x.2)
  | _, some lane =>
    let y := rebindRoute x n lane
    (if r.bound.any (·.form = .packet) && lane.form = .stream then abortRoute n .service y.1 else y.1, y.2)

/-- R97: the route engine's step at a change of the lead map. -/
def remapRoutes (s : State) : State :=
  let x := (List.range 18).foldl remapRoute (s, [])
  closeStep s x.2 none x.1

/-- R98, R90: at a following every route returns its pages and ends its run; the host routes that
were bound or wanted are then resolved, in one step. Routes 16 and 17 have been released before. -/
def followRoute (x : State × List Nat) (n : Nat) : State × List Nat :=
  match (x.1.route n).state with
  | .vacant => x
  | .suspended => x
  | _ => resolveRoute (toPending n x.1, x.2) n

/-- R87, R98: route n at a lead departure. -/
def departRoute (s : State) (n : Nat) : State :=
  endRun n (s.modRoute n fun r =>
    if r.pages = [] then r
    else { r.flush with state := if r.state = .running then .filling else r.state })

/-! ### Queue cuts, vacating, suspending (R106, R109, R116) -/

/-- R106, R131: items that have not begun are discarded. -/
def cutQueue (n : Nat) (s : State) : State :=
  s.modRoute n fun r => { r with queue := r.queue.filter Item.begun }

/-- R109, program id 0: the route becomes VACANT; listening and pin flags are cleared. -/
def vacateRoute (n : Nat) (s : State) : State :=
  endRun n (cutQueue n (s.modRoute n fun r =>
    { r.dropPages with
      program := 0, state := .vacant, reason := none, bound := none
      listening := false, pin := false, held := false }))

/-- R112, R116: the route becomes SUSPENDED. The listening route's queue is not cut while the reason
is REQUEST (R106). -/
def suspendRoute (reason : SuspendReason) (n : Nat) (s : State) : State :=
  let s := endRun n (s.modRoute n fun r =>
    { r.dropPages with state := .suspended, reason := some reason, bound := none })
  if (s.route n).listening && reason = .request then s else cutQueue n s

/-! ### Units (R99 to R101) -/

/-- A unit in hand at a release, before it is placed: the form its route has, and the unit. -/
structure Formed where
  route : Nat
  form : Form
  item : StreamUnit
  deriving DecidableEq, Repr

/-- The source field of a route's units (R102): 8 for PROGRAM, the class for routes 16 and 17. -/
def sourceOf (n : Nat) (r : Route) : Nat :=
  if n < 16 then 8 else (r.binding.map AnnounceBinding.cls).getD 8

/-- Counts a unit by its kind (R99, R100). -/
def Route.countUnit (kind : UnitKind) (r : Route) : Route :=
  match kind with
  | .full => r
  | .damaged => { r with damaged := bump r.damaged }
  | .lost => { r with lost := bump r.lost }
  | .gap => { r with gaps := bump r.gaps }

/-- The unit of route n at release r: of the kind given, with e erased cells and the body given. -/
def makeUnit (n : Nat) (r : Route) (fn : Fn) (g : Geometry) (kind : UnitKind) (e : Nat)
    (body : List Cell) : Formed where
  route := n
  form := if n < 16 then (r.bound.map Lane.form).getD .stream else .stream
  item :=
    { number := fn
      logical := logicalFn fn g.depth
      kind := kind
      erased := e
      source := sourceOf n r
      sourceChanged := false
      runStart := !r.run
      body := body }

/-- R84, R99, R101: route n's fill count is D after its write of the release: the unit of the
completed logical frame. -/
def completeRoute (n : Nat) (fn : Fn) (g : Geometry) (s : State) : State × List Formed :=
  let r := s.route n
  let slot := (logicalFn fn g.depth).toNat % g.depth
  let e := r.tallies.getD slot 0
  let kind := unitKind r.damage e
  let body := if kind = .lost then [] else slotCells g r.pages s.store.cells slot
  (s.modRoute n fun r => { r.countUnit kind with state := .running, run := true },
    [makeUnit n r fn g kind e body])

/-- R100: a FILLING route with its run flag set that completed nothing forms a GAP unit. -/
def gapRoute (n : Nat) (fn : Fn) (g : Geometry) (s : State) : State × List Formed :=
  let r := s.route n
  if r.state = .filling ∧ r.run then
    (s.modRoute n (Route.countUnit .gap), [makeUnit n r fn g .gap g.size []])
  else (s, [])

/-- The write of a release for route n and the unit it forms (R81 to R84, R99, R100). -/
def formUnit (f : Frame) (x : State × List Formed) (n : Nat) : State × List Formed :=
  let r := x.1.route n
  match r.pages, r.geometry with
  | _ :: _, some g =>
    let s := laneWrite n g f x.1
    let y := if (s.route n).fill = g.depth then completeRoute n f.fn g s else gapRoute n f.fn g s
    (y.1, x.2 ++ y.2)
  | _, _ => x

/-- The writes of a release and the units it forms, in route order. -/
def formUnits (f : Frame) (s : State) : State × List Formed :=
  (List.range 18).foldl (formUnit f) (s, [])

end Sys2Proof.Machine
end

