-- ==== Sys2Proof/Machine/Announce.lean ====
section
/-! DEFINITION. The announcement controller (chapter 7): live table, interruption stack, evaluation,
matching, the on-air source, removal, waking, and the step of a lead map change (R45, R97, R148). -/

namespace Sys2Proof.Machine

/-! ### Notices and sources -/

/-- Raises an ANNOUNCE notice for a stack entry: `route` is the route it names. -/
def announce (event : AnnounceEvent) (e : StackEntry) (route : Option Nat)
    (reason : Option RemoveReason) (s : State) : State :=
  s.raise (.announce event (some (e.cls.getD 8)) (some e.cluster) e.lane route s.ann.stack.length reason)

/-- Raises ANNOUNCE ON_AIR naming PROGRAM, or none when there is no listening route (log 11). -/
def announceProgram (s : State) : State :=
  match s.listening, s.ann.stack.head? with
  | some n, some e => announce .onAir e (some n) none s
  | _, _ => s.raise (.announce .onAir none none none none s.ann.stack.length none)

/-- The announcement route bound to an entry's lane. -/
def State.routeOf (s : State) (e : StackEntry) : Option Nat := e.lane.bind s.carrierOf

/-- The on-air source becomes `source`; the switch mark is set when it changes (R141). -/
def setSource (source : Option Nat) (s : State) : State :=
  if s.ann.onAir = source then s
  else s.modAnn fun a => { a with onAir := source, switchMark := true }

/-- Sets or clears the listening route's held flag (R105, R143, R146). -/
def setHeld (held : Bool) (s : State) : State :=
  match s.listening with
  | some n => s.modRoute n fun r => { r with held := held }
  | none => s

/-- The announcement routes that hold a binding. -/
def State.boundCarriers (s : State) : List Nat :=
  [16, 17].filter fun n => (s.route n).binding.isSome

/-- The given announcement routes become VACANT; no pass (the caller closes the step). -/
def unbindRoutes (ns : List Nat) (s : State) : State :=
  ns.foldl (fun s n => s.modRoute n Route.unbind) s

/-- R96, R141: the given announcement routes are released, in one step. -/
def releaseCarriers (ns : List Nat) (s : State) : State :=
  closeStep s [] none (unbindRoutes ns s)

/-! ### The bottom entry (R137) -/

/-- The cluster of the listening route's program in the lead map, or 0. -/
def programCluster (s : State) (n : Nat) : Nat :=
  (((s.leadMap.bind fun m => m.program (s.route n).program).map Program.cluster).getD 0)

/-- The PROGRAM entry of listening route n, made now. -/
def bottomEntry (s : State) (n : Nat) : StackEntry where
  cls := none
  cluster := programCluster s n
  lane := (s.route n).bound.map Lane.id
  start := s.lastFn

/-- R137: the bottom entry's cluster and lane are read again. -/
def rereadBottom (s : State) : State :=
  match s.listening, s.ann.stack with
  | some n, e :: rest =>
    s.modAnn fun a =>
      { a with stack :=
          { e with cluster := programCluster s n, lane := (s.route n).bound.map Lane.id } :: rest }
  | _, _ => s

/-! ### Removal (R145, R146) -/

/-- R146: a removal has made the PROGRAM entry the top: announcement routes are released at once, and the
listening route goes back on air, its held flag clear and the switch mark set, with ON_AIR. -/
def returnToProgram (s : State) : State :=
  let s := setHeld false (releaseCarriers s.boundCarriers s)
  announceProgram (s.modAnn fun a => { a with onAir := s.listening, switchMark := true })

/-- Removes the entry at position i with its notice. R153 says 16, 17 or the listening route's number for the
route field: the model names the announcement route bound to the removed entry's lane before any release, and
none when there is none (log 11). -/
def removeAt (reason : RemoveReason) (s : State) (i : Nat) : State :=
  match s.ann.stack[i]? with
  | none => s
  | some e =>
    announce .remove e (s.routeOf e) (some reason)
      ((s.modAnn fun a => { a with stack := a.stack.eraseIdx i }).dueEval)

/-- The positions of the announcement entries that satisfy p, from the top down. -/
def positionsFromTop (p : StackEntry → Bool) (stack : List StackEntry) : List Nat :=
  ((List.range stack.length).filter fun i => 0 < i && (stack[i]?).any p).reverse

/-- R145: removes the announcement entries that satisfy p, one notice each, from the top down; then
the listening channel follows the new top (R146). -/
def removeWhere (reason : RemoveReason) (p : StackEntry → Bool) (s : State) : State :=
  let ps := positionsFromTop p s.ann.stack
  let s := ps.foldl (removeAt reason) s
  if ps ≠ [] ∧ s.ann.stack.length ≤ 1 then returnToProgram s else s

/-- An announcement entry of a key. -/
def hasKey (cluster cls : Nat) (e : StackEntry) : Bool := e.cls = some cls && e.cluster = cluster

/-- R145, CLUSTER: the bottom entry is read again, and announcements of another cluster go. -/
def refreshBottom (s : State) : State :=
  let s := rereadBottom s
  match s.ann.stack.head? with
  | some b => removeWhere .cluster (fun e => e.cluster ≠ b.cluster) s
  | none => s

/-- R148: a change of the lead map reaches the controller. The evaluation it causes is left due. -/
def controllerMapChange (s : State) : State :=
  let s := rereadBottom s
  let s := removeWhere .laneGone (fun e => (e.lane.bind s.lane).isNone) s
  (refreshBottom s).dueEval

/-- R45: the lead map has changed: route engine and lane store, then announcement controller. -/
def leadMapChanged (s : State) : State := controllerMapChange (remapRoutes s)

/-! ### The listening route (R138) -/

/-- R138: a change of listening route clears the stack and builds it again. -/
def listeningChanged (s : State) : State :=
  let old := s.ann.onAir
  let ps := positionsFromTop (fun _ => true) s.ann.stack
  let s := ps.foldl (removeAt .cleared) s
  let s := releaseCarriers s.boundCarriers s
  let s := { s with routes := s.routes.map fun (r : Route) => { r with held := false } }
  let s := match s.listening with
    | some n => s.modAnn fun a => { a with stack := [bottomEntry s n], onAir := some n, switchMark := true }
    | none => s.modAnn fun a => { a with stack := [], onAir := none }
  let s := if s.ann.onAir = old then s else announceProgram s
  s.dueEval

/-! ### Matching (R141) -/

/-- R141, second case: a carrier for a lane and class: a bound route that is not on air, or the
lowest-numbered VACANT one. -/
def carrierFor (s : State) : Option Nat :=
  match [16, 17].find? fun n => (s.route n).binding.isSome && s.ann.onAir ≠ some n with
  | some n => some n
  | none => [16, 17].find? fun n => (s.route n).binding.isNone

/-- R141, R96: the carrier is released if bound, and bound to the lane: it waits for the pass of its step. -/
def askCarrier (n : Nat) (lane : Lane) (cls : Nat) (s : State) : State :=
  (unbindRoutes [n] s).modRoute n fun r =>
    { r with binding := some { lane := lane.id, cls := cls }, state := .starved, bound := some lane }

/-- R141, second case: in one step the carrier is released if bound and bound to the lane with an
immediate request; at a grant it takes the listening route's damage limit. -/
def bindCarrier (n : Nat) (lane : Lane) (cls : Nat) (s : State) : State :=
  let s' := closeStep s [n] (some n) (askCarrier n lane cls s)
  if (s'.route n).binding.isSome then
    match s'.listening with
    | some m => s'.modRoute n fun r => { r with damage := (s'.route m).damage }
    | none => s'
  else s'

/-- R141, first case: route n is bound to the lane: it takes the class, and any other bound route that
is not on air is released. -/
def keepCarrier (n cls : Nat) (s : State) : State :=
  let changed := (s.route n).binding.any (·.cls ≠ cls)
  let s := s.modRoute n fun r => { r with binding := r.binding.map fun b => { b with cls := cls } }
  let s := if changed && s.ann.onAir = some n then s.modAnn fun a => { a with switchMark := true } else s
  let others := s.boundCarriers.filter fun m => m ≠ n && s.ann.onAir ≠ some m
  if others = [] then s else releaseCarriers others s

/-- R141: matches the routes to an announcement on a lane. -/
def matchTo (lane cls : Nat) (s : State) : State :=
  match s.carrierOf lane, s.lane lane with
  | some n, _ => keepCarrier n cls s
  | none, some l =>
    match carrierFor s with
    | some n => bindCarrier n l cls s
    | none => s
  | none, none => s

/-! ### Evaluation (R139, R140, R151) -/

/-- Class n is in a set of classes. -/
def inClasses (set : Byte) (n : Nat) : Bool := set.getLsbD n

/-- The live entry of a key, with its place in the table. -/
def findLive (s : State) (cluster cls : Nat) : Option (Nat × LiveEntry) :=
  (List.range 16).findSome? fun i =>
    (s.ann.live.getD i none).bind fun e => if e.cluster = cluster ∧ e.cls = cls then some (i, e) else none

/-- Changes the live entry at place i. -/
def modLive (i : Nat) (f : Option LiveEntry → Option LiveEntry) (s : State) : State :=
  s.modAnn fun a => { a with live := a.live.modify i f }

/-- Of the live entries that satisfy p, the one of highest priority, class 0 first. -/
def bestLive (p : LiveEntry → Bool) (s : State) : Option LiveEntry :=
  (List.range 8).findSome? fun c => (s.ann.live.reduceOption).find? fun e => e.cls = c && p e

/-- The priority of a stack entry: its class, 8 for PROGRAM. -/
def StackEntry.priority (e : StackEntry) : Nat := e.cls.getD 8

/-- R140: the candidate of highest priority. -/
def candidate (s : State) : Option LiveEntry :=
  match s.ann.stack.head?, s.ann.stack.getLast? with
  | some bottom, some top =>
    bestLive (fun e =>
      e.cluster = bottom.cluster && bottom.cluster ≠ 0 && inClasses s.mgmt.settings.announce e.cls
        && !e.dismissed && (s.lane e.lane).isSome && e.cls < top.priority) s
  | _, _ => none

/-- R151: the wake candidate of highest priority. -/
def wakeCandidate (s : State) : Option LiveEntry :=
  match s.ann.stack.head? with
  | some bottom =>
    bestLive (fun e =>
      e.cluster = bottom.cluster && bottom.cluster ≠ 0 && inClasses s.mgmt.settings.wake e.cls
        && !e.dismissed && !e.quiet && (s.lane e.lane).isSome) s
  | none => none

/-- R140: a refusal is noted on the live entry of a key, with its notice when it differs from the one
noted last. -/
def noteRefusal (cluster cls : Nat) (what : NotedRefusal) (notice : NoticeBody) (s : State) : State :=
  match findLive s cluster cls with
  | some (i, e) =>
    if e.noted = what then s
    else (modLive i (fun x => x.map fun e => { e with noted := what }) s).raise notice
  | none => s

/-- The free pages at the turn of route n in a pass over s that it alone asks for (R75). -/
def freeAtTurn (n : Nat) (s : State) : Nat :=
  ((List.range n).foldl (allocTurn [n] (some n)) s).freePages.length

/-- R153: the free pages at the refusal of a carrier for a lane that is matched in state s. -/
def refusedRoom (lane cls : Nat) (s : State) : Nat :=
  match s.lane lane, carrierFor s with
  | some l, some n => freeAtTurn n (askCarrier n l cls s)
  | _, _ => s.freePages.length

/-- The ANNOUNCE_NO_ROOM notice of an announcement whose matching in state s was refused (R153). -/
def noRoomNotice (cluster cls lane : Nat) (s : State) : NoticeBody :=
  .noRoom cluster cls lane (((s.lane lane).map fun l => pageNeed l.geometry).getD 0) (refusedRoom lane cls s)

/-- R140: tries to push a candidate. -/
def tryPush (e : LiveEntry) (s : State) : State :=
  if 4 ≤ s.ann.stack.length then
    noteRefusal e.cluster e.cls .stackFull (.stackFull e.cluster e.cls e.lane)
      (s.modSticky fun k => { k with stackFull := true })
  else
    let refusal := noRoomNotice e.cluster e.cls e.lane s
    let s := matchTo e.lane e.cls s
    match s.carrierOf e.lane with
    | none => noteRefusal e.cluster e.cls .noRoom refusal s
    | some n =>
      let entry : StackEntry :=
        { cls := some e.cls, cluster := e.cluster, lane := some e.lane, start := s.lastFn }
      let s := s.modAnn fun a => { a with stack := a.stack ++ [entry] }
      let s := match findLive s e.cluster e.cls with
        | some (i, _) => modLive i (fun x => x.map fun e => { e with noted := .none }) s
        | none => s
      announce .push entry (some n) none s

/-- R141: the top is the PROGRAM entry, or the stack is empty. ON_AIR is raised when the source changes
(log 11). -/
def matchProgram (s : State) : State :=
  if s.boundCarriers = [] ∧ s.ann.onAir = s.listening then s
  else
    let old := s.ann.onAir
    let s := releaseCarriers s.boundCarriers s
    let s := setSource s.listening s
    if s.ann.onAir = old then s else announceProgram s

/-- R141: matches the routes to the top of the stack. A grant for a top that waited without a route leaves the
noted refusal of its live entry as it is, since R140 clears it at a push (the model's choice, log 11). -/
def matchTop (s : State) : State :=
  match s.ann.stack.getLast?.bind StackEntry.cls with
  | some cls =>
    match s.ann.stack.getLast? with
    | some { cluster := cluster, lane := some lane, .. } =>
      let refusal := noRoomNotice cluster cls lane s
      let s := matchTo lane cls s
      if (s.carrierOf lane).isSome then s else noteRefusal cluster cls .noRoom refusal s
    | _ => s
  | none => matchProgram s

/-- R140, R141: evaluation in RUN. Its own returns of pages raise no further one, and the routes are matched once,
at its end and after any push, to the top as it then is; a top that R146 or R148 leaves under a pushed candidate is
not matched before (the model's choices, log 11). -/
def evaluateRun (s : State) : State :=
  let s := match candidate s with
    | some e => tryPush e s
    | none => s
  (matchTop s).modAnn fun a => { a with evalDue := false }

/-- R112: the routes suspended by level are resolved, in one step. -/
def resumeRoutes (s : State) : State :=
  let x := (List.range 16).foldl
    (fun x n => if (x.1.route n).reason = some .level then resolveRoute x n else x) (s, [])
  closeStep s x.2 none x.1

/-- R152: the part wakes. -/
def wake (source : WakeSource) (e : Option LiveEntry) (s : State) : State :=
  let s := s.modAnn fun a =>
    { a with
      level := .run
      live := a.live.map fun x => x.map fun e => { e with quiet := false } }
  let s := refreshBottom (resumeRoutes s)
  let s := s.raise (.wake source (e.map LiveEntry.cls) (e.map LiveEntry.cluster))
  evaluateRun s

/-- R139: evaluation: in RUN a push and matching, in WATCH a wake. -/
def evaluate (s : State) : State :=
  match s.ann.level with
  | .run => evaluateRun s
  | .watch =>
    match wakeCandidate s with
    | some e => wake .candidate (some e) s
    | none => s.modAnn fun a => { a with evalDue := false }

/-- R139: evaluation runs once when a trigger has happened in the step. -/
def settle (s : State) : State := if s.ann.evalDue then evaluate s else s

/-! ### The live table (R135, R136) -/

/-- The lowest-numbered free entry of the live table. -/
def freeLive (s : State) : Option Nat :=
  (List.range 16).find? fun i => (s.ann.live.getD i none).isNone

/-- Frees the live entry at place i, and removes the stack entry of its key (R145). -/
def dropLive (reason : RemoveReason) (i : Nat) (e : LiveEntry) (s : State) : State :=
  removeWhere reason (hasKey e.cluster e.cls) (modLive i (fun _ => none) s).dueEval

/-- R135, ACTIVE with its key present: refreshed, or taken to another lane. `after` is the lead map as it
stands after the whole release (R31). -/
def refreshLive (after : Option MuxMap) (i : Nat) (e : LiveEntry) (lane : Nat) (r : Fn) (s : State) : State :=
  if lane = e.lane then modLive i (fun x => x.map fun e => { e with lastSeen := r }) s
  else
    let s := modLive i (fun x => x.map fun e => { e with lastSeen := r, lane := lane, noted := .none }) s
    let s := s.modAnn fun a =>
      { a with stack := a.stack.map fun x => if hasKey e.cluster e.cls x then { x with lane := some lane } else x }
    let s := s.dueEval
    if (after.bind (·.lane lane)).isSome then s else removeWhere .laneGone (hasKey e.cluster e.cls) s

/-- R135: one LIVE record of release r, after which the lead map is `after` (R31). -/
def liveRecord (after : Option MuxMap) (r : Fn) (s : State) (x : LiveRecord) : State :=
  if x.cluster = 0 ∨ x.lane = 0 then s
  else if x.code = 1 then
    match findLive s x.cluster x.cls, freeLive s with
    | some (i, e), _ => refreshLive after i e x.lane r s
    | none, some i =>
      (modLive i (fun _ => some
        { cluster := x.cluster, cls := x.cls, lane := x.lane, lastSeen := r
          dismissed := false, quiet := false, noted := .none }) s).dueEval
    | none, none => s
  else if x.code = 2 then
    match findLive s x.cluster x.cls with
    | some (i, e) => dropLive .ended i e s
    | none => s
  else s

/-- R136: the sweep of release r. `fresh`: the release point had been none before r. -/
def liveSweep (r : Fn) (fresh : Bool) (s : State) : State :=
  let s := if fresh then
      s.modAnn fun a => { a with live := a.live.map fun x => x.map fun e => { e with lastSeen := r } }
    else s
  let limit := s.mgmt.settings.liveRefresh
  let old := fun (e : LiveEntry) => limit < fnDist e.lastSeen r
  let gone := s.ann.live.reduceOption.filter old
  if gone = [] then s
  else
    let s := s.modAnn fun a => { a with live := a.live.map fun x => x.filter fun e => !old e }
    removeWhere .expired (fun e => gone.any fun g => hasKey g.cluster g.cls e) s.dueEval

/-! ### The on-air switch and the placing of units (R142, R143, R105) -/

/-- R143: the top's route has formed its first unit and is not on air: the switch is made. -/
def switchTo (n : Nat) (e : StackEntry) (s : State) : State :=
  let old := s.ann.onAir
  let s := setHeld true (setSource (some n) s)
  let s := match old with
    | some m => if 16 ≤ m then releaseCarriers [m] s else s
    | none => s
  announce .onAir e (some n) none s

/-- R142, R143: the on-air source of the release, after the units in hand have been formed. -/
def decideOnAir (formed : List Formed) (s : State) : State :=
  match s.ann.stack.getLast? with
  | some e =>
    match e.cls, s.routeOf e with
    | some _, some n =>
      if s.ann.onAir ≠ some n ∧ (s.route n).run ∧ formed.any (·.route = n) then switchTo n e s else s
    | _, _ => s
  | none => s

/-- A unit of route n enters the listening route's queue as the on-air source (R105, R142): placing it
clears the switch mark, and it counts on the route that formed it. -/
def placeOnAir (m : Nat) (u : Formed) (s : State) : State :=
  let item := { u.item with sourceChanged := s.ann.switchMark, source := sourceOf u.route (s.route u.route) }
  ((s.modAnn fun a => { a with switchMark := false }).modRoute u.route
    fun r => { r with sent := bump r.sent }).enqueue m (.ofUnit item)

/-- R104, R105: places one unit of a stream route, or discards it. Units of packet routes go to the
packet assembler (R119). -/
def placeUnit (s : State) (u : Formed) : State :=
  if u.form = .packet then s
  else if 16 ≤ u.route ∨ s.listening = some u.route then
    match s.listening with
    | some m =>
      if s.ann.onAir = some u.route ∧ ((s.route u.route).held = false ∨ 16 ≤ u.route) then
        placeOnAir m u s
      else s
    | none => s
  else
    (s.modRoute u.route fun r => { r with sent := bump r.sent }).enqueue u.route (.ofUnit u.item)

/-- R119: the units of packet routes go to the assembler in route order. -/
def assembleUnit (s : State) (u : Formed) : State :=
  if u.form = .packet then assemble u.route u.item s else s

end Sys2Proof.Machine
end

