-- ==== Sys2Proof/Machine/MapTracker.lean ====
section
/-! DEFINITION. The map trackers (chapter 2): sorting, filing, checking, installing and emptying maps. -/

namespace Sys2Proof.Machine

/-! ### Judging a collection (R35) -/

/-- The records of one kind, in index order. -/
def recordsOf (kind : Byte) (rs : List (List Byte)) : List (List Byte) :=
  rs.filter fun r => recordKind r = kind

/-- The sum of all bytes of records, modulo 65,536 (2.1). -/
def mapSum (rs : List (List Byte)) : Nat := ((rs.flatMap id).map BitVec.toNat).sum % 65536

/-- No element occurs twice. -/
def distinct {α : Type} [DecidableEq α] : List α → Bool
  | [] => true
  | x :: rest => x ∉ rest && distinct rest

/-- Two lanes share a payload cell. -/
def lanesMeet (x y : Geometry) : Bool := x.start < y.start + y.size && y.start < x.start + x.size

/-- No payload cell lies in two lanes. -/
def noOverlap : List Lane → Bool
  | [] => true
  | x :: rest => rest.all (fun y => !lanesMeet x.geometry y.geometry) && noOverlap rest

/-- LANE_MISSING of R35: a program's lane ids all name lanes, and none is named twice. -/
def programLanesOk (lanes : List Lane) (p : Program) : Bool :=
  let ids := p.primary :: p.companions
  ids.all (fun i => i ∈ lanes.map Lane.id) && distinct ids

/-- The consistency checks of R35 in the order of its table, with the reason of each. -/
def consistency (rs : List (List Byte)) : List (Bool × RejectReason) :=
  let lanes := (recordsOf 1 rs).map laneOf
  let programs := (recordsOf 2 rs).map programOf
  let alternates := (recordsOf 3 rs).map alternateOf
  [ (rs.all fieldsOk, .field),
    (distinct (lanes.map Lane.id), .laneId),
    (lanes.all fun l => l.geometry.start + l.geometry.size ≤ 720, .extent),
    (noOverlap lanes, .overlap),
    (lanes.all fun l => l.geometry.depth ∈ [1, 2, 4, 8, 16], .depth),
    (programs.all (programLanesOk lanes), .laneMissing),
    (distinct (programs.map Program.id), .programId),
    (distinct (alternates.map Alternate.id), .alternateId),
    (lanes.length ≤ 63 && programs.length ≤ 32 && alternates.length ≤ 16, .limit) ]

/-- What a collection is after a record has been filed into it. -/
inductive Verdict
  | collecting
  | complete
  | rejected (reason : RejectReason) (index : Option Nat)
  deriving DecidableEq, Repr

/-- R35: the tests in order. An index at or above N rejects at the filing that shows it (log 9). -/
def judge (c : Collection) : Verdict :=
  match c.summary with
  | none => .collecting
  | some sm =>
    let n := summaryCount sm
    match c.records.find? fun x => n ≤ x.1 with
    | some x => .rejected .excessIndex (some x.1)
    | none =>
      if !((List.range n).all fun i => c.records.any fun x => x.1 = i) then .collecting
      else if mapSum (c.records.map Prod.snd) ≠ summarySum sm then .rejected .sum none
      else
        match (consistency (c.records.map Prod.snd)).find? fun x => !x.1 with
        | some x => .rejected x.2 none
        | none => .complete

/-- Lanes in rising order of lane id. -/
def insertLane (l : Lane) : List Lane → List Lane
  | [] => [l]
  | x :: rest => if l.id ≤ x.id then l :: x :: rest else x :: insertLane l rest

/-- The map of a complete collection (2.1, 2.2). -/
def mapOf (c : Collection) : MuxMap :=
  let rs := c.records.map Prod.snd
  { version := c.version
    lanes := ((recordsOf 1 rs).map laneOf).foldr insertLane []
    programs := (recordsOf 2 rs).map programOf
    alternates := (recordsOf 3 rs).map alternateOf }

/-! ### Changing the current map (R36, R37, R43, R45) -/

/-- R45: a change of the lead tracker's map is handed on; the scout's is handed to no block. -/
def mapChanged (t : TrackerId) (s : State) : State :=
  match t with
  | .lead => leadMapChanged s
  | .scout => s

/-- A collection is installed as the current map, with MAP_SWITCH. -/
def installMap (t : TrackerId) (c : Collection) (reason : SwitchReason) (fn : Fn) (s : State) : State :=
  let old := (s.tracker t).map.map MuxMap.version
  let s := s.modTracker t fun x => { x with map := some (mapOf c), collection := none }
  mapChanged t (s.raiseAt (some fn) (.mapSwitch t (s.feeder t) reason c.version old))

/-- The current map becomes EMPTY, with MAP_LOST; an EMPTY map stays so, without a notice. -/
def emptyMap (t : TrackerId) (reason : LostReason) (fn : Option Fn) (s : State) : State :=
  match (s.tracker t).map with
  | none => s
  | some m =>
    let s := s.modTracker t fun x => { x with map := none }
    mapChanged t (s.raiseAt fn (.mapLost t (s.feeder t) reason m.version))

/-- R43: a tracker is emptied on request. The notice names the last frame it acted on (log 9). -/
def emptyTracker (t : TrackerId) (reason : LostReason) (s : State) : State :=
  emptyMap t reason (s.tracker t).lastFn
    (s.modTracker t fun x => { x with collection := none, target := none })

/-- R42: the tracker clears its switch target. -/
def clearTarget (t : TrackerId) (s : State) : State := s.modTracker t fun x => { x with target := none }

/-- R36: a rejected collection is discarded, with its sticky flag and notice. -/
def rejectMap (t : TrackerId) (reason : RejectReason) (version : Nat) (index : Option Nat) (fn : Fn)
    (s : State) : State :=
  let l := s.feeder t
  let s := s.modTracker t fun x => { x with collection := none }
  let s := s.modSticky fun k =>
    match l with
    | .a => { k with mapRejectedA := true }
    | .b => { k with mapRejectedB := true }
  s.raiseAt (some fn) (.mapRejected t l reason version index)

/-! ### Filing (R32 to R37) -/

/-- R32: whether a versioned record is filed. -/
def isFiled (x : Tracker) (h : Header) (r : List Byte) : Bool :=
  if recordNext r then h.countdown ≠ 0 && recordVersion r = h.nextVersion
  else recordVersion r = h.mapVersion && x.target.isNone && x.map.map MuxMap.version ≠ some (recordVersion r)

/-- R33: the collection a record goes into: the tracker's, if of its version, or a new one. -/
def collectionFor (x : Tracker) (version : Nat) : Collection :=
  match x.collection with
  | some c =>
    if c.version = version then c
    else { version := version, records := [], summary := none, complete := false }
  | none => { version := version, records := [], summary := none, complete := false }

/-- Files a record at its index, keeping the indices in rising order. -/
def insertRecord (i : Nat) (r : List Byte) : List (Nat × List Byte) → List (Nat × List Byte)
  | [] => [(i, r)]
  | x :: rest => if i < x.1 then (i, r) :: x :: rest else x :: insertRecord i r rest

/-- The record already held where one is to be filed: at its index, or as the summary. -/
def heldRecord (c : Collection) : Option Nat → Option (List Byte)
  | some i => (c.records.find? fun x => x.1 = i).map Prod.snd
  | none => c.summary

/-- The collection with a record filed at its index, or as its summary. -/
def withRecord (c : Collection) (i : Option Nat) (r : List Byte) : Collection :=
  match i with
  | some i => { c with records := insertRecord i r c.records }
  | none => { c with summary := some r }

/-- R35, R37: what becomes of a collection after a filing. -/
def takeVerdict (t : TrackerId) (f : Frame) (c : Collection) (s : State) : State :=
  match judge c with
  | .collecting => s.modTracker t fun x => { x with collection := some { c with complete := false } }
  | .complete =>
    if c.version = f.header.mapVersion ∧ (s.tracker t).target = none then
      installMap t c .acquired f.fn s
    else s.modTracker t fun x => { x with collection := some { c with complete := true } }
  | .rejected reason index => rejectMap t reason c.version index f.fn s

/-- R33 to R37: files a record at index i, or the summary (none; its index is reported as 127). -/
def fileRecord (t : TrackerId) (f : Frame) (i : Option Nat) (r : List Byte) (s : State) : State :=
  let c := collectionFor (s.tracker t) (recordVersion r)
  match heldRecord c i with
  | some held =>
    if held = r then s else rejectMap t .conflict c.version (some (i.getD 127)) f.fn s
  | none => takeVerdict t f (withRecord c i r) s

/-- R32: a versioned record is filed, or ignored. -/
def offerRecord (t : TrackerId) (f : Frame) (i : Option Nat) (r : List Byte) (s : State) : State :=
  if isFiled (s.tracker t) f.header r then fileRecord t f i r s else s

/-- R30, R31: one record position of a frame. A LIVE record goes to `live`. -/
def takeRecord (t : TrackerId) (f : Frame) (live : State → LiveRecord → State) (s : State)
    (p : Option (List Byte)) : State :=
  match p with
  | none => s
  | some r =>
    if recordOk r then
      match sortRecord r with
      | .ignored => s
      | .live => live s (liveOf r)
      | .filed i => offerRecord t f (some i) r s
      | .summary => offerRecord t f none r s
    else s

/-- R29, second step: the four record positions in order. -/
def takeRecords (t : TrackerId) (f : Frame) (live : State → LiveRecord → State) (s : State) : State :=
  f.records.foldl (takeRecord t f live) s

/-- R31: LIVE records pass by the scout tracker. -/
def ignoreLive (s : State) (_ : LiveRecord) : State := s

/-- R31: the second step of a lead release: versioned records are filed and LIVE records handed to the
announcement controller in position order. The controller tests lanes against the lead map as the whole
release leaves it. -/
def leadRecords (f : Frame) (s : State) : State :=
  takeRecords .lead f (liveRecord (takeRecords .lead f ignoreLive s).leadMap f.fn) s

/-! ### Header and FN (R38 to R41) -/

/-- R40: the switch frame. -/
def switchFrame (t : TrackerId) (f : Frame) (s : State) : State :=
  match (s.tracker t).target with
  | none => s
  | some g =>
    if g.fn = f.fn then
      let s := clearTarget t s
      match (s.tracker t).collection with
      | some c =>
        if c.complete ∧ c.version = g.version then installMap t c .switched f.fn s
        else emptyMap t .incomplete (some f.fn) s
      | none => emptyMap t .incomplete (some f.fn) s
    else s

/-- R38, R39: the countdown of a real frame. -/
def takeCountdown (t : TrackerId) (f : Frame) (s : State) : State :=
  let h := f.header
  if h.countdown ≠ 0 then
    s.modTracker t fun x =>
      { x with
        target := some { fn := f.fn + BitVec.ofNat 12 h.countdown, version := h.nextVersion }
        collection := x.collection.filter fun c => c.version = h.nextVersion }
  else
    s.modTracker t fun x =>
      match x.target with
      | none => x
      | some g => { x with target := none, collection := x.collection.filter fun c => c.version ≠ g.version }

/-- R41: the version check of a real frame. -/
def versionCheck (t : TrackerId) (f : Frame) (s : State) : State :=
  let v := f.header.mapVersion
  let x := s.tracker t
  let ready := x.collection.filter fun c => c.complete && c.version = v
  match x.map, ready with
  | some m, ready =>
    if m.version = v then s
    else
      match ready with
      | some c => installMap t c .unannounced f.fn (clearTarget t s)
      | none =>
        emptyMap t .unannounced (some f.fn)
          (s.modTracker t fun x =>
            { x with target := none, collection := x.collection.filter fun c => c.version = v })
  | none, some c => if x.target = none then installMap t c .acquired f.fn s else s
  | none, none => s

/-- R29, first step: switch frame, countdown, version check. Of a substitute only the FN is used
(R28). -/
def trackerHead (t : TrackerId) (f : Frame) (s : State) : State :=
  let s := s.modTracker t fun x => { x with lastFn := some f.fn }
  let s := switchFrame t f s
  if f.real then versionCheck t f (takeCountdown t f s) else s

/-- R28: the scout tracker acts on a frame the scout link hands on. -/
def scoutFrame (f : Frame) (s : State) : State :=
  takeRecords .scout f ignoreLive (trackerHead .scout f s)

end Sys2Proof.Machine
end

