-- ==== Sys2Proof/Machine/Apply.lean ====
section
/-! DEFINITION. Placing replies (R167, R175) and the action of a held APPLY (R115, R116). -/

namespace Sys2Proof.Machine

/-- R167, R175: sets the LAST flags, forms the reply from the state as it then stands, places it in the
reply queue, and the request leaves the request queue (R156). -/
def answer (req : Request) (last : LastFlags) (cells : List (List Byte)) (s : State) : State :=
  let s := { s with mgmt := { s.mgmt with last := last, requests := s.mgmt.requests.drop 1 } }
  let reply : Reply := { tag := req.tag, cells := replyHead s req.op.code :: cells, started := 0 }
  { s with trunk := { s.trunk with replies := s.trunk.replies ++ [reply] } }

/-- R115: the marked routes: from..to, less the unmarked ones, less those VACANT now. -/
def markedRoutes (s : State) : List Nat :=
  let x := s.mgmt.selection
  (List.range 16).filter fun n =>
    x.first.any (· ≤ n) && x.last.any (n ≤ ·) && !x.unmarked.contains n && (s.route n).state ≠ .vacant

/-- R116: the marked routes an action changes. -/
def applyTargets (kind : ApplyKind) (s : State) : List Nat :=
  (markedRoutes s).filter fun n =>
    match kind with
    | .release => !(s.route n).pin
    | .suspend => (s.route n).reason ≠ some .request
    | .engage => (s.route n).state = .suspended

/-- R116: the pinned routes a RELEASE skips. -/
def pinnedSkipped (kind : ApplyKind) (s : State) : Nat :=
  match kind with
  | .release => ((markedRoutes s).filter fun n => (s.route n).pin).length
  | .suspend => 0
  | .engage => 0

/-- R116: the action on the routes, in one step with one pass. -/
def applyStep (kind : ApplyKind) (s : State) : State :=
  let ns := applyTargets kind s
  match kind with
  | .release => closeStep s [] none (ns.foldl (fun s n => vacateRoute n s) s)
  | .suspend => closeStep s [] none (ns.foldl (fun s n => suspendRoute .request n s) s)
  | .engage =>
    let x := ns.foldl resolveRoute (s, [])
    closeStep s x.2 none x.1

/-- The controller is told of a change of listening route (R110), or reads the bottom entry again
(R137). -/
def tellController (before : Option Nat) (s : State) : State :=
  if s.listening = before then refreshBottom s else listeningChanged s

/-- R115, R116: the held APPLY acts: the routes, the controller, the record, the reply. -/
def actApply (s : State) : State :=
  match s.mgmt.held, s.mgmt.requests with
  | some kind, req :: _ =>
    let found := s.mgmt.selection
    let changed := (applyTargets kind s).length
    let skipped := pinnedSkipped kind s
    let t := applyStep kind { s with mgmt := { s.mgmt with held := none, applyDue := false } }
    let t := settle (tellController s.listening t)
    let t := { t with mgmt := { t.mgmt with selection := .idle } }
    answer req { outcome := .ok, sequenceReset := false, pinSkip := 0 < skipped }
      [selectionCell found changed skipped] t
  | _, _ => s

/-- An APPLY that has met its release or departure acts before anything that follows it (log 7). -/
def actIfDue (s : State) : State := if s.mgmt.applyDue then actApply s else s

/-- R115: a held APPLY has met a release or a departure. -/
def markDue (s : State) : State :=
  { s with mgmt := { s.mgmt with applyDue := s.mgmt.held.isSome } }

end Sys2Proof.Machine
end

