-- ==== Sys2Proof/Machine/Roles.lean ====
section
/-! DEFINITION. The role controller (chapter 3): checks at a release, kinds of handover, swaps, BREAKs
and followings. -/

namespace Sys2Proof.Machine

/-! ### The merge stage's buffers -/

/-- Removes the held partner frames that satisfy p; each counts as merge dropped for its link (R55). -/
def dropHeld (p : HeldFrame → Bool) (s : State) : State :=
  let gone := s.merge.held.filter p
  let s := { s with merge := { s.merge with held := s.merge.held.filter fun h => !p h } }
  gone.foldl (fun s h => s.modLink h.link fun x => { x with mergeDropped := bump x.mergeDropped }) s

/-- The merge stage starts afresh: both collections empty, no release point (R53, R70). -/
def clearMerge (s : State) : State :=
  let s := dropHeld (fun _ => true) { s with merge := { s.merge with waiting := [] } }
  { s with merge := { s.merge with releasePoint := none } }

/-! ### Roles -/

/-- Sets the role of a link. -/
def setRole (l : LinkId) (r : Role) (s : State) : State := s.modLink l fun x => { x with role := r }

/-- R54: a change of any link's role clears the arm record, the dwell count and the advised mark. -/
def clearMarks (s : State) : State :=
  { s with roles := { s.roles with arm := none, dwell := 0, advised := false } }

/-- R54: the ROLE notice of a change of roles. -/
def roleNotice (reason : RoleReason) (kind : Option HandoverKind) (s : State) : State :=
  s.raise (.role s.linkA.role s.linkB.role reason kind s.lastQ)

/-- R51: whether a swap to link l is SEAMLESS. -/
def isSeamless (l : LinkId) (s : State) : Bool :=
  let old := s.link (otherLink l)
  let new := s.link l
  match s.merge.releasePoint, new.lastFn, s.leadMap, new.lastHeader with
  | some rp, some last, some m, some h =>
    old.synced && new.synced && new.followedId = old.followedId && m.version = h.mapVersion
      && (fnDist rp last ≤ 7 || fnDist last rp ≤ 7)
  | _, _, _, _ => false

/-- R52, R53, R54: gives LEAD to link l and `role` to the old lead, SEAMLESS or as a BREAK. -/
def handover (l : LinkId) (role : Role) (seamless : Bool) (reason : RoleReason) (s : State) : State :=
  let s := clearMarks (setRole (otherLink l) role (setRole l .lead s))
  if seamless then roleNotice reason (some .seamless) s
  else roleNotice reason (some .brk) (emptyTracker .lead .handover (clearMerge s))

/-- R51: a swap of LEAD and PARTNER, its kind judged now. -/
def swapRoles (reason : RoleReason) (s : State) : State :=
  let l := otherLink s.leadLink
  if (s.link l).role = .partner then handover l .partner (isSeamless l s) reason s else s

/-! ### Following (R70, R149) -/

/-- R149: the controller's part of a following, before the routes are resolved; no pass. Its ON_AIR notice so names
the lane that the listening route is still bound to from the old multiplex (the model's choice, log 11). -/
def followController (s : State) : State :=
  let aired := s.ann.onAir.any (16 ≤ ·)
  let s := (positionsFromTop (fun _ => true) s.ann.stack).foldl (removeAt .follow) s
  let s := unbindRoutes s.boundCarriers s
  let s := setHeld false (s.modAnn fun a =>
    { a with
      live := a.live.map fun _ => none
      onAir := s.listening
      switchMark := a.switchMark || s.listening.isSome })
  let s := rereadBottom s
  if aired then announceProgram s else s

/-- R98, R90: the routes at a following, in one step that began at `before`. -/
def followRoutes (before s : State) : State :=
  let x := (List.range 18).foldl followRoute (s, [])
  closeStep before x.2 none x.1

/-- R44: the trackers exchange everything they hold (log 9). -/
def exchangeTrackers (s : State) : State :=
  { s with leadTracker := s.scoutTracker, scoutTracker := s.leadTracker }

/-- R70: the scout becomes LEAD and the lead becomes SCOUT. -/
def follow (reason : RoleReason) (s : State) : State :=
  let l := otherLink s.leadLink
  let s := clearMarks (setRole (otherLink l) .scout (setRole l .lead s))
  let s := roleNotice reason (some .following) (clearMerge (exchangeTrackers s))
  (rereadBottom (followRoutes s (followController s))).dueEval

/-- R67: the candidate check: the scout link and the listening program when it passes. -/
def followCandidate (forced : Bool) (s : State) : Option (LinkId × Id16) :=
  match s.linkOf .scout, s.listening with
  | some l, some n =>
    let id := (s.route n).program
    let x := s.link l
    let inScout := (s.scoutTracker.map.bind fun m => m.program id).isSome
    let inLead := s.leadMap.any fun m =>
      m.alternates.any fun a => a.id = id && a.others.contains x.followedId
    if x.sync = .locked ∧ x.level = .good ∧ inScout ∧ (forced ∨ inLead) then some (l, id) else none
  | _, _ => none

/-! ### Checks at a release (R63) -/

/-- R66: the partner tests of the armed check: LOCKED on the lead's multiplex. -/
def partnerReady (s : State) : Bool :=
  match s.linkOf .partner with
  | some l => (s.link l).sync = .locked && (s.link l).followedId = (s.link s.leadLink).followedId
  | none => false

/-- A role change is decided at this release (R63). -/
def decide' (d : Decision) (s : State) : State := { s with roles := { s.roles with decision := some d } }

/-- R66: the armed check at release r. -/
def armedCheck (r : Fn) (s : State) : State :=
  if s.roles.arm = some r then
    let s := { s with roles := { s.roles with arm := none } }
    if partnerReady s then decide' .armedSwap s
    else s.raiseAt (some r) (.armFailed ((s.linkOf .partner).map fun l => (l, (s.link l).sync)))
  else s

/-- R64: the auto-swap check. -/
def autoSwapCheck (s : State) : State :=
  let usable := (s.linkOf .partner).any fun l => (s.link l).level = .good || (s.link l).level = .weak
  if s.mgmt.settings.autoSwap ∧ (s.link s.leadLink).level = .poor ∧ partnerReady s ∧ usable then
    decide' .autoSwap s
  else s

/-- R68: the follow dwell at a release of released q. -/
def followDwell (r : Fn) (q : Nat) (s : State) : State :=
  let poor := (s.link s.leadLink).level = .poor
  let s := if poor then s else { s with roles := { s.roles with advised := false } }
  match s.mgmt.settings.follow, (if poor then followCandidate false s else none) with
  | .advise, some (l, id) =>
    if s.roles.advised then s
    else
      { s with roles := { s.roles with advised := true } }.raiseAt (some r)
        (.followCandidate l (s.link l).followedId id (s.link l).quality q)
  | .auto, some _ =>
    let dwell := s.roles.dwell + 1
    let s := { s with roles := { s.roles with dwell := dwell } }
    if s.mgmt.settings.dwell ≤ dwell then decide' .follow s else s
  | _, _ => { s with roles := { s.roles with dwell := 0 } }

/-- R63: the role controller's checks at a release; the first that decides a change ends them, for
this release and the later ones of the event. -/
def roleChecks (r : Fn) (q : Nat) (s : State) : State :=
  if s.roles.decision.isSome then s
  else
    let s := armedCheck r s
    if s.roles.decision.isSome then s
    else
      let s := autoSwapCheck s
      if s.roles.decision.isSome then s else followDwell r q s

/-- R63, R117: after the last release of the event the decided handover is made: at the end of the whole
event, so after all that a lead departure in it does (the model's choice, log 19). A due APPLY may act before
it or after it: a free choice (log 7). -/
def finishEvent (s : State) : State :=
  match s.roles.decision with
  | none => s
  | some d =>
    let s := { s with roles := { s.roles with decision := none } }
    let s :=
      if s.mgmt.applyDue then
        let first := Config.applyActsFirst s.freeIndex
        let s := { s with freeIndex := s.freeIndex + 1 }
        if first then actApply s else s
      else s
    match d with
    | .autoSwap => swapRoles .autoSwap s
    | .armedSwap => swapRoles .armed s
    | .follow => if (s.link (otherLink s.leadLink)).role = .scout then follow .follow s else s

end Sys2Proof.Machine
end

