-- ==== Sys2Proof/Machine/Merge.lean ====
section
/-! DEFINITION. The merge stage (3.3) and the handling of a lead release by the blocks after it. -/

namespace Sys2Proof.Machine

/-! ### A release downstream (R29, R60, R92, R119, R142) -/

/-- The blocks after the merge stage handle one lead release: tracker head; lane store and units;
records; live records and sweep; evaluation; on-air decision; placing; assembler; role controller.
`fresh`: the release point had been none before it (R136). -/
def downstream (f : Frame) (fresh : Bool) (s : State) : State :=
  let s := trackerHead .lead f s
  let x := formUnits f s
  let s := liveSweep f.fn fresh (leadRecords f x.1)
  let s := settle (decideOnAir x.2 (settle s))
  let s := x.2.foldl assembleUnit (x.2.foldl placeUnit s)
  roleChecks f.fn f.q (markDue (timeoutSweep f.fn s))

/-! ### Composition and release (R59, R60) -/

/-- R59: a cell of a merged release. -/
def mergeCell (lead partner : Cell) : Cell :=
  if lead.erased && !partner.erased then partner else lead

/-- R59: a record position of a merged release. -/
def mergeRecord (lead partner : Option (List Byte)) : Option (List Byte) :=
  if lead.any recordOk then lead else partner

/-- R59: a lead frame merged with its partner frame. -/
def mergeFrames (lead partner : Frame) : Frame where
  fn := lead.fn
  mux := lead.mux
  header := if lead.real then lead.header else partner.header
  records := (List.range 4).map fun i =>
    mergeRecord (lead.records.getD i none) (partner.records.getD i none)
  cells := lead.cells.zipWith mergeCell partner.cells
  q := max lead.q partner.q
  real := lead.real || partner.real

/-- R59, R60: releases the front lead frame, merged with its held partner frame when there is one. A held frame
is before n when n is after it, so one at FN distance 2048 is kept (the model's choice, log 21). -/
def releaseFront (s : State) : State :=
  match s.merge.waiting with
  | [] => s
  | n :: rest =>
    let partner := s.merge.held.find? fun h => h.frame.fn = n.fn
    let fresh := s.merge.releasePoint.isNone
    let f := match partner with
      | some h => mergeFrames n h.frame
      | none => n
    let s := match partner with
      | some h => s.modLink h.link fun x => { x with merged := bump x.merged }
      | none => s
    let s :=
      { s with merge :=
        { s.merge with
          waiting := rest
          held := s.merge.held.filter fun h => h.frame.fn ≠ n.fn
          releasePoint := some n.fn
          lastRelease := some (n.fn, f.q) } }
    let s := dropHeld (fun h => fnAfter h.frame.fn n.fn) s
    downstream f fresh s

/-- Releases k frames from the front, one after another. An APPLY that has met a release acts before the
next one (R115). -/
def releaseMany : Nat → State → State
  | 0, s => s
  | k + 1, s => releaseMany k (releaseFront (actIfDue s))

/-- R58: how many waiting frames the release test releases. -/
def releaseCount (w : Nat) (waiting : List Frame) (held : List HeldFrame) : Nat :=
  match waiting.getLast? with
  | none => 0
  | some newest =>
    let due := fun (n : Frame) =>
      held.any (fun h => h.frame.fn = n.fn) || w = 0 || w ≤ fnDist n.fn newest.fn
    (waiting.reverse.dropWhile fun n => !due n).length

/-- R58: the release test. -/
def releaseTest (s : State) : State :=
  releaseMany (releaseCount s.mgmt.settings.window s.merge.waiting s.merge.held) s

/-- R61: every waiting lead frame is released at once, one after another. A held APPLY waits for the
departure (R115). -/
def releaseAll (s : State) : State := releaseFront^[s.merge.waiting.length] s

/-! ### Entries (R56, R57) -/

/-- A lead frame enters the lead wait queue; the release test follows. -/
def enterWaiting (s : State) (f : Frame) : State :=
  releaseTest { s with merge := { s.merge with waiting := s.merge.waiting ++ [f] } }

/-- A frame discarded as LATE by the merge stage. -/
def mergeLateFrame (l : LinkId) (s : State) : State :=
  (s.modLink l fun x => { x with mergeLate := bump x.mergeLate }).modSticky
    fun k => { k with lateFrames := true }

/-- Places a held frame by FN: before the first held frame that is after it. -/
def insertHeld (h : HeldFrame) : List HeldFrame → List HeldFrame
  | [] => [h]
  | x :: rest => if fnAfter h.frame.fn x.frame.fn then h :: x :: rest else x :: insertHeld h rest

/-- FN n is at or before the release point: not after it, so distance 2048 counts as before (the model's choice,
log 21). -/
def atOrBefore (releasePoint : Option Fn) (n : Fn) : Bool := releasePoint.any fun rp => !fnAfter rp n

/-- R57: the table of a frame offered to the partner hold buffer. -/
def placeHeld (l : LinkId) (f : Frame) (s : State) : State :=
  if atOrBefore s.merge.releasePoint f.fn then mergeLateFrame l s
  else if s.merge.held.any fun h => h.frame.fn = f.fn then
    s.modLink l fun x => { x with mergeDropped := bump x.mergeDropped }
  else
    let s := match s.merge.held with
      | x :: rest =>
        if 4 ≤ s.merge.held.length then
          { s with merge := { s.merge with held := rest } }.modLink x.link
            fun x => { x with mergeDropped := bump x.mergeDropped }
        else s
      | [] => s
    releaseTest
      { s with merge := { s.merge with held := insertHeld { link := l, frame := f } s.merge.held } }

/-- R57: a frame handed on by the partner link. -/
def partnerEntry (l : LinkId) (f : Frame) (s : State) : State :=
  let lead := s.link s.leadLink
  if lead.synced ∧ f.mux = lead.followedId then placeHeld l f s
  else s.modLink l fun x => { x with mergeDropped := bump x.mergeDropped }

/-- R56: the fill frames for the d − 1 FNs after e, then the frame itself. -/
def fillAndEnter (e : Fn) (d : Nat) (f : Frame) (s : State) : State :=
  let fills := (List.range (d - 1)).map fun i =>
    substituteFrame (e + BitVec.ofNat 12 (i + 1)) f.mux f.header
  (fills ++ [f]).foldl enterWaiting s

/-- R56: the entry rule for a lead frame of link l. -/
def leadEntry (l : LinkId) (f : Frame) (s : State) : State :=
  let e := match s.merge.waiting.getLast? with
    | some x => some x.fn
    | none => s.merge.releasePoint
  match e with
  | none => enterWaiting s f
  | some e =>
    if fnAfter e f.fn then fillAndEnter e (fnDist e f.fn) f s
    else if atOrBefore s.merge.releasePoint f.fn then mergeLateFrame l s
    else placeHeld l f s

end Sys2Proof.Machine
end

