-- ==== Sys2Proof/Machine/Intake.lean ====
section
/-! DEFINITION. Frame intake and frame time (chapter 1): sync states, frame timer, trim, quality
monitor, departures, and the meanings of ARRIVAL and MISS. -/

namespace Sys2Proof.Machine

/-! ### Frame timer (R16 to R21) -/

/-- R19: the skip term e(j) for trim part f. -/
def skipTerm (f j : Nat) : Nat := (j + 1) * f / 16 - j * f / 16

/-- R19: period(j) for the link's trim. -/
def Link.period (x : Link) (j : Nat) : Nat :=
  ((framePeriod : Int) + x.trimC).toNat + skipTerm x.trimF j

/-- The due time set from a frame that arrived at time t; the skip phase advances (R16). -/
def Link.setDue (t : Nat) (x : Link) : Link :=
  { x with due := some (t + x.period x.phase), phase := (x.phase + 1) % 16 }

/-- A measuring window that starts with a frame that arrived at time t (R20). -/
def startWindow (t : Nat) : Window := { first := t, latest := t, count := 0, sum := 0 }

/-- R21: the trim of a window whose intervals sum to `sum`: clamped to −1280..+1279. -/
def trimOf (sum : Nat) : Int := min 1279 (max (-1280) ((sum : Int) - 12288000))

/-- R20, R21: a real frame taken in LOCKED adds its interval; the sixteenth installs a new trim. -/
def Link.measure (t : Nat) (x : Link) : Link :=
  match x.window with
  | none => { x with window := some (startWindow t) }
  | some w =>
    let sum := w.sum + (t - w.latest)
    if w.count + 1 < 16 then
      { x with window := some { w with latest := t, count := w.count + 1, sum := sum } }
    else { x with trim := trimOf sum, phase := 0, window := some (startWindow t) }

/-- R16, R20: the frame timer's part of taking a real frame that arrived at time t. A link not in
LOCKED starts a new window. -/
def Link.timeTaken (t : Nat) (x : Link) : Link :=
  if x.sync = .locked then (x.measure t).setDue t
  else ({ x with window := some (startWindow t) } : Link).setDue t

/-! ### Quality monitor (R22 to R25) -/

/-- R24: the score and quality after an update with q. -/
def Link.updateScore (q : Nat) (x : Link) : Link :=
  let score := x.score - x.score / 8 + q
  { x with score := score, quality := score / 8 }

/-- The level of link l becomes `level`; a change raises one QUALITY notice (R25). -/
def setLevel (l : LinkId) (level : QLevel) (s : State) : State :=
  let old := (s.link l).level
  let s := s.modLink l fun x => { x with level := level }
  if old = level then s else s.raise (.quality l old level (s.link l).quality)

/-- R24, R25: the quality update of a frame taken or substituted. -/
def updateQuality (l : LinkId) (q : Nat) (s : State) : State :=
  let s := s.modLink l (Link.updateScore q)
  setLevel l (nextLevel s.mgmt.settings (s.link l).level (s.link l).quality) s

/-- R23: the monitor is set from the q of the frame that enters LOCKED. -/
def enterQuality (l : LinkId) (q : Nat) (s : State) : State :=
  setLevel l (entryLevel s.mgmt.settings q) (s.modLink l fun x => { x with score := 8 * q, quality := q })

/-! ### Handing on and departing (R12, R14, R61) -/

/-- R14: a taken or substitute frame goes to the consumer of the link's role. -/
def handOn (l : LinkId) (f : Frame) (s : State) : State :=
  match (s.link l).role with
  | .lead => leadEntry l f s
  | .partner => if f.real then partnerEntry l f s else s
  | .scout => if f.real then scoutFrame f s else s
  | .off => s

/-- The port's part of a departure to HUNT or CONFIRM: timer stopped, window discarded, level NONE
(R12, R23). -/
def portDepart (l : LinkId) (next : SyncState) (s : State) : State :=
  setLevel l .none (s.modLink l fun x =>
    { x with
      sync := next, confirmCount := 0, lastFn := none, due := none, window := none
      score := 0, quality := 0 })

/-- R66: an arm still set when the lead has departed is missed. -/
def missArm (s : State) : State :=
  match s.roles.arm with
  | none => s
  | some n => { s with roles := { s.roles with arm := none } }.raiseAt (some n) .armMissed

/-- R61, R42, R87, R98, R115: the lead link has departed: waiting frames are released, then the
departure goes downstream, then the merge stage is cleared. A held APPLY meets the departure once the releases
and flushes have been made; one that was due before acts before them (log 7). -/
def leadDeparture (s : State) : State :=
  let s := clearTarget .lead (releaseAll (actIfDue s))
  let s := (List.range 18).foldl departRoute s
  let s := missArm (markDue s)
  let s := dropHeld (fun _ => true) s
  { s with merge := { s.merge with releasePoint := none } }

/-- R12: link l departs from LOCKED or COAST; the blocks that use its frames, by its role, are told. The
port's own part, level NONE with its QUALITY notice, comes before R61's releases, whose checks (R64, R68) see
that level: neither rule gives this order, which is the model's choice (log 19). -/
def depart (l : LinkId) (next : SyncState) (s : State) : State :=
  let s := portDepart l next s
  match (s.link l).role with
  | .lead => leadDeparture s
  | .partner => dropHeld (fun h => h.link = l) s
  | .scout => clearTarget .scout s
  | .off => s

/-- The link goes to HUNT: a departure from LOCKED or COAST, or the end of a confirmation. -/
def goHunt (l : LinkId) (s : State) : State :=
  if (s.link l).synced then depart l .hunt s
  else s.modLink l fun x => { x with sync := .hunt, confirmCount := 0, lastFn := none }

/-! ### Confirmation (R6 to R9) -/

/-- R6, R7, R9: a confirmation starts with a frame; a change of multiplex empties the tracker that the
link feeds. -/
def startConfirm (l : LinkId) (f : Frame) (s : State) : State :=
  let old := (s.link l).followedId
  let s := s.modLink l fun x =>
    { x with sync := .confirm, confirmCount := 1, lastFn := some f.fn, followedId := f.mux }
  if old ≠ 0 ∧ old ≠ f.mux then
    match (s.link l).role with
    | .lead => emptyTracker .lead .multiplex (actIfDue s)
    | .scout => emptyTracker .scout .multiplex s
    | .partner => s
    | .off => s
  else s

/-- R8, R10: what every taken frame does to the port. -/
def Link.take (f : Frame) (x : Link) : Link :=
  { x with
    sync := .locked, confirmCount := 0, lastFn := some f.fn, consecutive := 0
    taken := bump x.taken, lastHeader := some f.header }

/-- R8: the third consecutive frame puts the link in LOCKED. -/
def enterLocked (l : LinkId) (t : Nat) (f : Frame) (s : State) : State :=
  handOn l f (enterQuality l f.q (s.modLink l fun x => (x.timeTaken t).take f))

/-- R7: a valid frame in CONFIRM. -/
def confirmFrame (l : LinkId) (t : Nat) (f : Frame) (s : State) : State :=
  let x := s.link l
  if f.mux = x.followedId ∧ x.lastFn.map (· + 1) = some f.fn then
    if 2 ≤ x.confirmCount then enterLocked l t f s
    else s.modLink l fun x => { x with confirmCount := x.confirmCount + 1, lastFn := some f.fn }
  else startConfirm l f s

/-! ### Taking and missing (R10, R17, R18) -/

/-- R10: an expected frame is taken. -/
def takeFrame (l : LinkId) (t : Nat) (f : Frame) (s : State) : State :=
  handOn l f (updateQuality l f.q (s.modLink l fun x => (x.timeTaken t).take f))

/-- R18: the coast limit is compared after a miss. -/
def checkCoast (l : LinkId) (s : State) : State :=
  if s.mgmt.settings.coast ≤ (s.link l).consecutive then
    let s := depart l .hunt s
    let s := s.modLink l fun x => { x with coastExpiries := bump x.coastExpiries }
    (s.modSticky fun k => { k with coastExpired := true }).raise (.coastExpired l)
  else s

/-- The expected FN of a link: last FN + 1. -/
def Link.expected (x : Link) : Fn := x.lastFn.getD 0 + 1

/-- R14: the substitute frame a link makes for its expected FN. -/
def Link.substitute (x : Link) : Frame :=
  substituteFrame x.expected x.followedId
    (x.lastHeader.getD { mapVersion := 0, countdown := 0, nextVersion := 0 })

/-- R17: the port's part of a miss for the expected FN. -/
def Link.missed (x : Link) : Link :=
  { x with
    sync := .coast, lastFn := some x.expected, consecutive := x.consecutive + 1
    misses := bump x.misses, window := none }

/-- R17, R10: a miss, declared by expiry or for a gap: substitute, quality update, coast check. -/
def declareMiss (l : LinkId) (s : State) : State :=
  let f := (s.link l).substitute
  checkCoast l (handOn l f (updateQuality l 0 (s.modLink l Link.missed)))

/-- R17: at an expiry the due time advances by period(j) from the old due time. -/
def Link.advanceDue (x : Link) : Link :=
  match x.due with
  | some d => x.setDue d
  | none => x

/-- R10: the misses of a gap, up to the one that ends the coast. -/
def gapMisses (l : LinkId) : Nat → State → State
  | 0, s => s
  | k + 1, s => if (s.link l).synced then gapMisses l k (declareMiss l s) else s

/-- R10: a frame d FNs ahead, d in 1..7. If the coast expires in the gap the frame is judged afresh in
HUNT. -/
def gapFrame (l : LinkId) (t : Nat) (d : Nat) (f : Frame) (s : State) : State :=
  let s := gapMisses l d s
  if (s.link l).synced then takeFrame l t f s else startConfirm l f s

/-- R11: a resync: a departure to CONFIRM with this frame as the first confirming frame. -/
def resync (l : LinkId) (f : Frame) (s : State) : State := startConfirm l f (depart l .confirm s)

/-- R13: a LATE frame. -/
def lateFrame (l : LinkId) (s : State) : State :=
  (s.modLink l fun x => { x with late := bump x.late }).modSticky fun k => { k with lateFrames := true }

/-- R10, R11: a valid frame in LOCKED or COAST, by its distance from the expected FN. -/
def syncedFrame (l : LinkId) (t : Nat) (f : Frame) (s : State) : State :=
  let x := s.link l
  let d := fnDist x.expected f.fn
  if f.mux ≠ x.followedId then resync l f s
  else if d = 0 then takeFrame l t f s
  else if d ≤ 7 then gapFrame l t d f s
  else if d ≤ 4088 then resync l f (s.modLink l fun x => { x with resyncs := bump x.resyncs })
  else lateFrame l s

/-- R2 to R4: the port judges an arrival at reference time t. -/
def judgeArrival (l : LinkId) (t : Nat) (frame : List Byte) (marks : List Bool) (s : State) : State :=
  let x := s.link l
  let f := decodeFrame frame marks
  if x.role = .off then s
  else if !frameValid frame then s.modLink l fun x => { x with badHeaders := bump x.badHeaders }
  else if x.expectedId ≠ 0 ∧ f.mux ≠ x.expectedId then
    s.modLink l fun x => { x with foreign := bump x.foreign }
  else
    match x.sync with
    | .hunt => startConfirm l f s
    | .confirm => confirmFrame l t f s
    | .locked => syncedFrame l t f s
    | .coast => syncedFrame l t f s

/-! ### Meanings -/

/-- The end of an event of frame time: the decided handover, then the evaluation still due. -/
def finishFrame (s : State) : State := settle (finishEvent s)

/-- ARRIVAL (R2). The reference time never runs back (log 4). -/
def execArrival (l : LinkId) (time : Nat) (frame : List Byte) (marks : List Bool) (s : State) :
    Host.Outcome State Fault Refusal :=
  if frame.length = frameBytes ∧ marks.length = frameCells then
    let t := max s.clock time
    .next (finishFrame (judgeArrival l t frame marks { s with clock := t }))
  else .fault .malformedFrame

/-- MISS (R17): the timer expires at due + 96,000 ticks. With no due time there is no miss (R16). -/
def execMiss (l : LinkId) (s : State) : Host.Outcome State Fault Refusal :=
  match (s.link l).due with
  | none => .next s
  | some d =>
    if (s.link l).synced then
      let s := { s with clock := max s.clock (d + missGrace) }
      .next (finishFrame (declareMiss l (s.modLink l Link.advanceDue)))
    else .next s

end Sys2Proof.Machine
end

