-- ==== Sys2Proof/Machine/Trunk.lean ====
section
/-! DEFINITION. The trunk (chapter 8): the receiver, the egress arbiter, and the meanings of
UPSTREAM_ARRIVAL, CELL_BROKEN_OFF, CELL_START, CELL_FINISH, HOLD and RESET_RELEASED. -/

namespace Sys2Proof.Machine

/-! ### Upstream (R155, R156, R163) -/

/-- A discarded upstream cell sets REQUEST_LOST and does nothing else (R155). -/
def loseRequest (s : State) : State := s.modSticky fun k => { k with requestLost := true }

/-- R156: a cell that passed its checks is offered to the request queue. -/
def admitRequest (req : Request) (s : State) : State :=
  if s.mgmt.requests.length < 4 then
    { s with mgmt := { s.mgmt with requests := s.mgmt.requests ++ [req] } }
  else loseRequest s

/-- R155: the receiver judges a whole cell. -/
def judgeCell (cell : List Byte) (s : State) : State :=
  if !upstreamOk cell then loseRequest s
  else if cellChannel cell ≠ 0 then loseRequest s
  else admitRequest { tag := cellTag cell, op := requestOf (cell.drop 4) } s

/-- UPSTREAM_ARRIVAL (R155). -/
def execUpstreamArrival (cell : List Byte) (s : State) : Host.Outcome State Fault Refusal :=
  if cell.length = trunkCellBytes then .next (judgeCell cell s) else .fault .malformedCell

/-- CELL_BROKEN_OFF (R155, R163). -/
def execCellBrokenOff (s : State) : Host.Outcome State Fault Refusal := .next (loseRequest s)

/-! ### The arbiter's choice (R157 to R159) -/

/-- An item still has a cell to send. -/
def Item.unfinished (i : Item) : Bool := i.started < i.cellCount

/-- R159: another queue has begun an item on the channel and not finished it. -/
def channelBusy (s : State) (n channel : Nat) : Bool :=
  (List.range 16).any fun m =>
    m ≠ n && (s.route m).queue.any fun i => i.begun && i.channel = channel

/-- R159: route n's queue has a cell that may start. -/
def mayStart (s : State) (n : Nat) : Bool :=
  match (s.route n).queue with
  | [] => false
  | i :: _ => i.unfinished && (i.begun || !channelBusy s n i.channel)

/-- The order in which the arbiter looks at routes: after the pointer, wrapping (R159). -/
def searchOrder (pointer : Option Nat) : List Nat :=
  match pointer with
  | none => List.range 16
  | some p => (List.range 16).map fun i => (p + 1 + i) % 16

/-- R159: the route whose queue sends the next cell. -/
def nextRoute (s : State) : Option Nat := (searchOrder s.trunk.pointer).find? (mayStart s)

/-- Starts the next cell of the front reply. -/
def startReply (r : Reply) (rest : List Reply) (s : State) : State :=
  { s with trunk :=
    { s.trunk with
      replies := { r with started := r.started + 1 } :: rest
      line := some
        { bytes := trunkCell 0 .reply r.tag.toNat 16 (r.cells.getD r.started []), origin := .reply } } }

/-- Starts the cell of the front notice. -/
def startNotice (x : Notice) (s : State) : State :=
  { s with trunk :=
    { s.trunk with
      resetFirst := false
      line := some
        { bytes := trunkCell 31 .notice x.number.toNat 16 x.bytes, origin := .notice } } }

/-- Starts the next cell of route n's front item and sets the pointer to n. -/
def startRoute (n : Nat) (s : State) : State :=
  match (s.route n).queue with
  | [] => s
  | i :: rest =>
    let s := s.modRoute n fun r => { r with queue := { i with started := i.started + 1 } :: rest }
    { s with trunk :=
      { s.trunk with
        pointer := some n
        line := some { bytes := i.cell i.started, origin := .route n } } }

/-- R158: the arbiter's order: reply, notice, route. -/
def startChosen (s : State) : State :=
  match s.trunk.replies, s.trunk.notices, nextRoute s with
  | r :: rest, _, _ => startReply r rest s
  | [], x :: _, _ => startNotice x s
  | [], [], some n => startRoute n s
  | [], [], none => s

/-- R164, R179: the RESET notice of a power-on or pin reset that must be the next cell. -/
def owedFirst (s : State) : Option Notice := if s.trunk.resetFirst then s.trunk.notices.head? else none

/-- R158, R164: the cell started at a cell start point. -/
def startCell (s : State) : State :=
  match owedFirst s with
  | some x => startNotice x s
  | none => startChosen s

/-- CELL_START (R157, R162, R164): at a cell start point, unless HOLD is asserted or RESET is held. -/
def execCellStart (s : State) : Host.Outcome State Fault Refusal :=
  if s.trunk.line.isNone && !s.trunk.hold && !s.trunk.resetHeld then .next (startCell s) else .next s

/-! ### The end of a cell (R157) -/

/-- The front reply leaves when its last cell has finished. -/
def finishReply (rs : List Reply) : List Reply :=
  match rs with
  | r :: rest => if r.cells.length ≤ r.started then rest else rs
  | [] => []

/-- The front item leaves when its last cell has finished; a group's blocks return with it. -/
def finishItem (q : List Item) : List Item :=
  match q with
  | i :: rest => if i.unfinished then q else rest
  | [] => []

/-- What the end of a cell does to the queue it came from. -/
def finishOrigin (o : Origin) (s : State) : State :=
  match o with
  | .reply => { s with trunk := { s.trunk with replies := finishReply s.trunk.replies } }
  | .notice => { s with trunk := { s.trunk with notices := s.trunk.notices.drop 1 } }
  | .route n => s.modRoute n fun r => { r with queue := finishItem r.queue }
  | .nowhere => s

/-- CELL_FINISH (R157): the cell in transmission finishes; with none on the line nothing happens. -/
def execCellFinish (s : State) : Host.Outcome State Fault Refusal :=
  match s.trunk.line with
  | none => .next s
  | some c => .next (finishOrigin c.origin { s with trunk := { s.trunk with line := none } })

/-! ### Inputs -/

/-- HOLD_ASSERTED (R162). Outside RESET the RESET notice then waits its turn with the rest (R164). -/
def execHoldAsserted (s : State) : Host.Outcome State Fault Refusal :=
  .next { s with trunk := { s.trunk with hold := true, resetFirst := s.trunk.resetFirst && s.trunk.resetHeld } }

/-- HOLD_DEASSERTED (R162). -/
def execHoldDeasserted (s : State) : Host.Outcome State Fault Refusal :=
  .next { s with trunk := { s.trunk with hold := false } }

/-- RESET_RELEASED (R164): the RESET input is deasserted. -/
def execResetReleased (s : State) : Host.Outcome State Fault Refusal :=
  .next { s with trunk := { s.trunk with resetHeld := false, resetFirst := s.trunk.resetFirst && !s.trunk.hold } }

/-! ### Framing (R163)

The receive line byte by byte: what the sender of UPSTREAM_ARRIVAL and CELL_BROKEN_OFF does. -/

/-- A byte on a trunk line: its data, its cell marker, and whether both stop bits are there. -/
structure LineByte where
  data : Byte
  marker : Bool
  stops : Bool
  deriving DecidableEq, Repr

/-- R163: one byte on the receive line: the bytes of the cell in progress after it (none: no cell in
progress), and the commands it amounts to. A byte with marker 1 begins a cell, which a framing fault of that
very byte breaks off; it cuts short a cell in progress. -/
def receiveByte (progress : Option (List Byte)) (x : LineByte) : Option (List Byte) × List Instr :=
  let broken := if progress.isSome then [Instr.cellBrokenOff] else []
  if !x.stops then (none, if x.marker then broken ++ [.cellBrokenOff] else broken)
  else if x.marker then (some [x.data], broken)
  else
    match progress with
    | none => (none, [])
    | some bs =>
      if bs.length + 1 < trunkCellBytes then (some (bs ++ [x.data]), [])
      else (none, [.upstreamArrival (bs ++ [x.data])])

/-- What meets the receiver: a byte, or a power-on or pin reset. A trunk reset does not touch it (R164). -/
inductive LineEvent
  | byte (x : LineByte)
  | hardReset
  deriving DecidableEq, Repr

/-- R163, R164: one event on the receive line. A cell being received at a power-on or pin reset is discarded
without a flag. -/
def receiveEvent (progress : Option (List Byte)) : LineEvent → Option (List Byte) × List Instr
  | .byte x => receiveByte progress x
  | .hardReset => (none, [])

/-- R163: a run of events on the receive line, as the commands it amounts to. -/
def receiveLine (progress : Option (List Byte)) : List LineEvent → List Instr
  | [] => []
  | x :: rest => (receiveEvent progress x).2 ++ receiveLine (receiveEvent progress x).1 rest

/-- R163: a cell as the part frames it on the transmit line: the marker on its first byte only. -/
def frameCell (cell : List Byte) : List LineByte :=
  (List.range cell.length).map fun i => { data := byteAt cell i, marker := i = 0, stops := true }

end Sys2Proof.Machine
end

