-- ==== Sys2Proof/Machine/Resets.lean ====
section
/-! DEFINITION. The three resets (R1, R16, R22, R27, R48, R55, R71, R79, R93, R118, R134, R164, R178 to
R180) and the meanings of POWER_ON_RESET, PIN_RESET and WAKE_INPUT. -/

namespace Sys2Proof.Machine

/-- Every block but trunk and management unit at its reset values. The contents of the pages, the
reference time and the free index stay (R71; log 1). -/
def resetBlocks (s : State) : State :=
  { s with
    linkA := .reset .lead
    linkB := .reset .off
    merge := .reset
    roles := .reset
    leadTracker := .reset
    scoutTracker := .reset
    store := { s.store with refusals := 0 }
    routes := (List.range 18).map Route.reset
    packets := .reset
    ann := .reset }

/-- R164, R178: a power-on or pin reset, after which the RESET notice is number 0. -/
def hardReset (record : ResetRecord) (resetHeld : Bool) (s : State) : State :=
  { resetBlocks s with
    trunk := .reset record s.trunk.hold resetHeld
    mgmt := .reset .defaults record }

/-- POWER_ON_RESET (R164): State.reset, with the pages' contents (R71) and the inputs HOLD and RESET as they
stand (log 1). -/
def execPowerOnReset (s : State) : Host.Outcome State Fault Refusal :=
  .next
    { State.reset with
      store := { cells := s.store.cells, refusals := 0 }
      trunk := .reset { cause := .power, level := none } s.trunk.hold s.trunk.resetHeld
      freeIndex := s.freeIndex
      pending := s.pending }

/-- PIN_RESET (R164, R178): the record holds the level at the moment RESET was asserted. RESET is then
held until RESET_RELEASED. -/
def execPinReset (s : State) : Host.Outcome State Fault Refusal :=
  .next (hardReset { cause := .pin, level := some s.ann.level } true s)

/-- WAKE_INPUT (R152): wakes the part from WATCH with source PIN; in RUN it is ignored. -/
def execWakeInput (s : State) : Host.Outcome State Fault Refusal :=
  match s.ann.level with
  | .run => .next s
  | .watch => .next (wake .pin none s)

/-- R164: the line at a trunk reset: the cell on it finishes whole; the rest of a unit or group is not
sent. -/
def detachLine (c : LineCell) : LineCell :=
  match c.origin with
  | .reply => c
  | .notice => { c with origin := .nowhere }
  | .route _ => { c with origin := .nowhere }
  | .nowhere => c

/-- R180, R164: the trunk reset: every block at its trunk reset values, the settings and the reply
queue kept, the requests behind the RESET discarded, the reset record written. -/
def trunkReset (s : State) : State :=
  let record : ResetRecord := { cause := .trunk, level := some s.ann.level }
  let front := s.mgmt.requests.take 1
  { resetBlocks s with
    trunk :=
      { s.trunk with
        notices := []
        noticeNumber := 0
        pointer := none
        resetFirst := false
        line := s.trunk.line.map detachLine }
    mgmt := { Management.reset s.mgmt.settings record with requests := front } }

/-- R179: the RESET notice, number 0 in an empty queue. -/
def resetNotice (s : State) : State := s.raiseAt none (.reset s.mgmt.record)

end Sys2Proof.Machine
end

