-- ==== Sys2Proof/Machine/Management.lean ====
section
/-! DEFINITION. The management unit (chapter 9): taking and judging requests, the cursor, the selection
sequence, and the meanings of the request rows that read, write and select, and of APPLY_ACTION. -/

namespace Sys2Proof.Machine

/-! ### Taking a request (R165, R114) -/

/-- R165: no request is in service and the reply queue has room for one more reply. -/
def canServe (s : State) : Bool := s.mgmt.held.isNone && s.trunk.replies.length < 2

/-- R165: the management unit takes the request at the front of the queue, when it may, and when that
request is the one the command names. Otherwise the command is no event of the part (log 5). -/
def serveIf (tag : Tag) (isOp : RequestOp → Bool) (body : Request → State → State) (s : State) :
    Host.Outcome State Fault Refusal :=
  match s.mgmt.requests with
  | [] => .next s
  | req :: _ => if canServe s && req.tag = tag && isOp req.op then .next (body req s) else .next s

/-- A request that is named by its tag and content. -/
def serve (tag : Tag) (op : RequestOp) (body : Request → State → State) (s : State) :
    Host.Outcome State Fault Refusal :=
  serveIf tag (fun x => x = op) body s

/-- A selection is in progress (5.7). -/
def selecting (s : State) : Bool := s.mgmt.selection.phase ≠ .idle

/-- The selection record becomes IDLE and empty. -/
def dropSelection (s : State) : State := { s with mgmt := { s.mgmt with selection := .idle } }

/-- The end of a request's step: the evaluation still due (R139), then the reply with what stands then
(R167). `restart` is SEQUENCE_RESET (R175). -/
def reply (req : Request) (outcome : Outcome) (restart : Bool) (cells : State → List (List Byte))
    (s : State) : State :=
  let s := settle s
  answer req { outcome := outcome, sequenceReset := restart, pinSkip := false } (cells s) s

/-- The end of a step of a request other than a selection request, STATUS, READ or STEP (R114), which
began at `s`: `t` is the state its act left. -/
def replyAfter (s : State) (req : Request) (outcome : Outcome) (cells : State → List (List Byte))
    (t : State) : State :=
  reply req outcome (selecting s) cells t

/-! ### STATUS, READ, STEP (R169, R170, R177) -/

/-- R177: the reply shows the sticky flags that are set, and clears them. -/
def serveStatus (req : Request) (s : State) : State :=
  (answer req .reset [recordCell s.mgmt.record] s).modSticky fun _ => .clear

/-- STATUS (R177). -/
def execStatus (tag : Tag) (s : State) : Host.Outcome State Fault Refusal :=
  serve tag .status serveStatus s

/-- R169: sets the cursor. -/
def setCursor (t : Table) (i : Nat) (s : State) : State :=
  { s with mgmt := { s.mgmt with cursor := { table := t, index := i } } }

/-- R107: the read of a ROUTE entry clears the overrun flag it has shown. -/
def clearOverrun (t : Table) (i : Nat) (s : State) : State :=
  if t = .route then s.modRoute i fun r => { r with overrunFlag := false } else s

/-- R169: a read of entry i, which is in the table. -/
def readEntry (t : Table) (i : Nat) (req : Request) (s : State) : State :=
  let s := setCursor t i s
  clearOverrun t i (answer req .reset (entryCells s t i) s)

/-- A request refused with a code, with the cells given; it changes nothing else. -/
def refuse (req : Request) (outcome : Outcome) (restart : Bool) (cells : List (List Byte)) (s : State) :
    State :=
  answer req { outcome := outcome, sequenceReset := restart, pinSkip := false } cells s

/-- R168, tests 2 and 3, and R169. -/
def serveRead (table index : Byte) (req : Request) (s : State) : State :=
  match tableOf table with
  | none => refuse req .badTable false [] s
  | some t =>
    if t.size ≤ index.toNat then refuse req .badIndex false (absentEntry t) s
    else readEntry t index.toNat req s

/-- READ (R169). -/
def execRead (tag : Tag) (table index : Byte) (s : State) : Host.Outcome State Fault Refusal :=
  serve tag (.read table index) (serveRead table index) s

/-- R170: the next index of the cursor's table. -/
def Cursor.next (c : Cursor) : Nat := (c.index + 1) % c.table.size

/-- STEP (R170). -/
def execStep (tag : Tag) (s : State) : Host.Outcome State Fault Refusal :=
  serve tag .step (readEntry s.mgmt.cursor.table s.mgmt.cursor.next) s

/-! ### WRITE of what is not writable (R168) -/

/-- R168, tests 2 to 4. -/
def serveWrite (table index : Byte) (req : Request) (s : State) : State :=
  let t := dropSelection s
  match tableOf table with
  | none => refuse req .badTable (selecting s) [] t
  | some x =>
    if x.size ≤ index.toNat then refuse req .badIndex (selecting s) (absentEntry x) t
    else
      let t := setCursor x index.toNat t
      refuse req .readOnly (selecting s) (entryCells t x index.toNat) t

/-- WRITE (R168). -/
def execWrite (tag : Tag) (table index : Byte) (s : State) : Host.Outcome State Fault Refusal :=
  serve tag (.write table index) (serveWrite table index) s

/-! ### WRITE of a LINK entry (R171, R5, R49, R50) -/

/-- R5: the expected multiplex id, with its clamp and its consequence. -/
def writeExpectedId (l : LinkId) (m : Id16) (s : State) : State :=
  let m := clampId m
  let x := s.link l
  let s := s.modLink l fun x => { x with expectedId := m }
  if m ≠ 0 ∧ m ≠ x.followedId ∧ x.sync ≠ .hunt then goHunt l s else s

/-- R50: a manual handover to link l, by the role it held. From OFF the ROLE notice comes before the departure
of a synced old lead with its QUALITY notice (R15): neither rule gives this order, which is the model's choice
(log 10). -/
def manualHandover (l : LinkId) (s : State) : State :=
  match (s.link l).role with
  | .scout => follow .manual s
  | .partner => handover l .partner (isSeamless l s) .manual s
  | .off => goHunt (otherLink l) (handover l .off false .manual s)
  | .lead => s

/-- R49: the frames of a link that leaves PARTNER are removed from the partner hold buffer. -/
def leavePartner (l : LinkId) (s : State) : State :=
  if (s.link l).role = .partner then dropHeld (fun h => h.link = l) s else s

/-- R49: the role of a non-lead link changes to another of PARTNER, SCOUT and OFF. -/
def changeRole (l : LinkId) (r : Role) (s : State) : State :=
  match r with
  | .off => clearMarks (setRole l .off (leavePartner l (goHunt l s)))
  | .scout => emptyTracker .scout .handover (clearMarks (setRole l .scout (leavePartner l s)))
  | .partner => clearMarks (setRole l .partner s)
  | .lead => s

/-- R49: a LINK write's role, after R49's refusals. -/
def writeRole (l : LinkId) (r : Role) (s : State) : State :=
  if (s.link l).role = r then s
  else if r = .lead then manualHandover l s
  else changeRole l r s

/-- R171: the outcome of the judgement of a LINK write's role. -/
def judgeLink (l : LinkId) (code : Byte) (s : State) : Outcome :=
  match roleOf code with
  | none => .badValue
  | some r =>
    if (s.link l).role = .lead then (if r = .lead then .ok else .role)
    else if s.ann.level = .watch ∧ r ≠ .off then .level
    else .ok

/-- The index of a link in the LINK table. -/
def linkIndex : LinkId → Nat
  | .a => 0
  | .b => 1

/-- R171: an accepted LINK write. -/
def applyLink (l : LinkId) (f : LinkFields) (s : State) : State :=
  finishEvent (writeRole l ((roleOf f.role).getD .off) (writeExpectedId l f.expectedId s))

/-- R171. -/
def serveWriteLink (l : LinkId) (f : LinkFields) (req : Request) (s : State) : State :=
  let t := setCursor .link (linkIndex l) (dropSelection s)
  let outcome := judgeLink l f.role t
  replyAfter s req outcome (fun s => entryCells s .link (linkIndex l))
    (if outcome = .ok then applyLink l f t else t)

/-- WRITE_LINK (R171). -/
def execWriteLink (tag : Tag) (l : LinkId) (f : LinkFields) (s : State) :
    Host.Outcome State Fault Refusal :=
  serve tag (.writeLink l f) (serveWriteLink l f) s

/-! ### WRITE of a ROUTE entry (R108 to R111) -/

/-- R108: the channel of a write, clamped. -/
def writtenChannel (f : RouteFields) : Nat := clamp 1 30 f.channel.toNat

/-- R108: the component of a write, clamped. -/
def writtenComponent (f : RouteFields) : Nat := min 3 f.component.toNat

/-- R108: another host route that is not VACANT has the written channel. -/
def channelTaken (n : Nat) (f : RouteFields) (s : State) : Bool :=
  f.program ≠ 0 && (List.range 16).any fun m =>
    m ≠ n && (s.route m).state ≠ .vacant && (s.route m).channel = some (writtenChannel f)

/-- R109: the write names another program id, component or channel. -/
def resolvesAgain (f : RouteFields) (r : Route) : Bool :=
  r.program ≠ f.program || r.component ≠ writtenComponent f || r.channel ≠ some (writtenChannel f)

/-- The fields of an accepted write. With program id 0 the listening and pin flags are clear (R109). -/
def Route.written (f : RouteFields) (r : Route) : Route :=
  { r with
    program := f.program
    component := writtenComponent f
    channel := some (writtenChannel f)
    listening := f.listening && f.program ≠ 0
    pin := f.pin && f.program ≠ 0
    damage := min 720 f.damage.toNat
    addrs := addressList f }

/-- R110: the listening flag set on route n is cleared on every other route. -/
def takeListening (n : Nat) (f : RouteFields) (s : State) : State :=
  if f.listening ∧ f.program ≠ 0 then
    { s with routes := s.routes.mapIdx fun m r => if m = n then r else { r with listening := false } }
  else s

/-- R109, R111: what an accepted write does to the route, whose record before it was r. The list
gathers the routes that ask for pages. -/
def routeConsequence (n : Nat) (f : RouteFields) (r : Route) (s : State) : State × List Nat :=
  let watch := s.ann.level = .watch
  if f.program = 0 then (vacateRoute n s, [])
  else
    let s := if r.channel ≠ some (writtenChannel f) then cutQueue n s else s
    if r.state = .suspended then
      if watch ∧ f.pin ∧ r.reason = some .level then resolveRoute (s, []) n else (s, [])
    else if watch ∧ !f.pin then (suspendRoute .level n s, [])
    else if resolvesAgain f r then resolveRoute (s, []) n
    else (s, [])

/-- R108, R109: an accepted write, in one step with one pass; then the controller is told (R110). -/
def applyRoute (n : Nat) (f : RouteFields) (s : State) : State :=
  let x := routeConsequence n f (s.route n) (takeListening n f (s.modRoute n (Route.written f)))
  tellController s.listening (closeStep s x.2 none x.1)

/-- R108. -/
def serveWriteRoute (n : Nat) (f : RouteFields) (req : Request) (s : State) : State :=
  let t := setCursor .route n (dropSelection s)
  if channelTaken n f t then replyAfter s req .channelInUse (fun s => entryCells s .route n) t
  else replyAfter s req .ok (fun s => entryCells s .route n) (applyRoute n f t)

/-- WRITE_ROUTE (R108). -/
def execWriteRoute (tag : Tag) (n : Fin 16) (f : RouteFields) (s : State) :
    Host.Outcome State Fault Refusal :=
  serve tag (.writeRoute n f) (serveWriteRoute n.val f) s

/-! ### WRITE of the SETTINGS entry (R172) -/

/-- R68: a change of follow policy or poor dwell. -/
def restartDwell (old new : Settings) (s : State) : State :=
  if old.follow ≠ new.follow ∨ old.dwell ≠ new.dwell then
    { s with roles := { s.roles with dwell := 0, advised := false } }
  else s

/-- R172: the settings replaced in one step, with their consequences (order: log 10). -/
def applySettings (new : Settings) (s : State) : State :=
  let old := s.mgmt.settings
  let s := restartDwell old new { s with mgmt := { s.mgmt with settings := new } }
  let s := if old.window ≠ new.window then finishEvent (releaseTest s) else s
  if old.announce ≠ new.announce ∨ old.wake ≠ new.wake then s.dueEval else s

/-- R172. -/
def serveWriteSettings (f : SettingsFields) (req : Request) (s : State) : State :=
  let t := setCursor .settings 0 (dropSelection s)
  match settingsOf f with
  | none => replyAfter s req .badValue (fun s => entryCells s .settings 0) t
  | some new => replyAfter s req .ok (fun s => entryCells s .settings 0) (applySettings new t)

/-- WRITE_SETTINGS (R172). -/
def execWriteSettings (tag : Tag) (f : SettingsFields) (s : State) : Host.Outcome State Fault Refusal :=
  serve tag (.writeSettings f) (serveWriteSettings f) s

/-! ### The selection sequence (R113) -/

/-- Changes the selection record. -/
def setSelection (x : Selection) (s : State) : State := { s with mgmt := { s.mgmt with selection := x } }

/-- R113: a selection request that leaves record x: the reply carries it. -/
def selectionReply (req : Request) (outcome : Outcome) (restart : Bool) (x : Selection) (s : State) :
    State :=
  refuse req outcome restart [selectionCell x 0 0] (setSelection x s)

/-- R113: MARK-FROM r. -/
def serveMarkFrom (route : Byte) (req : Request) (s : State) : State :=
  if 15 < route.toNat then selectionReply req .badIndex false s.mgmt.selection s
  else
    selectionReply req .ok (selecting s)
      { phase := .fromSet, first := some route.toNat, last := none, unmarked := [] } s

/-- MARK_FROM (R113). -/
def execMarkFrom (tag : Tag) (route : Byte) (s : State) : Host.Outcome State Fault Refusal :=
  serve tag (.markFrom route) (serveMarkFrom route) s

/-- R113: MARK-TO r. -/
def serveMarkTo (route : Byte) (req : Request) (s : State) : State :=
  let x := s.mgmt.selection
  if 15 < route.toNat then selectionReply req .badIndex false x s
  else if x.phase = .fromSet ∧ x.first.getD 0 ≤ route.toNat then
    selectionReply req .ok false { x with phase := .toSet, last := some route.toNat } s
  else selectionReply req .sequence false .idle s

/-- MARK_TO (R113). -/
def execMarkTo (tag : Tag) (route : Byte) (s : State) : Host.Outcome State Fault Refusal :=
  serve tag (.markTo route) (serveMarkTo route) s

/-- A route number lies in a selection's from..to. -/
def Selection.spans (x : Selection) (n : Nat) : Bool := x.first.any (· ≤ n) && x.last.any (n ≤ ·)

/-- R113: UNMARK u. -/
def serveUnmark (route : Byte) (req : Request) (s : State) : State :=
  let x := s.mgmt.selection
  let n := route.toNat
  if 15 < n then selectionReply req .badIndex false x s
  else if x.phase ≠ .toSet then selectionReply req .sequence false .idle s
  else if !x.spans n then selectionReply req .range false x s
  else if x.unmarked.contains n then selectionReply req .ok false x s
  else if 4 ≤ x.unmarked.length then selectionReply req .sequence false .idle s
  else selectionReply req .ok false { x with unmarked := x.unmarked ++ [n] } s

/-- UNMARK (R113). -/
def execUnmark (tag : Tag) (route : Byte) (s : State) : Host.Outcome State Fault Refusal :=
  serve tag (.unmark route) (serveUnmark route) s

/-! ### APPLY (R115) -/

/-- An APPLY that is refused: the record is reset, and the reply carries it as the APPLY found it. -/
def refuseApply (req : Request) (outcome : Outcome) (s : State) : State :=
  refuse req outcome false [selectionCell s.mgmt.selection 0 0] (dropSelection s)

/-- R115: an APPLY is judged. An accepted one is held, or acts at once when the lead hands on no
frames. -/
def serveApply (action : Byte) (req : Request) (s : State) : State :=
  if s.mgmt.selection.phase ≠ .toSet then refuseApply req .sequence s
  else
    match applyOf action with
    | none => refuseApply req .badValue s
    | some kind =>
      if kind = .engage ∧ s.ann.level = .watch then refuseApply req .level s
      else
        let s := { s with mgmt := { s.mgmt with held := some kind, applyDue := false } }
        if (s.link s.leadLink).synced then s else actApply s

/-- The request is an APPLY with the given action, or with an action that is none (log 6). -/
def isApply (kind : ApplyKind) : RequestOp → Bool
  | .apply action => applyOf action = some kind || applyOf action = none
  | _ => false

/-- Takes the action of an APPLY from its request. -/
def serveApplyOf (req : Request) (s : State) : State :=
  match req.op with
  | .apply action => serveApply action req s
  | _ => s

/-- APPLY_RELEASE (R115). -/
def execApplyRelease (tag : Tag) (s : State) : Host.Outcome State Fault Refusal :=
  serveIf tag (isApply .release) serveApplyOf s

/-- APPLY_SUSPEND (R115). -/
def execApplySuspend (tag : Tag) (s : State) : Host.Outcome State Fault Refusal :=
  serveIf tag (isApply .suspend) serveApplyOf s

/-- APPLY_ENGAGE (R115). -/
def execApplyEngage (tag : Tag) (s : State) : Host.Outcome State Fault Refusal :=
  serveIf tag (isApply .engage) serveApplyOf s

/-- APPLY_ACTION (R115): the held APPLY acts, once it has met its release or departure. -/
def execApplyAction (s : State) : Host.Outcome State Fault Refusal := .next (actIfDue s)

end Sys2Proof.Machine
end

