-- ==== Sys2Proof/Machine/Control.lean ====
section
/-! DEFINITION. The meanings of the request rows that act on other blocks: ARM, DISARM, FOLLOW, CANCEL,
LEVEL, RESET, and of a request whose code names none. -/

namespace Sys2Proof.Machine

/-! ### ARM, DISARM, FOLLOW (R65, R69) -/

/-- Sets the arm record. -/
def setArm (n : Option Fn) (s : State) : State := { s with roles := { s.roles with arm := n } }

/-- R65: the release point is set and n lies 1..2047 frames after it. -/
def armInRange (n : Fn) (s : State) : Bool := s.merge.releasePoint.any fun rp => fnAfter rp n

/-- R65. -/
def serveArm (n : Fn) (req : Request) (s : State) : State :=
  let t := dropSelection s
  if t.ann.level = .watch then replyAfter s req .level (fun s => [armCell s]) t
  else if armInRange n t then replyAfter s req .ok (fun s => [armCell s]) (setArm (some n) t)
  else replyAfter s req .range (fun s => [armCell s]) t

/-- ARM (R65). -/
def execArm (tag : Tag) (n : Fn) (s : State) : Host.Outcome State Fault Refusal :=
  serve tag (.arm n) (serveArm n) s

/-- DISARM (R65). -/
def execDisarm (tag : Tag) (s : State) : Host.Outcome State Fault Refusal :=
  serve tag .disarm
    (fun req s => replyAfter s req .ok (fun s => [armCell s]) (setArm none (dropSelection s))) s

/-- R69. -/
def serveFollow (force : Bool) (req : Request) (s : State) : State :=
  let t := dropSelection s
  if t.ann.level = .watch then replyAfter s req .level (fun s => [followCell s]) t
  else if (followCandidate force t).isSome then
    replyAfter s req .ok (fun s => [followCell s]) (follow .follow t)
  else replyAfter s req .noCandidate (fun s => [followCell s]) t

/-- FOLLOW (R69). -/
def execFollow (tag : Tag) (force : Bool) (s : State) : Host.Outcome State Fault Refusal :=
  serve tag (.follow force) (serveFollow force) s

/-! ### CANCEL (R147) -/

/-- R147: the live entry of a key is marked dismissed. -/
def dismiss (cluster cls : Nat) (s : State) : State :=
  match findLive s cluster cls with
  | some (i, _) => modLive i (fun x => x.map fun e => { e with dismissed := true }) s
  | none => s

/-- R147: the top of the stack, when it is an announcement: its cluster and class. -/
def topAnnouncement (s : State) : Option (Nat × Nat) :=
  s.ann.stack.getLast?.bind fun e => e.cls.map fun c => (e.cluster, c)

/-- R147. -/
def serveCancel (req : Request) (s : State) : State :=
  let t := dropSelection s
  match topAnnouncement t with
  | none => replyAfter s req .nothingToCancel (fun s => [cancelCell s]) t
  | some (cluster, cls) =>
    replyAfter s req .ok (fun s => [cancelCell s])
      (removeWhere .cancelled (hasKey cluster cls) (dismiss cluster cls t))

/-- CANCEL (R147). -/
def execCancel (tag : Tag) (s : State) : Host.Outcome State Fault Refusal :=
  serve tag .cancel serveCancel s

/-! ### LEVEL (R150, R152) -/

/-- R150, part 1: the non-lead link becomes OFF, and the arm record is none. -/
def levelRoles (s : State) : State :=
  let l := otherLink s.leadLink
  if (s.link l).role = .off then setArm none s else roleNotice .level none (changeRole l .off s)

/-- R150, part 2: the host routes that the level suspends (R112). -/
def levelTargets (s : State) : List Nat :=
  (List.range 16).filter fun n =>
    let r := s.route n
    r.state ≠ .vacant && !r.pin && r.reason ≠ some .request

/-- R106: the listening route's queue is cut when the level becomes WATCH. -/
def cutListening (s : State) : State :=
  match s.listening with
  | some n => cutQueue n s
  | none => s

/-- R150, part 3: announcements and their routes go; the listening route is the on-air source. The pass
of the step is the caller's. -/
def levelController (s : State) : State :=
  let aired := s.ann.onAir.any (16 ≤ ·)
  let s := (positionsFromTop (fun _ => true) s.ann.stack).foldl (removeAt .level) s
  let s := unbindRoutes s.boundCarriers s
  let s := setHeld false (s.modAnn fun a =>
    { a with onAir := s.listening, switchMark := a.switchMark || aired })
  let s := rereadBottom s
  if aired then announceProgram s else s

/-- R150: LEVEL WATCH in RUN, in one step. -/
def enterWatch (s : State) : State :=
  let s := levelRoles s
  let t := (levelTargets s).foldl (fun t n => suspendRoute .level n t) s
  let t := closeStep s [] none (levelController (cutListening t))
  (t.modAnn fun a =>
    { a with
      live := a.live.map fun x => x.map fun e => { e with quiet := true }
      level := .watch }).dueEval

/-- R150, R152, R173: LEVEL by its code: 0 RUN, 1 WATCH. -/
def serveLevel (code : Byte) (req : Request) (s : State) : State :=
  let t := dropSelection s
  if code = 0 then
    replyAfter s req .ok (fun _ => []) (if t.ann.level = .watch then wake .request none t else t)
  else if code = 1 then
    replyAfter s req .ok (fun _ => []) (if t.ann.level = .run then enterWatch t else t)
  else replyAfter s req .badValue (fun _ => []) t

/-- The request is a LEVEL other than of the given code, which belongs to the other row (log 6). -/
def isLevelNot (other : Byte) : RequestOp → Bool
  | .level code => code ≠ other
  | _ => false

/-- Takes the code of a LEVEL from its request. -/
def serveLevelOf (req : Request) (s : State) : State :=
  match req.op with
  | .level code => serveLevel code req s
  | _ => s

/-- LEVEL_WATCH (R150). -/
def execLevelWatch (tag : Tag) (s : State) : Host.Outcome State Fault Refusal :=
  serveIf tag (isLevelNot 0) serveLevelOf s

/-- LEVEL_RUN (R152). -/
def execLevelRun (tag : Tag) (s : State) : Host.Outcome State Fault Refusal :=
  serveIf tag (isLevelNot 1) serveLevelOf s

/-! ### RESET and unknown codes (R180, R168) -/

/-- R180: the trunk reset, its reply, and the RESET notice (R179). -/
def serveReset (req : Request) (s : State) : State :=
  let t := trunkReset s
  resetNotice
    (answer req { outcome := .ok, sequenceReset := selecting s, pinSkip := false }
      [recordCell t.mgmt.record] t)

/-- RESET (R180). -/
def execReset (tag : Tag) (s : State) : Host.Outcome State Fault Refusal :=
  serve tag .reset serveReset s

/-- R168, test 1: BAD_REQUEST, with no cells after the head. -/
def serveUnknown (req : Request) (s : State) : State :=
  refuse req .badRequest (selecting s) [] (dropSelection s)

/-- UNKNOWN_REQUEST (R168). -/
def execUnknownRequest (tag : Tag) (code : Byte) (s : State) : Host.Outcome State Fault Refusal :=
  serve tag (.unknown code) serveUnknown s

end Sys2Proof.Machine
end

