-- ==== Sys2Proof/Machine/Dispatch.lean ====
section
/-! DEFINITION. The meaning of each command: one arm per row of spec/opcode_table.json. -/

namespace Sys2Proof.Machine

/-- The effect of a command on everything but the queue of waiting commands. -/
def exec (i : Instr) (s : State) : Host.Outcome State Fault Refusal :=
  match i with
  | .powerOnReset => Sys2Proof.Machine.execPowerOnReset s
  | .pinReset => Sys2Proof.Machine.execPinReset s
  | .wakeInput => Sys2Proof.Machine.execWakeInput s
  | .holdAsserted => Sys2Proof.Machine.execHoldAsserted s
  | .holdDeasserted => Sys2Proof.Machine.execHoldDeasserted s
  | .arrival link time frame marks => Sys2Proof.Machine.execArrival link time frame marks s
  | .miss link => Sys2Proof.Machine.execMiss link s
  | .upstreamArrival cell => Sys2Proof.Machine.execUpstreamArrival cell s
  | .cellBrokenOff => Sys2Proof.Machine.execCellBrokenOff s
  | .cellStart => Sys2Proof.Machine.execCellStart s
  | .cellFinish => Sys2Proof.Machine.execCellFinish s
  | .status tag => Sys2Proof.Machine.execStatus tag s
  | .read tag table index => Sys2Proof.Machine.execRead tag table index s
  | .step tag => Sys2Proof.Machine.execStep tag s
  | .write tag table index => Sys2Proof.Machine.execWrite tag table index s
  | .writeLink tag link fields => Sys2Proof.Machine.execWriteLink tag link fields s
  | .writeRoute tag route fields => Sys2Proof.Machine.execWriteRoute tag route fields s
  | .writeSettings tag fields => Sys2Proof.Machine.execWriteSettings tag fields s
  | .markFrom tag route => Sys2Proof.Machine.execMarkFrom tag route s
  | .markTo tag route => Sys2Proof.Machine.execMarkTo tag route s
  | .unmark tag route => Sys2Proof.Machine.execUnmark tag route s
  | .applyRelease tag => Sys2Proof.Machine.execApplyRelease tag s
  | .applySuspend tag => Sys2Proof.Machine.execApplySuspend tag s
  | .applyEngage tag => Sys2Proof.Machine.execApplyEngage tag s
  | .applyAction => Sys2Proof.Machine.execApplyAction s
  | .arm tag fn => Sys2Proof.Machine.execArm tag fn s
  | .disarm tag => Sys2Proof.Machine.execDisarm tag s
  | .follow tag force => Sys2Proof.Machine.execFollow tag force s
  | .cancel tag => Sys2Proof.Machine.execCancel tag s
  | .levelWatch tag => Sys2Proof.Machine.execLevelWatch tag s
  | .levelRun tag => Sys2Proof.Machine.execLevelRun tag s
  | .reset tag => Sys2Proof.Machine.execReset tag s
  | .unknownRequest tag code => Sys2Proof.Machine.execUnknownRequest tag code s
  | .resetReleased => Sys2Proof.Machine.execResetReleased s

end Sys2Proof.Machine
end

