-- ==== Sys2Proof/Safety.lean ====
section
/-! DEFINITION. What holds of the part between two commands, in the terms the statements use. -/

namespace Sys2Proof.Machine

/-! ### Links -/

/-- R48: one link holds LEAD, and only one. -/
def State.oneLead (s : State) : Prop := (s.linkA.role = .lead) ↔ ¬ (s.linkB.role = .lead)

/-- 1.3, R12, R16, R21, R22, R23: what the sync state of a link says of its other fields, and the
ranges of its score, quality, trim, skip phase and window. -/
structure Link.Coherent (x : Link) : Prop where
  unsynced : x.synced = false →
    x.due = none ∧ x.window = none ∧ x.score = 0 ∧ x.quality = 0 ∧ x.level = .none
  synced : x.synced = true → x.due.isSome ∧ x.lastFn.isSome ∧ x.level ≠ .none
  coast : x.sync = .coast → x.window = none
  score : x.score ≤ 2040
  quality : x.quality = x.score / 8
  trim : -1280 ≤ x.trim ∧ x.trim ≤ 1279
  phase : x.phase < 16
  window : ∀ w, x.window = some w → w.count ≤ 15

/-- The part of a link entry that is the port's own: all of it but the merge counters (1.1, R55). -/
def Link.port (x : Link) : Link := { x with merged := 0, mergeLate := 0, mergeDropped := 0 }

/-- The port's own part of a link entry, but for the role, which the role controller owns (R48). -/
def Link.core (x : Link) : Link := { x.port with role := .off }

/-- R2 to R4: the link judges a frame of these bytes by its sync state: it is not OFF, and the frame is
valid and not foreign. -/
def Link.Hears (x : Link) (frame : List Byte) : Prop :=
  x.role ≠ .off ∧ frameValid frame = true ∧ (x.expectedId = 0 ∨ wordAt frame 4 = x.expectedId)

/-- The entry after a taken frame that arrived at time t (R10, R16, R24, R25). -/
def Link.afterTaken (st : Settings) (t : Nat) (f : Frame) (x : Link) : Link :=
  let score := x.score - x.score / 8 + f.q
  { x.timeTaken t with
    sync := .locked, confirmCount := 0, lastFn := some f.fn, consecutive := 0
    taken := bump x.taken, lastHeader := some f.header
    score := score, quality := score / 8, level := nextLevel st x.level (score / 8) }

/-- The entry after a miss, declared by expiry or for a gap, but for the due time (R10, R17, R24, R25). -/
def Link.afterMiss (st : Settings) (x : Link) : Link :=
  let score := x.score - x.score / 8
  { x with
    sync := .coast, lastFn := some x.expected, consecutive := x.consecutive + 1
    misses := bump x.misses, window := none
    score := score, quality := score / 8, level := nextLevel st x.level (score / 8) }

/-- The entry after a departure to `next` (R12, R23). -/
def Link.afterDeparture (next : SyncState) (x : Link) : Link :=
  { x with
    sync := next, confirmCount := 0, lastFn := none, due := none, window := none
    score := 0, quality := 0, level := .none }

/-- R56: x is the fill frame for FN n that goes before lead frame f. -/
structure Frame.Fills (n : Fn) (f x : Frame) : Prop where
  fn : x.fn = n
  carried : x.mux = f.mux ∧ x.header = f.header
  records : x.records = List.replicate 4 none
  cells : x.cells.length = 720 ∧ ∀ c ∈ x.cells, c.erased = true
  mark : x.q = 0 ∧ x.real = false

/-- A notice with this body is in the queue, or a notice has been lost since the flags were last read
(R161, R176). -/
def State.Noticed (s : State) (b : NoticeBody) : Prop :=
  (∃ n ∈ s.trunk.notices, n.body = b) ∨ s.mgmt.sticky.noticeLost = true

/-- Both link entries are coherent. -/
def State.linksCoherent (s : State) : Prop := s.linkA.Coherent ∧ s.linkB.Coherent

/-! ### The lane store -/

/-- R72, R94: a route holds the page need of its bound lane in FILLING and RUNNING, laid out for its
geometry, and no pages in any other state. -/
def Route.HoldsNeed (r : Route) : Prop :=
  if r.state = .filling ∨ r.state = .running then
    ∃ lane, r.bound = some lane ∧ r.geometry = some lane.geometry
      ∧ r.pages.length = pageNeed lane.geometry
  else r.pages = []

/-- R71: every page of the pool is in one page list at most. -/
def pagesApart (rs : List Route) : Prop :=
  (rs.flatMap Route.pages).Nodup ∧ ∀ p ∈ rs.flatMap Route.pages, p < poolPages

/-- R71, R72: the pool is shared out among the routes as the spec says. -/
structure State.PoolShared (s : State) : Prop where
  routes : s.routes.length = 18
  apart : pagesApart s.routes
  need : ∀ r ∈ s.routes, r.HoldsNeed

/-! ### Queues -/

/-- The items of a queue that are units (true) or groups (false). -/
def itemsOf (isUnit : Bool) (q : List Item) : List Item := q.filter fun i => i.isUnit = isUnit

/-- R104, R105, R129: at most 2 units and 4 groups, and nothing but the front item has begun. -/
structure QueueFits (q : List Item) : Prop where
  units : (itemsOf true q).length ≤ 2
  groups : (itemsOf false q).length ≤ 4
  begun : ∀ i ∈ q.tail, i.started = 0

/-- R104, R129, R156, R160, R161, R165: every queue keeps to its size. A held APPLY is the request in
front, and has room for its reply. -/
structure State.QueuesFit (s : State) : Prop where
  requests : s.mgmt.requests.length ≤ 4
  replies : s.trunk.replies.length ≤ 2
  held : s.mgmt.held.isSome → s.mgmt.requests ≠ [] ∧ s.trunk.replies.length ≤ 1
  notices : s.trunk.notices.length ≤ 16
  routes : ∀ r ∈ s.routes, QueueFits r.queue

/-! ### Between two commands -/

/-- R63, R139: no handover is decided and left unmade, and no evaluation is left due. -/
def State.quiescent (s : State) : Prop := s.roles.decision = none ∧ s.ann.evalDue = false

/-- R108: at most one route carries the listening flag. -/
def State.oneListener (s : State) : Prop :=
  ∀ m n, (s.route m).listening = true → (s.route n).listening = true → m = n

/-- R176: every sticky flag of k stands in k'. -/
def Sticky.Within (k k' : Sticky) : Prop :=
  (k.noticeLost → k'.noticeLost) ∧ (k.requestLost → k'.requestLost) ∧
  (k.mapRejectedA → k'.mapRejectedA) ∧ (k.mapRejectedB → k'.mapRejectedB) ∧
  (k.coastExpired → k'.coastExpired) ∧ (k.stackFull → k'.stackFull) ∧ (k.lateFrames → k'.lateFrames)

/-- The request at the front of the queue may be taken and is this one (R165). -/
def State.Serves (s : State) (req : Request) : Prop :=
  s.mgmt.requests.head? = some req ∧ s.mgmt.held = none ∧ s.trunk.replies.length < 2

/-! ### Maps -/

/-- R35: what the checks of a collection make sure of in a map (2.1, 2.2). -/
structure MuxMap.Sound (m : MuxMap) : Prop where
  version : m.version < 16
  laneOrder : (m.lanes.map Lane.id).Pairwise (· < ·)
  laneIds : ∀ l ∈ m.lanes, 1 ≤ l.id ∧ l.id ≤ 63
  laneCells : ∀ l ∈ m.lanes, 1 ≤ l.geometry.size ∧ l.geometry.start + l.geometry.size ≤ 720
  laneDepths : ∀ l ∈ m.lanes, l.geometry.depth ∈ [1, 2, 4, 8, 16]
  lanesApart : m.lanes.Pairwise fun x y => ∀ k, ¬ (x.geometry.start ≤ k ∧ k < x.geometry.start + x.geometry.size
    ∧ y.geometry.start ≤ k ∧ k < y.geometry.start + y.geometry.size)
  programIds : (m.programs.map Program.id).Nodup ∧ ∀ p ∈ m.programs, p.id ≠ 0
  programLanes : ∀ p ∈ m.programs, (p.primary :: p.companions).Nodup
    ∧ (∀ i ∈ p.primary :: p.companions, i ∈ m.lanes.map Lane.id)
    ∧ p.companions.length ≤ 3 ∧ p.cluster ≤ 31
  alternateIds : (m.alternates.map Alternate.id).Nodup ∧ ∀ a ∈ m.alternates, a.id ≠ 0
  alternateLists : ∀ a ∈ m.alternates, 1 ≤ a.others.length ∧ a.others.length ≤ 4
    ∧ ∀ x ∈ a.others, x ≠ 0x0000 ∧ x ≠ 0xFFFF
  limits : m.lanes.length ≤ 63 ∧ m.programs.length ≤ 32 ∧ m.alternates.length ≤ 16

/-- 2.2: a tracker's map is sound, and its collection is marked complete only when it has passed every
check. -/
structure Tracker.Sound (x : Tracker) : Prop where
  map : ∀ m, x.map = some m → m.Sound
  version : ∀ c, x.collection = some c → c.version < 16
  complete : ∀ c, x.collection = some c → c.complete = true → judge c = .complete

/-- Both trackers are sound. -/
def State.mapsSound (s : State) : Prop := s.leadTracker.Sound ∧ s.scoutTracker.Sound

/-! ### The interruption stack -/

/-- R137: the stack stands on the listening route's PROGRAM entry, rises strictly in priority, and holds
at most 4 entries. -/
structure State.StackRises (s : State) : Prop where
  depth : s.ann.stack.length ≤ 4
  bottom : ∀ e, s.ann.stack.head? = some e → e.cls = none
  rising : s.ann.stack.Pairwise fun lower upper => upper.priority < lower.priority
  listening : s.ann.stack = [] ↔ s.listening = none

/-- 7.1, R135: the live table has its 16 entries, and no two live entries have one key. -/
structure State.LiveKeysApart (s : State) : Prop where
  length : s.ann.live.length = 16
  apart : s.ann.live.reduceOption.Pairwise fun x y => ¬ (x.cls = y.cls ∧ x.cluster = y.cluster)

/-! ### Blocks -/

/-- R125: the part after an assembly of route n, in record i, has been aborted. -/
def State.afterAbort (i n : Nat) (reason : AbortReason) (s : State) : State :=
  { s with packets :=
    { table := s.packets.table.set i none, order := s.packets.order.filter (· ≠ i) } }.modRoute n fun r =>
      { r with aborted := bump r.aborted, lastAbort := some { reason := reason, fn := s.lastFn } }

/-- R128: the blocks held by open assemblies and by groups queued or being sent fit in the pool. -/
def State.blocksFit (s : State) : Prop := s.packets.blocks + s.queueBlocks ≤ poolBlocks

/-! ### Requests -/

/-- The part with its cursor set and the selection record IDLE, as a request other than a selection
request, STATUS, READ or STEP finds it (R114, R169). -/
def State.cleared (s : State) (c : Cursor) : State :=
  { s with mgmt := { s.mgmt with cursor := c, selection := .idle } }

/-- The LAST flags of a request that takes its step with this outcome (R114, R175). -/
def lastOf (s : State) (outcome : Outcome) : LastFlags :=
  { outcome := outcome, sequenceReset := s.mgmt.selection.phase ≠ .idle, pinSkip := false }

/-- A LINK write whose expected multiplex id changes nothing (R5). -/
def KeepsId (f : LinkFields) (x : Link) : Prop :=
  f.expectedId = x.expectedId ∧ f.expectedId ≠ 0xFFFF ∧
    (f.expectedId = 0 ∨ f.expectedId = x.followedId ∨ x.sync = .hunt)

/-- R115: host route n is one that a held APPLY acts on. -/
def State.Marked (s : State) (n : Nat) : Prop :=
  ∃ a b, s.mgmt.selection.first = some a ∧ s.mgmt.selection.last = some b ∧ a ≤ n ∧ n ≤ b ∧ n < 16
    ∧ n ∉ s.mgmt.selection.unmarked ∧ (s.route n).state ≠ .vacant

/-! ### What the scout reaches -/

/-- Nothing but link l, the scout tracker, notices, sticky flags and the clock differs. -/
structure State.ApartFrom (l : LinkId) (s t : State) : Prop where
  other : t.link (otherLink l) = s.link (otherLink l)
  leadTracker : t.leadTracker = s.leadTracker
  merge : t.merge = s.merge
  roles : t.roles = s.roles
  store : t.store = s.store
  routes : t.routes = s.routes
  packets : t.packets = s.packets
  ann : t.ann = s.ann
  management : t.mgmt = { s.mgmt with sticky := t.mgmt.sticky }
  trunk : t.trunk = { s.trunk with notices := t.trunk.notices, noticeNumber := t.trunk.noticeNumber }

/-! ### Waking and answering -/

/-- R152: what a wake with this source has done when no candidate names it. -/
structure State.Woken (source : WakeSource) (s t : State) : Prop where
  level : t.ann.level = .run
  quiet : ∀ x ∈ t.ann.live, ∀ e, x = some e → e.quiet = false
  noticed : t.Noticed (.wake source none none)
  resumed : ∀ n < 16, (s.route n).reason = some .level →
    (t.route n).reason = none ∧ (t.route n).state ∈ [.pending, .starved, .filling]
  others : ∀ n < 16, (s.route n).reason ≠ some .level → (s.route n).state ≠ .starved →
    (t.route n).reason = (s.route n).reason ∧ (t.route n).state = (s.route n).state
  links : t.linkA = s.linkA ∧ t.linkB = s.linkB ∧ t.merge = s.merge ∧ t.leadTracker = s.leadTracker

/-- The LAST flags with this outcome and both flags clear (R175). -/
def said (outcome : Outcome) : LastFlags :=
  { outcome := outcome, sequenceReset := false, pinSkip := false }

/-- R169, R107: the part after entry i of table t has been read. -/
def State.afterRead (t : Table) (i : Nat) (req : Request) (s : State) : State :=
  let shown := answer req (said .ok) (entryCells s t i)
    { s with mgmt := { s.mgmt with cursor := { table := t, index := i } } }
  if t = .route then shown.modRoute i fun r => { r with overrunFlag := false } else shown

end Sys2Proof.Machine
end

