-- ==== Sys2Proof/Certificates/Slice0/Obligations.lean ====
section
/-! DEFINITION. The statements for the provers, chapter by chapter of spec/. -/

open Sys2Proof Sys2Proof.Machine

/-! ### The part as a whole -/

/-- The values every block has after power-on reset, as far as the spec gives them; and the state after it
meets every invariant stated here. -/
def Obligations.ResetState : Prop :=
  let s := State.reset
  s.linkA.role = .lead ∧ s.linkB.role = .off ∧
  (∀ l, (s.link l).sync = .hunt ∧ (s.link l).expectedId = 0 ∧ (s.link l).followedId = 0 ∧
    (s.link l).confirmCount = 0 ∧ (s.link l).lastFn = none ∧ (s.link l).consecutive = 0 ∧
    (s.link l).due = none ∧ (s.link l).trim = 0 ∧ (s.link l).phase = 0 ∧ (s.link l).window = none ∧
    (s.link l).score = 0 ∧ (s.link l).quality = 0 ∧ (s.link l).level = .none ∧
    (s.link l).taken = 0 ∧ (s.link l).badHeaders = 0 ∧ (s.link l).foreign = 0 ∧ (s.link l).late = 0 ∧
    (s.link l).misses = 0 ∧ (s.link l).resyncs = 0 ∧ (s.link l).coastExpiries = 0 ∧
    (s.link l).merged = 0 ∧ (s.link l).mergeLate = 0 ∧ (s.link l).mergeDropped = 0) ∧
  (∀ t, (s.tracker t).map = none ∧ (s.tracker t).collection = none ∧ (s.tracker t).target = none ∧
    (s.tracker t).lastFn = none) ∧
  s.roles.arm = none ∧ s.roles.dwell = 0 ∧ s.roles.advised = false ∧
  s.merge.waiting = [] ∧ s.merge.held = [] ∧ s.merge.releasePoint = none ∧ s.merge.lastRelease = none ∧
  s.freePages = List.range 384 ∧ s.store.refusals = 0 ∧ s.freeBlocks = 512 ∧
  (∀ n < 18, (s.route n).state = .vacant ∧ (s.route n).program = 0 ∧ (s.route n).component = 0 ∧
    (s.route n).channel = (if n < 16 then some (n + 1) else none) ∧ (s.route n).damage = 72 ∧
    (s.route n).listening = false ∧ (s.route n).pin = false ∧ (s.route n).held = false ∧
    (s.route n).addrs = [] ∧ (s.route n).bound = none ∧ (s.route n).run = false ∧
    (s.route n).binding = none ∧ (s.route n).reason = none ∧ (s.route n).overrunFlag = false ∧
    (s.route n).pages = [] ∧ (s.route n).geometry = none ∧ (s.route n).fill = 0 ∧ (s.route n).tallies = [] ∧
    (s.route n).sent = 0 ∧ (s.route n).damaged = 0 ∧ (s.route n).lost = 0 ∧ (s.route n).gaps = 0 ∧
    (s.route n).overrun = 0 ∧ (s.route n).delivered = 0 ∧ (s.route n).bad = 0 ∧ (s.route n).aborted = 0 ∧
    (s.route n).queue = [] ∧ (s.route n).lastAbort = none) ∧
  (∀ i, s.packets.table.getD i none = none) ∧ s.packets.order = [] ∧
  (∀ i, s.ann.live.getD i none = none) ∧ s.ann.stack = [] ∧ s.ann.onAir = none ∧
  s.ann.switchMark = false ∧ s.ann.level = .run ∧
  s.trunk.replies = [] ∧ s.trunk.pointer = none ∧ s.trunk.line = none ∧
  s.trunk.notices = [{ number := 0, fn := none, body := .reset { cause := .power, level := none } }] ∧
  s.trunk.noticeNumber = 1 ∧
  s.mgmt.settings =
    { warn := 96, drop := 48, hysteresis := 16, window := 2, autoSwap := true, follow := .advise, dwell := 25
      announce := 3, wake := 3, coast := 250, assembly := 50, liveRefresh := 75 } ∧
  s.mgmt.last = { outcome := .ok, sequenceReset := false, pinSkip := false } ∧ s.mgmt.held = none ∧
  s.mgmt.requests = [] ∧ s.mgmt.cursor = { table := .route, index := 0 } ∧ s.mgmt.selection = .idle ∧
  s.mgmt.sticky = .clear ∧ s.mgmt.record = { cause := .power, level := none } ∧
  s.oneLead ∧ s.linksCoherent ∧ s.mapsSound ∧ s.PoolShared ∧ cellsWf s.store.cells = true ∧
  s.QueuesFit ∧ s.oneListener ∧ s.StackRises ∧ s.LiveKeysApart ∧ s.blocksFit ∧ s.quiescent

/-- A step runs the command at the front of the queue, with the queue's rest; no command touches the queue;
and on an empty queue the part idles (the model's choice, log 3). -/
def Obligations.StepTakesFront : Prop :=
  (∀ (s : State) (c : Instr) (rest : List Instr), s.pending = c :: rest →
    step s = exec c { s with pending := rest }) ∧
  (∀ s : State, s.pending = [] → step s = .next s) ∧
  (∀ (c : Instr) (s t : State), exec c s = .next t → t.pending = s.pending)

/-- R164, R178, R179, R71: power-on and pin reset leave the reset state but for the contents of the pages, and
queue the RESET notice as number 0, to be the next cell unless HOLD is asserted with RESET not held (log 17);
what of the state outside the spec's tables stands is the model's choice (log 1). -/
def Obligations.ResetCommands : Prop :=
  ∀ s : State,
    exec .powerOnReset s = .next
      { State.reset with
        store := { cells := s.store.cells, refusals := 0 }
        trunk :=
          { State.reset.trunk with
            hold := s.trunk.hold, resetHeld := s.trunk.resetHeld
            resetFirst := s.trunk.resetHeld || !s.trunk.hold }
        freeIndex := s.freeIndex, pending := s.pending } ∧
    (let record : ResetRecord := { cause := .pin, level := some s.ann.level }
     exec .pinReset s = .next
      { State.reset with
        clock := s.clock
        store := { cells := s.store.cells, refusals := 0 }
        trunk :=
          { State.reset.trunk with
            notices := [{ number := 0, fn := none, body := .reset record }]
            hold := s.trunk.hold, resetHeld := true, resetFirst := true }
        mgmt := { State.reset.mgmt with record := record }
        freeIndex := s.freeIndex, pending := s.pending })

/-- R180, R164, R178, R179, R71: RESET served: reset values, settings, replies and page contents kept, its reply,
the RESET notice. That the last real header of a link is none after it, and that the HOLD input stands, is the
model's choice (log 1). -/
def Obligations.TrunkReset : Prop :=
  ∀ (s : State) (tag : Tag), s.Serves { tag := tag, op := .reset } →
    let record : ResetRecord := { cause := .trunk, level := some s.ann.level }
    let restart := BitVec.ofNat 8 (if s.mgmt.selection.phase ≠ .idle then 1 else 0)
    ∃ t, exec (.reset tag) s = .next t ∧
      t.linkA = State.reset.linkA ∧ t.linkB = State.reset.linkB ∧ t.merge = State.reset.merge ∧
      t.roles = State.reset.roles ∧ t.leadTracker = State.reset.leadTracker ∧
      t.scoutTracker = State.reset.scoutTracker ∧ t.routes = State.reset.routes ∧
      t.store = { cells := s.store.cells, refusals := 0 } ∧ t.packets = State.reset.packets ∧ t.ann = State.reset.ann ∧
      t.mgmt = { State.reset.mgmt with
        settings := s.mgmt.settings, record := record
        last := { outcome := .ok, sequenceReset := s.mgmt.selection.phase ≠ .idle, pinSkip := false } } ∧
      t.trunk.replies = s.trunk.replies ++
        [{ tag := tag, cells := [body16 [14, 0, restart, 0, 0, 0], recordCell record], started := 0 }] ∧
      t.trunk.notices = [{ number := 0, fn := none, body := .reset record }] ∧ t.trunk.noticeNumber = 1 ∧
      t.trunk.pointer = none ∧ t.trunk.hold = s.trunk.hold ∧ t.trunk.resetHeld = s.trunk.resetHeld ∧
      t.trunk.resetFirst = false ∧
      t.trunk.line.map LineCell.bytes = s.trunk.line.map LineCell.bytes

/-! ### Frame intake and frame time (spec 01) -/

/-- R2, R3, R4, R13: an arrival on an OFF link changes nothing; an invalid frame adds 1 to the bad headers
counter, a foreign one to the foreign frames counter, one of the last 7 FNs taken to the late frames counter
with the sticky flag, and nothing else changes. (The reference time is the model's own, log 4.) -/
def Obligations.ArrivalDiscarded : Prop :=
  ∀ (s : State) (l : LinkId) (time : Nat) (frame : List Byte) (marks : List Bool),
    frame.length = frameBytes → marks.length = frameCells → s.quiescent →
    let heard := { s with clock := max s.clock time }
    ((s.link l).role = .off → exec (.arrival l time frame marks) s = .next heard) ∧
    ((s.link l).role ≠ .off →
      (frame.take 4 ≠ [0xB4, 0x6E, 0x1D, 0x93] ∨ wordAt frame 14 ≠ crc16 (frame.take 14)
        ∨ wordAt frame 4 = 0x0000 ∨ wordAt frame 4 = 0xFFFF) →
      exec (.arrival l time frame marks) s =
        .next (heard.modLink l fun x => { x with badHeaders := bump x.badHeaders })) ∧
    ((s.link l).role ≠ .off → frameValid frame = true → (s.link l).expectedId ≠ 0 →
      wordAt frame 4 ≠ (s.link l).expectedId →
      exec (.arrival l time frame marks) s =
        .next (heard.modLink l fun x => { x with foreign := bump x.foreign })) ∧
    ((s.link l).Hears frame → (s.link l).synced = true →
      (s.link l).followedId = (decodeFrame frame marks).mux →
      4089 ≤ fnDist (s.link l).expected (decodeFrame frame marks).fn →
      exec (.arrival l time frame marks) s =
        .next ((heard.modLink l fun x => { x with late := bump x.late }).modSticky
          fun k => { k with lateFrames := true }))

/-- R6, R7, R9, R43: a frame that starts a confirmation in HUNT, counts on in CONFIRM, or starts it again; and
one that changes the multiplex of its link, which empties the tracker that the link feeds. (The reference time is
the model's own, log 4.) -/
def Obligations.ConfirmationCounts : Prop :=
  ∀ (s : State) (l : LinkId) (time : Nat) (frame : List Byte) (marks : List Bool),
    frame.length = frameBytes → marks.length = frameCells → s.quiescent → (s.link l).Hears frame →
    let x := s.link l
    let f := decodeFrame frame marks
    let heard := { s with clock := max s.clock time }
    let first := heard.modLink l fun x =>
      { x with sync := .confirm, confirmCount := 1, lastFn := some f.fn, followedId := f.mux }
    (x.sync = .hunt → (x.followedId = 0 ∨ x.followedId = f.mux) →
      exec (.arrival l time frame marks) s = .next first) ∧
    (x.sync = .confirm → x.followedId = f.mux → x.lastFn.map (· + 1) = some f.fn → x.confirmCount < 2 →
      exec (.arrival l time frame marks) s =
        .next (heard.modLink l fun x => { x with confirmCount := x.confirmCount + 1, lastFn := some f.fn })) ∧
    (x.sync = .confirm → x.followedId = f.mux → x.lastFn.map (· + 1) ≠ some f.fn →
      exec (.arrival l time frame marks) s = .next first) ∧
    (s.oneLead → (x.sync = .hunt ∨ x.sync = .confirm) → x.followedId ≠ 0 → x.followedId ≠ f.mux →
      (x.role = .partner → exec (.arrival l time frame marks) s = .next first) ∧
      (∀ k, (k = .lead ∧ x.role = .lead) ∨ (k = .scout ∧ x.role = .scout) →
        ∃ t, exec (.arrival l time frame marks) s = .next t ∧ t.link l = first.link l ∧
          t.link (otherLink l) = s.link (otherLink l) ∧ (t.tracker k).map = none ∧
          (t.tracker k).collection = none ∧ (t.tracker k).target = none ∧
          (∀ m, (s.tracker k).map = some m → t.Noticed (.mapLost k l .multiplex m.version))))

/-- R8, R16, R20, R23: the third consecutive frame puts the link in LOCKED; the other link's own fields
stay. (That the arrival's time is the later of the one it carries and the reference time is the model's choice,
log 4.) -/
def Obligations.ThirdFrameLocks : Prop :=
  ∀ (s : State) (l : LinkId) (time : Nat) (frame : List Byte) (marks : List Bool),
    frame.length = frameBytes → marks.length = frameCells → (s.link l).Hears frame →
    let x := s.link l
    let f := decodeFrame frame marks
    x.sync = .confirm → x.followedId = f.mux → x.lastFn.map (· + 1) = some f.fn → x.confirmCount = 2 →
    ∃ t, exec (.arrival l time frame marks) s = .next t ∧
      (t.link l).core = Link.core
        { x with
          sync := .locked, confirmCount := 0, lastFn := some f.fn, consecutive := 0
          taken := bump x.taken, lastHeader := some f.header
          due := some (max s.clock time + x.period x.phase), phase := (x.phase + 1) % 16
          window := some { first := max s.clock time, latest := max s.clock time, count := 0, sum := 0 }
          score := 8 * f.q, quality := f.q
          level := if s.mgmt.settings.warn ≤ f.q then .good
            else if s.mgmt.settings.drop ≤ f.q then .weak else .poor } ∧
      (t.link (otherLink l)).core = (s.link (otherLink l)).core

/-- R10, R16, R18, R24: the expected frame is taken, and so is one 1 to 7 FNs ahead: the misses of the gap first,
one by one, which do not move the due time. When one of them ends the coast, the rest are not declared and the
frame starts a confirmation. The other link's own fields stay. (That the arrival's time is the later of the one
it carries and the reference time, log 4, and that the consecutive misses keep their value through the departure,
log 14, are the model's choices.) -/
def Obligations.FrameTaken : Prop :=
  ∀ (s : State) (l : LinkId) (time : Nat) (frame : List Byte) (marks : List Bool),
    frame.length = frameBytes → marks.length = frameCells → (s.link l).Hears frame →
    let x := s.link l
    let f := decodeFrame frame marks
    let d := fnDist x.expected f.fn
    let coast := s.mgmt.settings.coast
    let k := if coast ≤ x.consecutive + 1 then 1 else coast - x.consecutive
    x.synced = true → x.followedId = f.mux → d ≤ 7 →
    ((1 ≤ d → x.consecutive + d < coast) →
      ∃ t, exec (.arrival l time frame marks) s = .next t ∧ t.clock = max s.clock time ∧
        (t.link l).core = (((Link.afterMiss s.mgmt.settings)^[d] x).afterTaken s.mgmt.settings
          (max s.clock time) f).core ∧
        (t.link (otherLink l)).core = (s.link (otherLink l)).core) ∧
    (1 ≤ d → coast ≤ x.consecutive + d →
      ∃ t, exec (.arrival l time frame marks) s = .next t ∧
        (t.link l).core = Link.core
          { x.afterDeparture .confirm with
            confirmCount := 1, lastFn := some f.fn, consecutive := x.consecutive + k
            misses := bump^[k] x.misses, coastExpiries := bump x.coastExpiries } ∧
        (t.link (otherLink l)).core = (s.link (otherLink l)).core ∧
        t.mgmt.sticky.coastExpired = true ∧ t.Noticed (.coastExpired l))

/-- R11, R12: a far frame of the followed multiplex, or a frame of another one, resyncs the link. (That the
consecutive misses keep their value through the departure is the model's choice, log 14.) -/
def Obligations.FarFrameResyncs : Prop :=
  ∀ (s : State) (l : LinkId) (time : Nat) (frame : List Byte) (marks : List Bool),
    frame.length = frameBytes → marks.length = frameCells → (s.link l).Hears frame →
    let x := s.link l
    let f := decodeFrame frame marks
    let d := fnDist x.expected f.fn
    x.synced = true → (x.followedId ≠ f.mux ∨ (8 ≤ d ∧ d ≤ 4088)) →
    ∃ t, exec (.arrival l time frame marks) s = .next t ∧
      (t.link l).core = Link.core
        { x.afterDeparture .confirm with
          confirmCount := 1, lastFn := some f.fn, followedId := f.mux
          resyncs := if x.followedId = f.mux then bump x.resyncs else x.resyncs } ∧
      (t.link (otherLink l)).core = (s.link (otherLink l)).core

/-- R17, R18, R12, R24, R25: a timer expiry: a miss, and at the coast limit the end of the coast. R61, R66, R87,
R98: there the lead departs: its waiting frames are released first, then every route is flushed and its run ends,
an arm still set is missed, and the merge stage is emptied. (The reference time is the model's own, log 4; with no
due time there is no expiry, log 5; that an APPLY already due acts before the releases, log 7; that the consecutive
misses stand after a departure is its choice, log 14.) -/
def Obligations.TimerExpiry : Prop :=
  (∀ (s : State) (l : LinkId),
    let x := s.link l
    (x.due = none → exec (.miss l) s = .next s) ∧
    (∀ d, x.due = some d → x.synced = true → x.consecutive + 1 < s.mgmt.settings.coast →
      ∃ t, exec (.miss l) s = .next t ∧ t.clock = max s.clock (d + 96000) ∧
        (t.link l).core = Link.core
          { x.afterMiss s.mgmt.settings with
            due := some (d + x.period x.phase), phase := (x.phase + 1) % 16 } ∧
        (t.link (otherLink l)).core = (s.link (otherLink l)).core) ∧
    (∀ d, x.due = some d → x.synced = true → s.mgmt.settings.coast ≤ x.consecutive + 1 →
      ∃ t, exec (.miss l) s = .next t ∧
        (t.link l).core = Link.core
          { x.afterDeparture .hunt with
            consecutive := x.consecutive + 1, misses := bump x.misses
            coastExpiries := bump x.coastExpiries, phase := (x.phase + 1) % 16 } ∧
        (t.link (otherLink l)).core = (s.link (otherLink l)).core ∧
        t.mgmt.sticky.coastExpired = true ∧ t.Noticed (.coastExpired l) ∧
        (x.role = .lead →
          t.merge.waiting = [] ∧ t.merge.held = [] ∧ t.merge.releasePoint = none ∧ t.roles.arm = none ∧
          ∀ n < 18, (t.route n).run = false ∧
            ((t.route n).pages ≠ [] → (t.route n).state ≠ .running ∧ (t.route n).fill = 0)))) ∧
  (∀ s : State,
    let u := releaseAll (actIfDue s)
    let t := leadDeparture s
    u.merge.waiting = [] ∧
    t.merge = { u.merge with held := [], releasePoint := none } ∧
    (∀ l, (t.link l).mergeDropped =
      bump^[(u.merge.held.filter fun h => h.link = l).length] (u.link l).mergeDropped) ∧
    t.leadTracker = { u.leadTracker with target := none } ∧ t.scoutTracker = u.scoutTracker ∧
    t.roles = { u.roles with arm := none } ∧
    (∀ n, u.roles.arm = some n →
      (∃ x ∈ t.trunk.notices, x.body = .armMissed ∧ x.fn = some n) ∨ t.mgmt.sticky.noticeLost = true) ∧
    (∀ n < 18, t.route n =
      { u.route n with
        run := false
        state := if (u.route n).pages ≠ [] ∧ (u.route n).state = .running then .filling else (u.route n).state
        fill := if (u.route n).pages ≠ [] then 0 else (u.route n).fill
        tallies := if (u.route n).pages ≠ [] then (u.route n).tallies.map fun _ => 0 else (u.route n).tallies
        aborted := (t.route n).aborted, lastAbort := (t.route n).lastAbort }) ∧
    (∀ i < 8, ∀ a, t.packets.table.getD i none = some a → 18 ≤ a.route))

/-- R19: the periods of a skip cycle. -/
def Obligations.TrimPeriods : Prop :=
  ∀ x : Link, -1280 ≤ x.trim → x.trim ≤ 1279 →
    (∀ j < 16, (x.period j : Int) = 768000 + x.trimC + skipTerm x.trimF j) ∧
    (∀ j < 16, skipTerm x.trimF j = 0 ∨ skipTerm x.trimF j = 1) ∧
    ((List.range 16).filter fun j => skipTerm x.trimF j = 1).length = x.trimF ∧
    (((List.range 16).map x.period).sum : Int) = 16 * 768000 + x.trim ∧
    -80 ≤ x.trimC ∧ x.trimC ≤ 79 ∧ x.trimF ≤ 15 ∧
    (∀ j < 16, 767920 ≤ x.period j ∧ x.period j ≤ 768080) ∧
    (x.trim = -1280 → ∀ j < 16, x.period j = 767920) ∧
    (x.trim = 1279 → x.trimF = 15 ∧ ∃ j < 16, x.period j = 768080)

/-- R16, R20, R21: the frame that completes a window installs the clamped trim, and its due time is set
with it. -/
def Obligations.WindowInstallsTrim : Prop :=
  ∀ (x : Link) (w : Window) (t : Nat), x.sync = .locked → x.window = some w → w.count = 15 →
    let excess : Int := (w.sum + (t - w.latest) : Nat) - 12288000
    let trim := if excess < -1280 then -1280 else if 1279 < excess then 1279 else excess
    let c := trim / 16
    x.timeTaken t =
      { x with
        trim := trim, phase := 1
        window := some { first := t, latest := t, count := 0, sum := 0 }
        due := some (t + (768000 + c).toNat) }

/-- R12, R16, R22, R23, 1.3: no step breaks what a link's sync state says of its other fields. -/
def Obligations.LinksStayCoherent : Prop :=
  ∀ s t : State, s.linksCoherent → step s = .next t → t.linksCoherent

/-! ### The multiplex map (spec 02) -/

/-- R28, R45: what the scout link hands on reaches the scout tracker and nothing else of the part. -/
def Obligations.ScoutStaysApart : Prop :=
  ∀ (s : State) (l : LinkId), (s.link l).role = .scout → s.quiescent →
    (∀ (time : Nat) (frame : List Byte) (marks : List Bool),
      frame.length = frameBytes → marks.length = frameCells →
      ∃ t, exec (.arrival l time frame marks) s = .next t ∧ s.ApartFrom l t) ∧
    (∃ t, exec (.miss l) s = .next t ∧ s.ApartFrom l t)

/-- R40, R38, R39, R28: the switch frame, and the countdown of a real frame; of a substitute frame nothing but
the FN is used. -/
def Obligations.SwitchAndCountdown : Prop :=
  ∀ (s : State) (k : TrackerId) (f : Frame),
    let x := s.tracker k
    let t := switchFrame k f s
    let u := takeCountdown k f s
    (∀ g, x.target = some g →
      (g.fn ≠ f.fn → t = s) ∧
      (∀ c, g.fn = f.fn → x.collection = some c → c.complete = true → c.version = g.version →
        t.tracker k = { x with map := some (mapOf c), collection := none, target := none } ∧
        t.Noticed (.mapSwitch k (s.feeder k) .switched c.version (x.map.map MuxMap.version))) ∧
      (g.fn = f.fn → (∀ c, x.collection = some c → ¬ (c.complete = true ∧ c.version = g.version)) →
        t.tracker k = { x with map := none, target := none } ∧
        (∀ m, x.map = some m → t.Noticed (.mapLost k (s.feeder k) .incomplete m.version))) ∧
      (f.header.countdown = 0 → u = s.modTracker k fun x =>
        { x with
          target := none
          collection := if (x.collection.map Collection.version) = some g.version then none else x.collection })) ∧
    (f.header.countdown ≠ 0 → u = s.modTracker k fun x =>
      { x with
        target := some { fn := f.fn + BitVec.ofNat 12 f.header.countdown, version := f.header.nextVersion }
        collection :=
          if (x.collection.map Collection.version) = some f.header.nextVersion then x.collection else none }) ∧
    (x.target = none → t = s ∧ (f.header.countdown = 0 → u = s)) ∧
    (let seen := s.modTracker k fun x => { x with lastFn := some f.fn }
     (f.real = true →
       trackerHead k f s = versionCheck k f (takeCountdown k f (switchFrame k f seen))) ∧
     (f.real = false → ∀ g : Frame, g.real = false → g.fn = f.fn →
       trackerHead k g s = trackerHead k f s ∧
       (∀ y, x.target = some y → y.fn ≠ f.fn → trackerHead k f s = seen)))

/-- R41: the version check of a real frame. R30 to R37: what becomes of each record a tracker takes. (That an
excess index is found at the filing that shows it, and the index a conflict of summaries reports, are the model's
choices, log 9; so are the bytes that are compared and summed, log 18.) -/
def Obligations.VersionCheck : Prop :=
  ∀ (s : State) (k : TrackerId) (f : Frame),
    let x := s.tracker k
    let t := versionCheck k f s
    let v := f.header.mapVersion
    (∀ m, x.map = some m → m.version = v → t = s) ∧
    (∀ m c, x.map = some m → m.version ≠ v → x.collection = some c → c.complete = true → c.version = v →
      t.tracker k = { x with map := some (mapOf c), collection := none, target := none } ∧
      t.Noticed (.mapSwitch k (s.feeder k) .unannounced v (some m.version))) ∧
    (∀ m, x.map = some m → m.version ≠ v →
      (∀ c, x.collection = some c → ¬ (c.complete = true ∧ c.version = v)) →
      t.tracker k =
        { x with
          map := none, target := none
          collection := if (x.collection.map Collection.version) = some v then x.collection else none } ∧
      t.Noticed (.mapLost k (s.feeder k) .unannounced m.version)) ∧
    (∀ c, x.map = none → x.target = none → x.collection = some c → c.complete = true → c.version = v →
      t.tracker k = { x with map := some (mapOf c), collection := none } ∧
      t.Noticed (.mapSwitch k (s.feeder k) .acquired v none)) ∧
    (x.map = none → (x.target ≠ none ∨
        ∀ c, x.collection = some c → ¬ (c.complete = true ∧ c.version = v)) → t = s) ∧
    (∀ (live : State → LiveRecord → State) (r : List Byte),
      let after := takeRecord k f live s (some r)
      let filed := (recordNext r = false ∧ recordVersion r = v ∧ x.target = none ∧
          ∀ m, x.map = some m → m.version ≠ recordVersion r) ∨
        (recordNext r = true ∧ f.header.countdown ≠ 0 ∧ recordVersion r = f.header.nextVersion)
      let opened : Collection :=
        { version := recordVersion r, records := [], summary := none, complete := false }
      let c := match x.collection with
        | some c => if c.version = recordVersion r then c else opened
        | none => opened
      let rejected := fun (u : State) (why : RejectReason) (i : Option Nat) =>
        u.tracker k = { x with collection := none } ∧
        u.Noticed (.mapRejected k (s.feeder k) why (recordVersion r) i) ∧
        (s.feeder k = .a → u.mgmt.sticky.mapRejectedA = true) ∧
        (s.feeder k = .b → u.mgmt.sticky.mapRejectedB = true)
      let placed := fun (i : Option Nat) =>
        let c' := withRecord c i r
        (∀ h, heldRecord c i = some h → h = r → after = s) ∧
        (∀ h, heldRecord c i = some h → h ≠ r → rejected after .conflict (some (i.getD 127))) ∧
        (heldRecord c i = none →
          (judge c' = .collecting → after = s.modTracker k fun x =>
            { x with collection := some { c' with complete := false } }) ∧
          (∀ why j, judge c' = .rejected why j → rejected after why j) ∧
          (judge c' = .complete → (c'.version = v ∧ x.target = none) →
            after.tracker k = { x with map := some (mapOf c'), collection := none } ∧
            after.Noticed (.mapSwitch k (s.feeder k) .acquired c'.version (x.map.map MuxMap.version))) ∧
          (judge c' = .complete → ¬ (c'.version = v ∧ x.target = none) → after = s.modTracker k fun x =>
            { x with collection := some { c' with complete := true } }))
      takeRecord k f live s none = s ∧
      (recordOk r = false → after = s) ∧
      (recordOk r = true →
        (sortRecord r = .ignored → after = s) ∧
        (sortRecord r = .live → after = live s (liveOf r)) ∧
        (∀ i, sortRecord r = .filed i → (¬ filed → after = s) ∧ (filed → placed (some i))) ∧
        (sortRecord r = .summary → (¬ filed → after = s) ∧ (filed → placed none)))) ∧
    (∀ c : Collection,
      (c.summary = none → judge c = .collecting) ∧
      (∀ sm, c.summary = some sm →
        let n := summaryCount sm
        ((∃ y ∈ c.records, n ≤ y.1) → ∃ y ∈ c.records, n ≤ y.1 ∧ judge c = .rejected .excessIndex (some y.1)) ∧
        ((∀ y ∈ c.records, y.1 < n) →
          ((∃ i < n, ∀ y ∈ c.records, y.1 ≠ i) → judge c = .collecting) ∧
          ((∀ i < n, ∃ y ∈ c.records, y.1 = i) →
            (mapSum (c.records.map Prod.snd) ≠ summarySum sm → judge c = .rejected .sum none) ∧
            (mapSum (c.records.map Prod.snd) = summarySum sm →
              (judge c = .complete ↔ ∀ y ∈ consistency (c.records.map Prod.snd), y.1 = true) ∧
              (judge c ≠ .complete → ∃ y ∈ consistency (c.records.map Prod.snd),
                y.1 = false ∧ judge c = .rejected y.2 none))))))

/-- R35, R37, R40, R41: every map a tracker ever holds has passed the checks of R35. -/
def Obligations.MapsStaySound : Prop :=
  ∀ s t : State, s.mapsSound → step s = .next t → t.mapsSound

/-! ### Link roles, merging and handover (spec 03) -/

/-- R48, R63, R139: a link always holds LEAD, and only one; and no command leaves a decided handover unmade
or an evaluation due. -/
def Obligations.BetweenCommands : Prop :=
  ∀ s t : State, s.oneLead → step s = .next t → t.oneLead ∧ (s.quiescent → t.quiescent)

/-- R57: the admission of a frame of the partner link, and a frame offered to the partner hold buffer while no
lead frame waits. (On which side an FN at distance 2048 lies is the model's choice, log 21.) -/
def Obligations.PartnerHold : Prop :=
  (∀ (s : State) (l : LinkId) (f : Frame),
    let lead := s.link s.leadLink
    let admitted := (lead.sync = .locked ∨ lead.sync = .coast) ∧ f.mux = lead.followedId
    (admitted → partnerEntry l f s = placeHeld l f s) ∧
    (¬ admitted → partnerEntry l f s =
      s.modLink l fun x => { x with mergeDropped := bump x.mergeDropped })) ∧
  ∀ (s : State) (l : LinkId) (f : Frame), s.merge.waiting = [] → s.merge.held.length ≤ 4 →
    let t := placeHeld l f s
    let late := ∃ rp, s.merge.releasePoint = some rp ∧ fnAfter rp f.fn = false
    let held := ∃ h ∈ s.merge.held, h.frame.fn = f.fn
    let placed := fun (xs : List HeldFrame) =>
      xs.takeWhile (fun x => !fnAfter f.fn x.frame.fn) ++ { link := l, frame := f } ::
        xs.dropWhile (fun x => !fnAfter f.fn x.frame.fn)
    let dropped := fun (x : Link) => { x with mergeDropped := bump x.mergeDropped }
    (late → t = (s.modLink l fun x => { x with mergeLate := bump x.mergeLate }).modSticky
      fun k => { k with lateFrames := true }) ∧
    (¬ late → held → t = s.modLink l dropped) ∧
    (¬ late → ¬ held → s.merge.held.length < 4 →
      t = { s with merge := { s.merge with held := placed s.merge.held } }) ∧
    (¬ late → ¬ held → ∀ x rest, s.merge.held = x :: rest → rest.length = 3 →
      t = ({ s with merge := { s.merge with held := placed rest } }).modLink x.link dropped)

/-- R59: what a merged release is composed of. -/
def Obligations.MergedFrame : Prop :=
  ∀ n p : Frame, n.cells.length = 720 → p.cells.length = 720 →
    let m := mergeFrames n p
    m.fn = n.fn ∧ m.mux = n.mux ∧ m.cells.length = 720 ∧ m.records.length = 4 ∧
    (∀ k < 720, m.cells.getD k blankCell =
      if (n.cells.getD k blankCell).erased = true ∧ (p.cells.getD k blankCell).erased = false
      then p.cells.getD k blankCell else n.cells.getD k blankCell) ∧
    (∀ k < 720, (m.cells.getD k blankCell).erased = true ↔
      (n.cells.getD k blankCell).erased = true ∧ (p.cells.getD k blankCell).erased = true) ∧
    (∀ i < 4, ∀ r, n.records.getD i none = some r → recordOk r = true → m.records.getD i none = some r) ∧
    (∀ i < 4, (∀ r, n.records.getD i none = some r → recordOk r = false) →
      m.records.getD i none = p.records.getD i none) ∧
    m.header = (if n.real = true then n.header else p.header) ∧
    m.q = max n.q p.q ∧ (m.real = true ↔ n.real = true ∨ p.real = true)

/-- R59, R60: a release of the front frame: the merge stage after it, the counters of the link that held the
partner frame, and the frame that the blocks downstream are handed. (On which side an FN at distance 2048 lies is
the model's choice, log 21.) -/
def Obligations.ReleaseSetsPoint : Prop :=
  ∀ (s : State) (n : Frame) (rest : List Frame), s.merge.waiting = n :: rest →
    let partner := s.merge.held.find? fun h => h.frame.fn = n.fn
    let t := releaseFront s
    t.merge =
      { waiting := rest
        held := s.merge.held.filter fun h => h.frame.fn ≠ n.fn && !fnAfter h.frame.fn n.fn
        releasePoint := some n.fn
        lastRelease := some (n.fn, match partner with | some h => max n.q h.frame.q | none => n.q) } ∧
    (∀ h, partner = some h → (t.link h.link).merged = bump (s.link h.link).merged) ∧
    (∀ l, (∀ h, partner = some h → h.link ≠ l) → (t.link l).merged = (s.link l).merged) ∧
    (∀ l, (t.link l).mergeDropped =
      bump^[(s.merge.held.filter fun h =>
        h.frame.fn ≠ n.fn && fnAfter h.frame.fn n.fn && h.link = l).length] (s.link l).mergeDropped) ∧
    (∃ u, t = downstream (match partner with | some h => mergeFrames n h.frame | none => n)
        s.merge.releasePoint.isNone u ∧
      u = { s with merge := t.merge, linkA := u.linkA, linkB := u.linkB } ∧
      ∀ l, u.link l = { s.link l with merged := (t.link l).merged, mergeDropped := (t.link l).mergeDropped })

/-- R58: the frames that a release test releases are those up to the last one that is due. R56: the entry rule
for a lead frame; each entry is followed by a release test. (On which side an FN at distance 2048 lies is the
model's choice, log 21.) -/
def Obligations.ReleaseCount : Prop :=
  (∀ s : State,
    let k := releaseCount s.mgmt.settings.window s.merge.waiting s.merge.held
    (releaseTest s).merge.waiting = s.merge.waiting.drop k ∧
    (k = 0 → releaseTest s = s) ∧
    (∀ n, 0 < k → s.merge.waiting[k - 1]? = some n →
      (releaseTest s).merge.releasePoint = some n.fn)) ∧
  (∀ (s : State) (l : LinkId) (f : Frame),
    let newest := match s.merge.waiting.getLast? with
      | some x => some x.fn
      | none => s.merge.releasePoint
    let enter := fun (s : State) (x : Frame) =>
      releaseTest { s with merge := { s.merge with waiting := s.merge.waiting ++ [x] } }
    (newest = none → leadEntry l f s = enter s f) ∧
    (∀ e, newest = some e →
      (1 ≤ fnDist e f.fn → fnDist e f.fn ≤ 8 →
        ∃ fills : List Frame, fills.length = fnDist e f.fn - 1 ∧
          (∀ i x, fills[i]? = some x → Frame.Fills (e + BitVec.ofNat 12 (i + 1)) f x) ∧
          leadEntry l f s = (fills ++ [f]).foldl enter s) ∧
      (∀ rp, fnAfter e f.fn = false → s.merge.releasePoint = some rp →
        (fnAfter rp f.fn = true → leadEntry l f s = placeHeld l f s) ∧
        (fnAfter rp f.fn = false →
          leadEntry l f s = (s.modLink l fun x => { x with mergeLate := bump x.mergeLate }).modSticky
            fun k => { k with lateFrames := true })))) ∧
  ∀ (w : Nat) (waiting : List Frame) (held : List HeldFrame) (newest : Frame),
    waiting.getLast? = some newest →
    let due := fun (n : Frame) =>
      (∃ h ∈ held, h.frame.fn = n.fn) ∨ (1 ≤ w ∧ w ≤ fnDist n.fn newest.fn) ∨ w = 0
    let k := releaseCount w waiting held
    k ≤ waiting.length ∧ (∀ n ∈ waiting.drop k, ¬ due n) ∧
    (∀ n, 0 < k → waiting[k - 1]? = some n → due n) ∧ (w = 0 → k = waiting.length)

/-- R49, R171, R5, R15: the LINK writes that are refused, and those that keep the role. -/
def Obligations.LinkWriteKeepsRole : Prop :=
  ∀ (s : State) (tag : Tag) (l : LinkId) (f : LinkFields), s.quiescent → s.oneLead →
    s.Serves { tag := tag, op := .writeLink l f } →
    let req : Request := { tag := tag, op := .writeLink l f }
    let c := s.cleared { table := .link, index := if l = .a then 0 else 1 }
    let x := s.link l
    let m := if f.expectedId = 0xFFFF then 0xFFFE else f.expectedId
    let answered := fun (o : Outcome) => exec (.writeLink tag l f) s =
      .next (answer req (lastOf s o) (linkEntry x) c)
    (4 ≤ f.role.toNat → answered .badValue) ∧
    (x.role = .lead → 1 ≤ f.role.toNat → f.role.toNat ≤ 3 → answered .role) ∧
    (x.role ≠ .lead → s.ann.level = .watch → f.role.toNat ≤ 2 → answered .level) ∧
    (f.role.toNat = x.role.code → (x.role = .lead ∨ s.ann.level = .run ∨ x.role = .off) →
      (KeepsId f x → answered .ok) ∧
      ∃ t, exec (.writeLink tag l f) s = .next t ∧ (t.link l).expectedId = m ∧
        (t.link (otherLink l)).expectedId = (s.link (otherLink l)).expectedId ∧
        (m ≠ 0 → m ≠ x.followedId →
          (t.link l).sync = .hunt ∧ (x.synced = true → (t.link l).due = none)) ∧
        ((m = 0 ∨ m = x.followedId) → t.link l = { x with expectedId := m }))

/-- R49, R54: a LINK write that gives a link other than the lead another of PARTNER, SCOUT and OFF. -/
def Obligations.LinkRoleChanges : Prop :=
  ∀ (s : State) (tag : Tag) (l : LinkId) (f : LinkFields) (r : Role), s.quiescent → s.oneLead →
    s.Serves { tag := tag, op := .writeLink l f } → KeepsId f (s.link l) →
    roleOf f.role = some r → r ≠ .lead → (s.link l).role ≠ .lead → r ≠ (s.link l).role →
    (s.ann.level = .run ∨ r = .off) →
    ∃ t, exec (.writeLink tag l f) s = .next t ∧ (t.link l).role = r ∧
      (t.link (otherLink l)).role = .lead ∧
      t.roles = { arm := none, dwell := 0, advised := false, decision := none } ∧
      (r = .off → (t.link l).sync = .hunt) ∧
      (r ≠ .off → (t.link l).sync = (s.link l).sync) ∧
      (r = .scout → t.scoutTracker.map = none ∧ t.scoutTracker.collection = none ∧
        t.scoutTracker.target = none) ∧
      (r ≠ .scout → t.scoutTracker.map = s.scoutTracker.map) ∧
      ((s.link l).role = .partner → t.merge =
        { s.merge with held := s.merge.held.filter fun h => h.link ≠ l }) ∧
      ((s.link l).role ≠ .partner → t.merge = s.merge) ∧
      t.leadTracker = s.leadTracker ∧ t.routes = s.routes ∧ t.store = s.store ∧ t.packets = s.packets ∧
      t.ann = s.ann ∧ t.mgmt.last = lastOf s .ok

/-- R50, R51, R52, R54: LEAD written to the partner, when every condition of R51 holds. -/
def Obligations.SeamlessSwap : Prop :=
  ∀ (s : State) (tag : Tag) (l : LinkId) (f : LinkFields) (rp last : Fn) (m : MuxMap) (h : Header),
    s.quiescent → s.oneLead → s.Serves { tag := tag, op := .writeLink l f } → KeepsId f (s.link l) →
    f.role = 0 → s.ann.level = .run → (s.link l).role = .partner →
    (s.link (otherLink l)).synced = true → (s.link l).synced = true →
    (s.link l).followedId = (s.link (otherLink l)).followedId →
    s.merge.releasePoint = some rp → (s.link l).lastFn = some last → s.leadTracker.map = some m →
    (s.link l).lastHeader = some h → m.version = h.mapVersion →
    (fnDist rp last ≤ 7 ∨ fnDist last rp ≤ 7) →
    ∃ t, exec (.writeLink tag l f) s = .next t ∧
      t.link l = { s.link l with role := .lead } ∧
      t.link (otherLink l) = { s.link (otherLink l) with role := .partner } ∧
      t.roles = { arm := none, dwell := 0, advised := false, decision := none } ∧
      t.merge = s.merge ∧ t.leadTracker = s.leadTracker ∧ t.scoutTracker = s.scoutTracker ∧
      t.store = s.store ∧ t.routes = s.routes ∧ t.packets = s.packets ∧ t.ann = s.ann ∧
      t.Noticed (.role (t.link .a).role (t.link .b).role .manual (some .seamless)
        ((s.merge.lastRelease.map Prod.snd).getD 0)) ∧
      t.mgmt.last = lastOf s .ok

/-- R50, R51, R53, R54: LEAD written to an OFF link, or to a partner whose swap is not SEAMLESS: a BREAK. -/
def Obligations.BreakHandover : Prop :=
  ∀ (s : State) (tag : Tag) (l : LinkId) (f : LinkFields),
    s.quiescent → s.oneLead → s.Serves { tag := tag, op := .writeLink l f } → KeepsId f (s.link l) →
    f.role = 0 → s.ann.level = .run →
    ((s.link l).role = .off ∨ (s.link l).role = .partner ∧
      (s.merge.releasePoint = none ∨ (s.link l).synced = false ∨ (s.link (otherLink l)).synced = false ∨
        (s.link l).followedId ≠ (s.link (otherLink l)).followedId ∨ s.leadTracker.map = none)) →
    ∃ t, exec (.writeLink tag l f) s = .next t ∧
      (t.link l).role = .lead ∧ (t.link (otherLink l)).role = (s.link l).role ∧
      ((s.link l).role = .off → (t.link (otherLink l)).sync = .hunt) ∧
      t.merge = { s.merge with waiting := [], held := [], releasePoint := none } ∧
      t.leadTracker.map = none ∧ t.leadTracker.collection = none ∧ t.leadTracker.target = none ∧
      t.scoutTracker = s.scoutTracker ∧
      t.roles = { arm := none, dwell := 0, advised := false, decision := none } ∧
      t.Noticed (.role (t.link .a).role (t.link .b).role .manual (some .brk)
        ((s.merge.lastRelease.map Prod.snd).getD 0)) ∧
      (∀ m, s.leadTracker.map = some m →
        t.Noticed (.mapLost .lead l .handover m.version) ∧
        ∀ n < 16, (s.route n).state ≠ .vacant → (s.route n).state ≠ .suspended →
          (t.route n).state = .pending ∧ (t.route n).pages = [] ∧ (t.route n).bound = none ∧
          (t.route n).run = false ∧ (t.route n).queue = (s.route n).queue)

/-- R67: the candidate check fails when no link is SCOUT or no route is listening; otherwise it passes exactly
when the scout is LOCKED and GOOD, its map holds the listening program and, unless it is forced, the lead map
names the scout's multiplex as an alternate of that program. -/
def Obligations.CandidateCheck : Prop :=
  ∀ (s : State) (forced : Bool), s.oneLead → s.oneListener →
    ((∀ l, (s.link l).role ≠ .scout) ∨ (∀ n < 16, (s.route n).listening = false) →
      followCandidate forced s = none) ∧
    (∀ (l : LinkId) (n : Nat), (s.link l).role = .scout → n < 16 → (s.route n).listening = true →
      let x := s.link l
      let id := (s.route n).program
      ((followCandidate forced s).isSome = true ↔
        x.sync = .locked ∧ x.level = .good ∧
        (∃ m p, s.scoutTracker.map = some m ∧ m.program id = some p) ∧
        (forced = true ∨ ∃ m a, s.leadTracker.map = some m ∧ a ∈ m.alternates ∧ a.id = id ∧
          x.followedId ∈ a.others)))

/-- R69, R70, R44: FOLLOW, refused and served. (That the trackers exchange their last FNs too is the model's
choice, log 9.) -/
def Obligations.FollowRequest : Prop :=
  ∀ (s : State) (tag : Tag) (force : Bool), s.quiescent → s.oneLead →
    s.Serves { tag := tag, op := .follow force } →
    let req : Request := { tag := tag, op := .follow force }
    let c := s.cleared s.mgmt.cursor
    let l := otherLink s.leadLink
    (s.ann.level = .watch →
      exec (.follow tag force) s = .next (answer req (lastOf s .level) [followCell s] c)) ∧
    (s.ann.level = .run → followCandidate force s = none →
      exec (.follow tag force) s = .next (answer req (lastOf s .noCandidate) [followCell s] c)) ∧
    (s.ann.level = .run → (followCandidate force s).isSome = true →
      ∃ t, exec (.follow tag force) s = .next t ∧
        (t.link l).role = .lead ∧ (t.link (otherLink l)).role = .scout ∧
        (t.link l).core = (s.link l).core ∧ (t.link (otherLink l)).core = (s.link (otherLink l)).core ∧
        t.leadTracker = s.scoutTracker ∧ t.scoutTracker = s.leadTracker ∧
        t.merge = { s.merge with waiting := [], held := [], releasePoint := none } ∧
        t.roles = { arm := none, dwell := 0, advised := false, decision := none } ∧
        (∀ i, t.ann.live.getD i none = none) ∧ t.ann.stack.length ≤ 1 ∧
        (∀ n < 18, (s.route n).state ≠ .vacant → (s.route n).state ≠ .suspended →
          (t.route n).run = false) ∧
        t.Noticed (.role (t.link .a).role (t.link .b).role .follow (some .following)
          ((s.merge.lastRelease.map Prod.snd).getD 0)) ∧
        t.mgmt.last = lastOf s .ok)

/-- R63, R64, R66, R68: the armed check, then the auto-swap check, then the follow dwell, at a release r. -/
def Obligations.ReleaseChecks : Prop :=
  ∀ (s : State) (r : Fn) (q : Nat), s.oneLead → s.roles.decision = none →
    let lead := s.link s.leadLink
    let p := s.link (otherLink s.leadLink)
    let ready := p.role = .partner ∧ p.sync = .locked ∧ p.followedId = lead.followedId
    let swap := s.mgmt.settings.autoSwap = true ∧ lead.level = .poor ∧ ready ∧ (p.level = .good ∨ p.level = .weak)
    let t := roleChecks r q s
    (s.roles.arm = some r → ready →
      t = { s with roles := { s.roles with arm := none, decision := some .armedSwap } }) ∧
    (s.roles.arm = some r → ¬ ready → t.roles.arm = none ∧ t.roles.decision ≠ some .armedSwap ∧
      t.Noticed (.armFailed (if p.role = .partner then some (otherLink s.leadLink, p.sync) else none))) ∧
    (s.roles.arm ≠ some r → swap →
      t = { s with roles := { s.roles with decision := some .autoSwap } }) ∧
    (s.roles.arm ≠ some r → ¬ swap → t.roles.arm = s.roles.arm ∧ t.roles.decision ≠ some .autoSwap ∧
      t.roles.decision ≠ some .armedSwap) ∧
    (s.roles.arm ≠ some r → ¬ swap →
      let poor := lead.level = .poor
      let candidate := followCandidate false s
      let policy := s.mgmt.settings.follow
      (poor → policy = .advise → ∀ k id, candidate = some (k, id) →
        (s.roles.advised = true → t = s) ∧
        (s.roles.advised = false → t.roles = { s.roles with advised := true } ∧
          t.Noticed (.followCandidate k (s.link k).followedId id (s.link k).quality q))) ∧
      (poor → policy = .auto → candidate.isSome = true →
        t = { s with roles :=
          { s.roles with
            dwell := s.roles.dwell + 1
            decision := if s.mgmt.settings.dwell ≤ s.roles.dwell + 1 then some .follow else none } }) ∧
      (¬ poor ∨ policy = .off ∨ candidate = none →
        t = { s with roles :=
          { s.roles with dwell := 0, advised := if poor then s.roles.advised else false } }))

/-- R65: ARM and DISARM. -/
def Obligations.ArmRequests : Prop :=
  ∀ (s : State) (tag : Tag), s.quiescent →
    let c := s.cleared s.mgmt.cursor
    let shows := fun (arm : Option Fn) => [body16 (fnOr arm ++ fnOr s.merge.releasePoint)]
    let armed := fun (arm : Option Fn) => { c with roles := { s.roles with arm := arm } }
    (∀ n, s.Serves { tag := tag, op := .arm n } →
      let req : Request := { tag := tag, op := .arm n }
      (s.ann.level = .watch → exec (.arm tag n) s =
        .next (answer req (lastOf s .level) (shows s.roles.arm) c)) ∧
      (s.ann.level = .run → s.merge.releasePoint = none → exec (.arm tag n) s =
        .next (answer req (lastOf s .range) (shows s.roles.arm) c)) ∧
      (∀ rp, s.ann.level = .run → s.merge.releasePoint = some rp →
        (fnDist rp n = 0 ∨ 2048 ≤ fnDist rp n) → exec (.arm tag n) s =
        .next (answer req (lastOf s .range) (shows s.roles.arm) c)) ∧
      (∀ rp, s.ann.level = .run → s.merge.releasePoint = some rp → 1 ≤ fnDist rp n → fnDist rp n ≤ 2047 →
        exec (.arm tag n) s = .next (answer req (lastOf s .ok) (shows (some n)) (armed (some n))))) ∧
    (s.Serves { tag := tag, op := .disarm } →
      exec (.disarm tag) s = .next
        (answer { tag := tag, op := .disarm } (lastOf s .ok) (shows none) (armed none)))

/-! ### The lane store (spec 04) -/

/-- The page memory keeps its canonical form at every step. The form, and the blank cell that it leaves out, are
the model's choice (log 2). -/
def Obligations.MemoryStaysCanonical : Prop :=
  ∀ s t : State, cellsWf s.store.cells = true → step s = .next t → cellsWf t.store.cells = true

/-- R71, R72: a page is in one page list at most, and a route holds exactly the need of its bound lane in
FILLING and RUNNING and nothing in any other state. -/
def Obligations.PoolStaysShared : Prop :=
  ∀ s t : State, s.PoolShared → step s = .next t → t.PoolShared

/-- R72, R73, R74, R75: free and held pages number 384; the page need of a lane lies between 1 and 180; and
the turn of a STARVED route in an allocation pass gives it its whole need of the lowest free pages in
ascending order, or nothing. -/
def Obligations.PoolAllocation : Prop :=
  (∀ s : State, s.PoolShared → s.freePages.length + (s.routes.map fun r => r.pages.length).sum = 384) ∧
  (∀ g : Geometry, 1 ≤ g.size → g.size ≤ 720 → g.depth ∈ [1, 2, 4, 8, 16] →
    1 ≤ pageNeed g ∧ pageNeed g ≤ 180 ∧ 64 * (pageNeed g - 1) < g.depth * g.size ∧
    g.depth * g.size ≤ 64 * pageNeed g) ∧
  (∀ (asks : List Nat) (imm : Option Nat) (s : State) (n : Nat) (lane : Lane),
    n < s.routes.length → (s.route n).state = .starved → (s.route n).bound = some lane →
    let need := pageNeed lane.geometry
    let t := allocTurn asks imm s n
    s.freePages.Pairwise (· < ·) ∧
    (need ≤ s.freePages.length →
      t = s.modRoute n fun r =>
        { r with
          state := .filling, geometry := some lane.geometry, fill := 0
          pages := s.freePages.take need, tallies := List.replicate lane.geometry.depth 0 }) ∧
    (s.freePages.length < need →
      t.store.refusals = (if n ∈ asks then bump s.store.refusals else s.store.refusals) ∧
      (∀ m, m ≠ n → t.route m = s.route m) ∧
      (imm ≠ some n → (t.route n).state = .starved ∧ (t.route n).pages = (s.route n).pages ∧
        (t.route n).run = false) ∧
      (imm = some n → (t.route n).state = .vacant ∧ (t.route n).binding = none ∧ (t.route n).pages = [])))

/-- R81, R82, R84, R85: the D writes of releases L to L + D − 1 leave in slot L mod D the cells of logical
frame L, cell k from release L + (k mod D), and their erased count in its tally. -/
def Obligations.LogicalFrameGathers : Prop :=
  ∀ (g : Geometry) (pages : List Nat) (mem : List (Nat × Cell)) (tallies : List Nat) (first : Fn)
    (sent : Nat → List Cell),
    cellsWf mem = true → pages.Nodup → pages.length = pageNeed g → g.depth ∈ [1, 2, 4, 8, 16] →
    let d := g.depth
    let gathered := (List.range g.size).map fun k => (sent (k % d)).getD (g.start + k) blankCell
    let mem' := (List.range d).foldl
      (fun mem j => writeLane g pages (first + BitVec.ofNat 12 j) (sent j) mem) mem
    let tallies' := (List.range d).foldl
      (fun xs j => nextTallies g (first + BitVec.ofNat 12 j) (sent j) xs) tallies
    slotCells g pages mem' (first.toNat % d) = gathered ∧
    tallies'.getD (first.toNat % d) 0 = (gathered.filter Cell.erased).length

/-! ### Routes and stream units (spec 05) -/

/-- R84, R99 to R102: the unit that route n forms at a release. -/
def Obligations.UnitsFormed : Prop :=
  ∀ (f : Frame) (s : State) (formed : List Formed) (n : Nat) (g : Geometry),
    n < s.routes.length → (s.route n).pages ≠ [] → (s.route n).geometry = some g →
    let r := s.route n
    let y := formUnit f (s, formed) n
    let t := y.1
    let cells := writeLane g r.pages f.fn f.cells s.store.cells
    let logical := f.fn - BitVec.ofNat 12 (g.depth - 1)
    let slot := logical.toNat % g.depth
    let e := (nextTallies g f.fn f.cells r.tallies).getD slot 0
    t.store.cells = cells ∧ (∀ m, m ≠ n → t.route m = s.route m) ∧
    (g.depth ≤ r.fill + 1 →
      (t.route n).fill = g.depth ∧ (t.route n).state = .running ∧ (t.route n).run = true ∧
      ∃ u, y.2 = formed ++ [u] ∧ u.route = n ∧ u.item.number = f.fn ∧ u.item.logical = logical ∧
        u.item.erased = e ∧ u.item.runStart = !r.run ∧ u.item.sourceChanged = false ∧
        (n < 16 → u.item.source = 8) ∧
        (e = 0 → u.item.kind = .full) ∧ (0 < e → e ≤ r.damage → u.item.kind = .damaged) ∧
        (0 < e → r.damage < e → u.item.kind = .lost ∧ u.item.body = []) ∧
        (e = 0 ∨ e ≤ r.damage → u.item.body = slotCells g r.pages cells slot) ∧
        (t.route n).damaged = (if u.item.kind = .damaged then bump r.damaged else r.damaged) ∧
        (t.route n).lost = (if u.item.kind = .lost then bump r.lost else r.lost)) ∧
    (r.fill + 1 < g.depth → (t.route n).fill = r.fill + 1 ∧ (t.route n).state = r.state ∧
      (t.route n).run = r.run ∧
      ((r.state = .filling ∧ r.run = true) →
        (t.route n).gaps = bump r.gaps ∧
        ∃ u, y.2 = formed ++ [u] ∧ u.route = n ∧ u.item.number = f.fn ∧ u.item.logical = logical ∧
          u.item.kind = .gap ∧ u.item.erased = g.size ∧ u.item.body = []) ∧
      (¬ (r.state = .filling ∧ r.run = true) → y.2 = formed ∧ (t.route n).gaps = r.gaps))

/-- R104, R105, R129: an item enters the back of a queue; a full queue first loses its oldest item of the
kind that has not begun, with its overrun flag and counter. (That an item whose opener is on the line has begun is
the model's choice, log 13.) R105, R142: where a unit is placed, and that placing one clears the switch mark. -/
def Obligations.FullQueueDisplaces : Prop :=
  (∀ (s : State) (u : Formed),
    let t := placeUnit s u
    let counted := fun (s : State) => s.modRoute u.route fun r => { r with sent := bump r.sent }
    (u.form = .packet → t = s) ∧
    (u.form = .stream →
      (u.route < 16 → s.listening ≠ some u.route → t = (counted s).enqueue u.route (.ofUnit u.item)) ∧
      (16 ≤ u.route → s.listening = none → t = s) ∧
      (∀ m, s.listening = some m → (16 ≤ u.route ∨ u.route = m) →
        (s.ann.onAir ≠ some u.route ∨ (u.route = m ∧ (s.route m).held = true) → t = s) ∧
        (s.ann.onAir = some u.route → (16 ≤ u.route ∨ (s.route m).held = false) →
          t = (counted { s with ann := { s.ann with switchMark := false } }).enqueue m (.ofUnit
            { u.item with
              sourceChanged := s.ann.switchMark
              source := if u.route < 16 then 8
                else match (s.route u.route).binding with
                  | some b => b.cls
                  | none => 8 }))))) ∧
  ∀ (s : State) (n : Nat) (content : Content), n < s.routes.length → QueueFits (s.route n).queue →
    let r := s.route n
    let item : Item := { channel := r.channel.getD 0, started := 0, content := content }
    let limit := match content with | .ofUnit _ => 2 | .ofGroup _ => 4
    let t := s.enqueue n content
    (∀ m, m ≠ n → t.route m = s.route m) ∧
    ((itemsOf item.isUnit r.queue).length < limit →
      t.route n = { r with queue := r.queue ++ [item] }) ∧
    ((itemsOf item.isUnit r.queue).length = limit →
      ∃ xs y zs, r.queue = xs ++ y :: zs ∧ y.isUnit = item.isUnit ∧ y.started = 0 ∧
        (∀ x ∈ xs, x.isUnit = item.isUnit → 0 < x.started) ∧
        t.route n =
          { r with queue := xs ++ zs ++ [item], overrun := bump r.overrun, overrunFlag := true })

/-- R104, R129, R156, R160, R161: no queue ever grows past its size, and only a front item has begun. -/
def Obligations.QueuesStayFit : Prop :=
  ∀ s t : State, s.QueuesFit → step s = .next t → t.QueuesFit

/-- R113: the selection requests by phase. -/
def Obligations.SelectionSequence : Prop :=
  ∀ (s : State) (tag : Tag) (r : Byte),
    let x := s.mgmt.selection
    let answered := fun (op : RequestOp) (o : Outcome) (restart : Bool) (shown kept : Selection) =>
      (.next (answer { tag := tag, op := op }
        { outcome := o, sequenceReset := restart, pinSkip := false } [selectionCell shown 0 0]
        { s with mgmt := { s.mgmt with selection := kept } }) : Host.Outcome State Fault Refusal)
    (s.Serves { tag := tag, op := .markFrom r } →
      let started : Selection := { phase := .fromSet, first := some r.toNat, last := none, unmarked := [] }
      (16 ≤ r.toNat → exec (.markFrom tag r) s = answered (.markFrom r) .badIndex false x x) ∧
      (r.toNat ≤ 15 → x.phase = .idle →
        exec (.markFrom tag r) s = answered (.markFrom r) .ok false started started) ∧
      (r.toNat ≤ 15 → x.phase ≠ .idle →
        exec (.markFrom tag r) s = answered (.markFrom r) .ok true started started)) ∧
    (s.Serves { tag := tag, op := .markTo r } →
      (16 ≤ r.toNat → exec (.markTo tag r) s = answered (.markTo r) .badIndex false x x) ∧
      (∀ a, r.toNat ≤ 15 → x.phase = .fromSet → x.first = some a → a ≤ r.toNat →
        exec (.markTo tag r) s = answered (.markTo r) .ok false
          { x with phase := .toSet, last := some r.toNat } { x with phase := .toSet, last := some r.toNat }) ∧
      (∀ a, r.toNat ≤ 15 → x.phase = .fromSet → x.first = some a → r.toNat < a →
        exec (.markTo tag r) s = answered (.markTo r) .sequence false .idle .idle) ∧
      (r.toNat ≤ 15 → x.phase ≠ .fromSet →
        exec (.markTo tag r) s = answered (.markTo r) .sequence false .idle .idle)) ∧
    (s.Serves { tag := tag, op := .unmark r } →
      (16 ≤ r.toNat → exec (.unmark tag r) s = answered (.unmark r) .badIndex false x x) ∧
      (r.toNat ≤ 15 → x.phase ≠ .toSet →
        exec (.unmark tag r) s = answered (.unmark r) .sequence false .idle .idle) ∧
      (∀ a b, r.toNat ≤ 15 → x.phase = .toSet → x.first = some a → x.last = some b →
        (r.toNat < a ∨ b < r.toNat → exec (.unmark tag r) s = answered (.unmark r) .range false x x) ∧
        (a ≤ r.toNat → r.toNat ≤ b → r.toNat ∈ x.unmarked →
          exec (.unmark tag r) s = answered (.unmark r) .ok false x x) ∧
        (a ≤ r.toNat → r.toNat ≤ b → r.toNat ∉ x.unmarked → x.unmarked.length < 4 →
          exec (.unmark tag r) s = answered (.unmark r) .ok false
            { x with unmarked := x.unmarked ++ [r.toNat] } { x with unmarked := x.unmarked ++ [r.toNat] }) ∧
        (a ≤ r.toNat → r.toNat ≤ b → r.toNat ∉ x.unmarked → 4 ≤ x.unmarked.length →
          exec (.unmark tag r) s = answered (.unmark r) .sequence false .idle .idle))) ∧
    (x.phase ≠ .toSet →
      (r = 0 → s.Serves { tag := tag, op := .apply r } →
        exec (.applyRelease tag) s = answered (.apply r) .sequence false x .idle) ∧
      (r = 1 → s.Serves { tag := tag, op := .apply r } →
        exec (.applySuspend tag) s = answered (.apply r) .sequence false x .idle) ∧
      (r = 2 → s.Serves { tag := tag, op := .apply r } →
        exec (.applyEngage tag) s = answered (.apply r) .sequence false x .idle))

/-- R115: an APPLY taken in TO_SET: refused, held until it acts, or acting at once. An action that is none
may be served by any of the three rows (the model's choice, log 6). -/
def Obligations.ApplyTaken : Prop :=
  ∀ (s : State) (tag : Tag) (action : Byte) (c : Instr) (kind : ApplyKind),
    (c, kind) ∈ [(Instr.applyRelease tag, ApplyKind.release), (.applySuspend tag, .suspend),
      (.applyEngage tag, .engage)] →
    s.Serves { tag := tag, op := .apply action } → s.mgmt.selection.phase = .toSet →
    let x := s.mgmt.selection
    let refused := fun (o : Outcome) => exec c s = .next
      (answer { tag := tag, op := .apply action } { outcome := o, sequenceReset := false, pinSkip := false }
        [selectionCell x 0 0] { s with mgmt := { s.mgmt with selection := .idle } })
    let held := fun (due : Bool) => { s with mgmt := { s.mgmt with held := some kind, applyDue := due } }
    (3 ≤ action.toNat → refused .badValue) ∧
    (kind = .engage → action = 2 → s.ann.level = .watch → refused .level) ∧
    (applyOf action = some kind → (kind = .engage → s.ann.level = .run) →
      ((s.link s.leadLink).synced = true → exec c s = .next (held false)) ∧
      ((s.link s.leadLink).synced = false → exec c s = exec .applyAction (held true)))

/-- R115, R116: the held APPLY acts. Without one that is due, APPLY_ACTION is no event of the part (the
model's choice, log 5); that it acts by a command of its own, and what counts as begun in the queues it cuts, are
the model's choices too (logs 7 and 13). -/
def Obligations.ApplyActs : Prop :=
  ∀ (s : State) (req : Request) (rest : List Request) (kind : ApplyKind),
    (s.mgmt.applyDue = false → exec .applyAction s = .next s) ∧
    (s.routes.length = 18 → s.mgmt.applyDue = true → s.mgmt.held = some kind →
      s.mgmt.requests = req :: rest →
      let changed := (applyTargets kind s).length
      let skipped := pinnedSkipped kind s
      ∃ t : State, exec .applyAction s = .next t ∧
        t.mgmt.held = none ∧ t.mgmt.applyDue = false ∧ t.mgmt.selection = .idle ∧ t.mgmt.requests = rest ∧
        t.trunk.replies = s.trunk.replies ++
          [{ tag := req.tag, started := 0
             cells := [replyHead t req.op.code, selectionCell s.mgmt.selection changed skipped] }] ∧
        (∀ n, n ∈ applyTargets kind s ↔ s.Marked n ∧ (kind = .release → (s.route n).pin = false) ∧
          (kind = .suspend → (s.route n).reason ≠ some .request) ∧
          (kind = .engage → (s.route n).state = .suspended)) ∧
        t.mgmt.last = { outcome := .ok, sequenceReset := false, pinSkip := 0 < skipped } ∧
        (0 < skipped ↔ kind = .release ∧ ∃ n, s.Marked n ∧ (s.route n).pin = true) ∧
        (∀ n, s.Marked n →
          (kind = .release → (s.route n).pin = false → (t.route n).state = .vacant ∧
            (t.route n).program = 0 ∧ (t.route n).listening = false ∧ (t.route n).pages = [] ∧
            (t.route n).run = false ∧ (t.route n).queue = (s.route n).queue.filter fun i => 0 < i.started) ∧
          (kind = .suspend → (s.route n).reason ≠ some .request → (t.route n).state = .suspended ∧
            (t.route n).reason = some .request ∧ (t.route n).pages = [] ∧ (t.route n).run = false) ∧
          (kind = .engage → (s.route n).state = .suspended → (t.route n).reason = none ∧
            (t.route n).state ∈ [.pending, .starved, .filling])) ∧
        (∀ n < 16, ¬ s.Marked n → (t.route n).program = (s.route n).program ∧
          (t.route n).component = (s.route n).component ∧ (t.route n).channel = (s.route n).channel ∧
          (t.route n).pin = (s.route n).pin ∧ (t.route n).listening = (s.route n).listening))

/-- R106, R108 to R111: a write of a host route; in WATCH while no class wakes the part. (What counts as begun in
the queue it cuts, and which place a repeated address keeps, are the model's choices, logs 13 and 22.) -/
def Obligations.RouteWrite : Prop :=
  ∀ (s : State) (tag : Tag) (n : Fin 16) (f : RouteFields), s.quiescent → s.routes.length = 18 →
    s.Serves { tag := tag, op := .writeRoute n f } →
    let req : Request := { tag := tag, op := .writeRoute n f }
    let channel := if f.channel.toNat < 1 then 1 else if 30 < f.channel.toNat then 30 else f.channel.toNat
    let component := if 3 < f.component.toNat then 3 else f.component.toNat
    let damage := if 720 < f.damage.toNat then 720 else f.damage.toNat
    let taken := f.program ≠ 0 ∧ ∃ m < 16, m ≠ n.val ∧ (s.route m).state ≠ .vacant ∧
      (s.route m).channel = some channel
    let listens := f.listening = true ∧ f.program ≠ 0
    let r := s.route n
    (taken → exec (.writeRoute tag n f) s = .next
      (answer req (lastOf s .channelInUse) (routeEntry n r) (s.cleared { table := .route, index := n }))) ∧
    (¬ taken → ∃ t, exec (.writeRoute tag n f) s = .next t ∧
      t.mgmt.last = lastOf s .ok ∧ t.mgmt.cursor = { table := .route, index := n } ∧
      t.mgmt.selection = .idle ∧ t.mgmt.requests = s.mgmt.requests.drop 1 ∧
      t.trunk.replies.length = s.trunk.replies.length + 1 ∧
      t.linkA = s.linkA ∧ t.linkB = s.linkB ∧ t.merge = s.merge ∧ t.leadTracker = s.leadTracker ∧
      (t.route n).program = f.program ∧ (t.route n).component = component ∧
      (t.route n).channel = some channel ∧ (t.route n).damage = damage ∧
      (t.route n).addrs = addressList f ∧
      ((t.route n).listening = true ↔ listens) ∧
      ((t.route n).pin = true ↔ f.pin = true ∧ f.program ≠ 0) ∧
      (∀ m < 16, m ≠ n.val → (t.route m).program = (s.route m).program ∧
        (t.route m).channel = (s.route m).channel ∧ (t.route m).pin = (s.route m).pin ∧
        ((t.route m).listening = true ↔ (s.route m).listening = true ∧ ¬ listens)) ∧
      (f.program = 0 → (t.route n).state = .vacant ∧ (t.route n).pages = [] ∧ (t.route n).run = false) ∧
      (f.program ≠ 0 → r.state = .suspended → s.ann.level = .run → (t.route n).state = .suspended ∧
        (t.route n).reason = r.reason) ∧
      (f.program ≠ 0 → r.state ≠ .suspended → s.ann.level = .run → s.leadTracker.map = none →
        (r.program ≠ f.program ∨ r.component ≠ component ∨ r.channel ≠ some channel) →
        (t.route n).state = .pending ∧ (t.route n).pages = [] ∧ (t.route n).run = false) ∧
      (r.program = f.program → f.program ≠ 0 → r.component = component → r.channel = some channel →
        s.ann.level = .run → r.state ≠ .starved →
        (t.route n).state = r.state ∧ (t.route n).run = r.run ∧ (t.route n).queue = r.queue) ∧
      (f.program = 0 ∨ r.channel ≠ some channel →
        (t.route n).queue = r.queue.filter fun i => 0 < i.started) ∧
      (f.program ≠ 0 → s.ann.level = .watch → s.mgmt.settings.wake = 0 →
        (r.state ≠ .suspended → f.pin = false →
          (t.route n).state = .suspended ∧ (t.route n).reason = some .level ∧ (t.route n).pages = [] ∧
          (t.route n).run = false) ∧
        (r.state = .suspended → r.reason = some .level → f.pin = true →
          (t.route n).reason = none ∧ (t.route n).state ∈ [.pending, .starved, .filling]) ∧
        (r.state = .suspended → f.pin = false ∨ r.reason = some .request →
          (t.route n).state = .suspended ∧ (t.route n).reason = r.reason)))

/-- R97, R88, R127: a change of the lead map, route by route. -/
def Obligations.LeadMapReachesRoutes : Prop :=
  ∀ (s : State) (n : Nat), s.PoolShared → n < 18 →
    let r := s.route n
    let r' := (remapRoutes s).route n
    (r.state = .vacant ∨ r.state = .suspended → r' = r) ∧
    (r.state ≠ .vacant → r.state ≠ .suspended →
      (lookupLane s n = none → r'.state = .pending ∧ r'.bound = none ∧ r'.pages = [] ∧ r'.run = false) ∧
      (∀ lane, lookupLane s n = some lane → r.pages ≠ [] → r.geometry = some lane.geometry →
        r' = { r with bound := some lane, aborted := r'.aborted, lastAbort := r'.lastAbort }) ∧
      (∀ lane, lookupLane s n = some lane → (r.pages = [] ∨ r.geometry ≠ some lane.geometry) →
        r'.bound = some lane ∧
        ((r'.state = .filling ∧ r'.fill = 0 ∧ r'.pages.length = pageNeed lane.geometry ∧ r'.run = r.run) ∨
          (r'.state = .starved ∧ r'.pages = [] ∧ (r.state = .starved ∨ r'.run = false)))) ∧
      (∀ lane old, lookupLane s n = some lane → r.bound = some old → old.form = .packet →
        lane.form = .stream → (r.state = .filling ∨ r.state = .running) →
        ∀ i < 8, ∀ a, (remapRoutes s).packets.table.getD i none = some a → a.route ≠ n))

/-! ### Packet lanes and data groups (spec 06) -/

/-- R120, R121: the walk over the cells of a logical frame. R122, R124: a first packet of a group that is not
open, while a record is free; one of a group that is open, which is aborted for RESTART; one that finds the table
full, which aborts the oldest for EVICTED; and one with its last flag set. -/
def Obligations.FirstPacketOpens : Prop :=
  (∀ (s : State) (n : Nat) (u : StreamUnit) (addrs : List Nat),
    let parse := fun (cells : List Cell) (s : State) => walk n u addrs cells.length cells s
    parse [] s = s ∧
    ∀ c rest,
      let h := packetHead c.bytes
      let packet := (c :: rest).take h.cells
      let bytes := packet.flatMap Cell.bytes
      let size := 16 * h.cells
      let data := (bytes.drop 3).take h.useful
      let behind := (c :: rest).drop h.cells
      let dropped := (∃ x ∈ packet, x.erased = true) ∨ wordAt bytes (size - 2) ≠ crc16 (bytes.take (size - 2)) ∨
        size < h.useful + 5 ∨ h.address = 0 ∨ (addrs ≠ [] ∧ h.address ∉ addrs)
      (c.erased = true ∨ rest.length + 1 < h.cells → parse (c :: rest) s = s) ∧
      (c.erased = false → h.cells ≤ rest.length + 1 →
        (dropped → parse (c :: rest) s = parse behind s) ∧
        (¬ dropped → parse (c :: rest) s =
          parse behind (if h.first then openGroup n u h data s else continueGroup n u h data s)))) ∧
  (∀ (s : State) (n : Nat) (u : StreamUnit) (h : PacketHead) (data : List Byte) (i : Nat) (a : Assembly),
    i < 8 → s.packets.table.getD i none = some a →
    (findAssembly s n h.address = some i → findAssembly (s.afterAbort i n .restart) n h.address = none →
      openGroup n u h data s = openGroup n u h data (s.afterAbort i n .restart)) ∧
    (findAssembly s n h.address = none → 2 ≤ h.useful → 4 ≤ (wordAt data 0).toNat →
      (wordAt data 0).toNat ≤ 4096 → (∀ j < 8, s.packets.table.getD j none ≠ none) →
      s.packets.order.head? = some i →
      openGroup n u h data s = openGroup n u h data (s.afterAbort i a.route .evicted))) ∧
  (∀ (s : State) (n : Nat) (u : StreamUnit) (h : PacketHead) (data : List Byte) (i : Nat),
    findAssembly s n h.address = none → data.length = h.useful → h.last = true → 2 ≤ h.useful →
    4 ≤ (wordAt data 0).toNat → (wordAt data 0).toNat ≤ 4096 → blocksFor h.useful ≤ s.freeBlocks →
    s.packets.table.length = 8 → s.packets.table.getD i none = none → i ∉ s.packets.order → i < 8 →
    (∀ j < i, s.packets.table.getD j none ≠ none) →
    let declared := (wordAt data 0).toNat
    let good := wordAt data (declared - 2) = crc16 (data.take (declared - 2))
    let t := openGroup n u h data s
    (data.length ≠ declared → t = s.modRoute n fun r =>
      { r with aborted := bump r.aborted, lastAbort := some { reason := .length, fn := s.lastFn } }) ∧
    (data.length = declared →
      (¬ good → t = s.modRoute n fun r => { r with bad := bump r.bad }) ∧
      (good → (s.route n).listening = true → (s.route n).held = true → t = s) ∧
      (good → ¬ ((s.route n).listening = true ∧ (s.route n).held = true) →
        t = (s.modRoute n fun r => { r with delivered := bump r.delivered }).enqueue n
          (.ofGroup { address := h.address, number := u.number, runStart := u.runStart, bytes := data })))) ∧
  ∀ (s : State) (n : Nat) (u : StreamUnit) (h : PacketHead) (data : List Byte) (i : Nat),
    findAssembly s n h.address = none → data.length = h.useful →
    let declared := if h.useful ≤ 1 then 0 else (wordAt data 0).toNat
    (declared < 4 ∨ 4096 < declared → openGroup n u h data s =
      s.modRoute n fun r =>
        { r with
          aborted := bump r.aborted, lastAbort := some { reason := .tooLong, fn := s.lastFn } }) ∧
    (4 ≤ declared → declared ≤ 4096 → h.last = false →
      i < 8 → s.packets.table.getD i none = none → (∀ j < i, s.packets.table.getD j none ≠ none) →
      (blocksFor h.useful ≤ s.freeBlocks → openGroup n u h data s =
        { s with packets :=
          { table := s.packets.table.set i (some
              { route := n, address := h.address, continuity := (h.continuity + 1) % 4
                declared := declared, bytes := data, lastProgress := u.number })
            order := s.packets.order ++ [i] } }) ∧
      (s.freeBlocks < blocksFor h.useful → openGroup n u h data s =
        s.modRoute n fun r =>
          { r with
            aborted := bump r.aborted, lastAbort := some { reason := .noBlocks, fn := s.lastFn } }))

/-- R123, R124, R125: a continuation of the open group in record i: aborted, filed, or the end of its
group. R126: the timeout sweep of release r. -/
def Obligations.ContinuationFiles : Prop :=
  (∀ (s : State) (r : Fn),
    let t := timeoutSweep r s
    let late := fun (a : Assembly) => decide (s.mgmt.settings.assembly < fnDist a.lastProgress r)
    let gone := (List.range 8).filter fun i => (s.packets.table.getD i none).any late
    (∀ i < 8, t.packets.table.getD i none = (s.packets.table.getD i none).filter fun a => !late a) ∧
    t.packets.order = s.packets.order.filter (fun i => i ∉ gone) ∧
    (∀ n < s.routes.length,
      let k := (gone.filter fun i => (s.packets.table.getD i none).any fun a => a.route = n).length
      t.route n =
        { s.route n with
          aborted := bump^[k] (s.route n).aborted
          lastAbort := if k = 0 then (s.route n).lastAbort
            else some { reason := .timeout, fn := s.lastFn } }) ∧
    t = { s with packets := t.packets, routes := t.routes }) ∧
  ∀ (s : State) (n : Nat) (u : StreamUnit) (h : PacketHead) (data : List Byte) (i : Nat) (a : Assembly),
    i < 8 → findAssembly s n h.address = some i → s.packets.table.getD i none = some a → a.route = n →
    data.length = h.useful →
    let t := continueGroup n u h data s
    let total := a.bytes.length + h.useful
    let room := blocksFor total ≤ s.freeBlocks + blocksFor a.bytes.length
    let freed : Assembler :=
      { table := s.packets.table.set i none, order := s.packets.order.filter (· ≠ i) }
    let aborted := fun (reason : AbortReason) => { s with packets := freed }.modRoute n fun r =>
      { r with aborted := bump r.aborted, lastAbort := some { reason := reason, fn := s.lastFn } }
    (h.continuity ≠ a.continuity → t = aborted .continuity) ∧
    (h.continuity = a.continuity → a.declared < total → t = aborted .length) ∧
    (h.continuity = a.continuity → total ≤ a.declared → ¬ room → t = aborted .noBlocks) ∧
    (h.continuity = a.continuity → total ≤ a.declared → room →
      (h.last = false → t =
        { s with packets := { s.packets with table := s.packets.table.set i (some
          { a with
            continuity := (h.continuity + 1) % 4, bytes := a.bytes ++ data
            lastProgress := u.number }) } }) ∧
      (h.last = true → i < s.packets.table.length → total < a.declared → t = aborted .length) ∧
      (h.last = true → i < s.packets.table.length → total = a.declared →
        let bytes := a.bytes ++ data
        let good := wordAt bytes (total - 2) = crc16 (bytes.take (total - 2))
        (¬ good → t = { s with packets := freed }.modRoute n fun r => { r with bad := bump r.bad }) ∧
        (good → (s.route n).listening = true → (s.route n).held = true → t = { s with packets := freed }) ∧
        (good → ¬ ((s.route n).listening = true ∧ (s.route n).held = true) →
          t = ({ s with packets := freed }.modRoute n fun r => { r with delivered := bump r.delivered }).enqueue n
            (.ofGroup { address := a.address, number := u.number, runStart := u.runStart, bytes := bytes }))))

/-- R128: the blocks held by open assemblies and by groups queued or being sent never exceed the pool, so
free and held blocks number 512. -/
def Obligations.BlocksStayInPool : Prop :=
  (∀ s t : State, s.blocksFit → step s = .next t → t.blocksFit) ∧
  (∀ s : State, s.blocksFit → s.freeBlocks + (s.packets.blocks + s.queueBlocks) = 512)

/-! ### Announcements and the WATCH level (spec 07) -/

/-- R137, R108: the stack stands on the listening route's entry and rises in priority, and at most one route
carries the listening flag. R135: no two live entries have one key. -/
def Obligations.StackStaysRising : Prop :=
  (∀ s t : State, s.oneListener → s.StackRises → step s = .next t → t.oneListener ∧ t.StackRises) ∧
  (∀ s t : State, s.LiveKeysApart → step s = .next t → t.LiveKeysApart)

/-- R31: LIVE records are judged by the lead map that the release leaves. R135, R136: a LIVE record of release r,
and the sweep of release r. -/
def Obligations.LiveTable : Prop :=
  (∀ (s : State) (f : Frame),
    leadRecords f s = takeRecords .lead f (liveRecord (leadRecords f s).leadMap f.fn) s) ∧
  (∀ (after : Option MuxMap) (s : State) (r : Fn) (x : LiveRecord),
    let t := liveRecord after r s x
    let put := fun (i : Nat) (e : LiveEntry) =>
      { s with ann := { s.ann with live := s.ann.live.set i (some e) } }
    (x.cluster = 0 ∨ x.lane = 0 ∨ (x.code ≠ 1 ∧ x.code ≠ 2) → t = s) ∧
    (x.cluster ≠ 0 → x.lane ≠ 0 → x.code = 1 →
      (∀ i e, findLive s x.cluster x.cls = some (i, e) → e.lane = x.lane →
        t = put i { e with lastSeen := r }) ∧
      (∀ i e, findLive s x.cluster x.cls = some (i, e) → e.lane ≠ x.lane →
        t.ann.live = s.ann.live.set i (some { e with lastSeen := r, lane := x.lane, noted := .none }) ∧
        t.ann.evalDue = true ∧
        ((∃ m, after = some m ∧ (m.lane x.lane).isSome = true) →
          t.ann.stack = s.ann.stack.map fun b =>
            if b.cls = some x.cls ∧ b.cluster = x.cluster then { b with lane := some x.lane } else b) ∧
        ((∀ m, after = some m → m.lane x.lane = none) →
          ∀ b ∈ t.ann.stack.tail, ¬ (b.cls = some x.cls ∧ b.cluster = x.cluster))) ∧
      (∀ i, findLive s x.cluster x.cls = none → i < 16 → s.ann.live.length = 16 →
        s.ann.live.getD i none = none → (∀ j < i, s.ann.live.getD j none ≠ none) →
        t = (put i
          { cluster := x.cluster, cls := x.cls, lane := x.lane, lastSeen := r
            dismissed := false, quiet := false, noted := .none }).dueEval) ∧
      (findLive s x.cluster x.cls = none → (∀ i < 16, s.ann.live.getD i none ≠ none) → t = s)) ∧
    (x.cluster ≠ 0 → x.lane ≠ 0 → x.code = 2 →
      (findLive s x.cluster x.cls = none → t = s) ∧
      (∀ i e, findLive s x.cluster x.cls = some (i, e) →
        t.ann.live = s.ann.live.set i none ∧
        ∀ b ∈ t.ann.stack.tail, ¬ (b.cls = some e.cls ∧ b.cluster = e.cluster)))) ∧
  (∀ (s : State) (r : Fn) (i : Nat) (e : LiveEntry), s.ann.live.getD i none = some e →
    (liveSweep r true s).ann.live.getD i none = some { e with lastSeen := r } ∧
    (liveSweep r false s).ann.live.getD i none =
      (if s.mgmt.settings.liveRefresh < fnDist e.lastSeen r then none else some e))

/-- R140: the candidate is a live entry that meets every condition, and none of higher priority does; and what
comes of trying to push one. R141: how the announcement routes are matched to an announcement on a lane. R142,
R143: when the on-air source of a release changes, and what that does. (That the damage limit is taken at the
grant is the model's choice, log 11.) -/
def Obligations.CandidateIsHighest : Prop :=
  (∀ (s : State) (e : LiveEntry) (i : Nat), findLive s e.cluster e.cls = some (i, e) →
    let t := tryPush e s
    let matched := matchTo e.lane e.cls s
    let need := match s.lane e.lane with
      | some l => pageNeed l.geometry
      | none => 0
    let refused := fun (what : NotedRefusal) (b : NoticeBody) =>
      t.ann.stack = s.ann.stack ∧ t.ann.live = s.ann.live.set i (some { e with noted := what }) ∧
      (e.noted ≠ what → t.Noticed b)
    (4 ≤ s.ann.stack.length →
      refused .stackFull (.stackFull e.cluster e.cls e.lane) ∧ t.mgmt.sticky.stackFull = true) ∧
    (s.ann.stack.length < 4 → matched.carrierOf e.lane = none →
      refused .noRoom (.noRoom e.cluster e.cls e.lane need (refusedRoom e.lane e.cls s))) ∧
    (∀ n, s.ann.stack.length < 4 → matched.carrierOf e.lane = some n →
      t.ann.stack = s.ann.stack ++
        [{ cls := some e.cls, cluster := e.cluster, lane := some e.lane, start := s.merge.lastRelease.map Prod.fst }] ∧
      t.ann.live = s.ann.live.set i (some { e with noted := .none }) ∧
      t.Noticed (.announce .push (some e.cls) (some e.cluster) (some e.lane) (some n)
        (s.ann.stack.length + 1) none))) ∧
  (∀ (s : State) (lane cls : Nat), s.routes.length = 18 →
    let t := matchTo lane cls s
    let isBound := fun (n : Nat) => (s.route n).binding ≠ none
    (∀ n, s.carrierOf lane = some n →
      (t.route n).binding = some { lane := lane, cls := cls } ∧
      (t.ann.switchMark = true ↔ s.ann.switchMark = true ∨
        (s.ann.onAir = some n ∧ (s.route n).binding ≠ some { lane := lane, cls := cls })) ∧
      ∀ m ∈ [16, 17], m ≠ n →
        (isBound m → s.ann.onAir ≠ some m →
          (t.route m).state = .vacant ∧ (t.route m).binding = none ∧ (t.route m).pages = []) ∧
        (s.ann.onAir = some m → (t.route m).binding = (s.route m).binding)) ∧
    (∀ l, s.carrierOf lane = none → s.lane lane = some l →
      ∃ n ∈ [16, 17],
        ((isBound n ∧ s.ann.onAir ≠ some n) ∨
          (¬ isBound n ∧ (∀ m ∈ [16, 17], isBound m → s.ann.onAir = some m) ∧
            ∀ m ∈ [16, 17], m < n → isBound m)) ∧
        refusedRoom lane cls s = freeAtTurn n (askCarrier n l cls s) ∧
        (pageNeed l.geometry ≤ refusedRoom lane cls s →
          (t.route n).binding = some { lane := lane, cls := cls } ∧ (t.route n).state = .filling ∧
          (t.route n).pages.length = pageNeed l.geometry ∧ (t.route n).bound = some l ∧ (t.route n).run = false ∧
          ∀ m, s.listening = some m → (t.route n).damage = (s.route m).damage) ∧
        (refusedRoom lane cls s < pageNeed l.geometry →
          (t.route n).binding = none ∧ (t.route n).state = .vacant ∧ (t.route n).pages = []))) ∧
  (∀ (s : State) (formed : List Formed), s.routes.length = 18 →
    let t := decideOnAir formed s
    let switches := fun (e : StackEntry) (n : Nat) =>
      s.ann.stack.getLast? = some e ∧ e.cls ≠ none ∧ e.lane.bind s.carrierOf = some n ∧
      s.ann.onAir ≠ some n ∧ (s.route n).run = true ∧ ∃ x ∈ formed, x.route = n
    ((¬ ∃ e n, switches e n) → t = s) ∧
    (∀ e n, switches e n →
      t.ann = { s.ann with onAir := some n, switchMark := true, evalDue := t.ann.evalDue } ∧
      (∀ m, s.listening = some m → (t.route m).held = true) ∧
      (∀ k ∈ [16, 17], s.ann.onAir = some k →
        (t.route k).state = .vacant ∧ (t.route k).binding = none ∧ (t.route k).pages = []) ∧
      t.Noticed (.announce .onAir e.cls (some e.cluster) e.lane (some n) s.ann.stack.length none))) ∧
  ∀ (s : State) (bottom top : StackEntry), s.ann.stack.head? = some bottom →
    s.ann.stack.getLast? = some top → (∀ x ∈ s.ann.live, ∀ e, x = some e → e.cls < 8) →
    let fits := fun (e : LiveEntry) =>
      some e ∈ s.ann.live ∧ e.cluster = bottom.cluster ∧ bottom.cluster ≠ 0 ∧
      s.mgmt.settings.announce.getLsbD e.cls = true ∧ e.dismissed = false ∧
      (∃ l, s.lane e.lane = some l) ∧ e.cls < top.cls.getD 8
    (∀ e, candidate s = some e → fits e ∧ ∀ x, fits x → e.cls ≤ x.cls) ∧
    (candidate s = none → ∀ x, ¬ fits x)

/-- R147: CANCEL. R146: the return to the program. (The route that the REMOVE notice names is the model's choice,
log 11.) -/
def Obligations.CancelRequest : Prop :=
  (∀ (s : State) (m : Nat) (b : StackEntry), s.routes.length = 18 → s.listening = some m →
    s.ann.stack.head? = some b →
    let t := returnToProgram s
    t.ann = { s.ann with onAir := some m, switchMark := true, evalDue := t.ann.evalDue } ∧
    (t.route m).held = false ∧
    t.Noticed (.announce .onAir (some (b.cls.getD 8)) (some b.cluster) b.lane (some m) s.ann.stack.length none) ∧
    (∀ n ∈ [16, 17], (s.route n).binding ≠ none →
      (t.route n).state = .vacant ∧ (t.route n).binding = none ∧ (t.route n).pages = [])) ∧
  ∀ (s : State) (tag : Tag), s.quiescent → s.Serves { tag := tag, op := .cancel } →
    ((∀ e, s.ann.stack.getLast? = some e → e.cls = none) →
      exec (.cancel tag) s = .next
        (answer { tag := tag, op := .cancel } (lastOf s .nothingToCancel) [cancelCell s]
          (s.cleared s.mgmt.cursor))) ∧
    (∀ e c, s.StackRises → s.ann.level = .run → s.ann.stack.getLast? = some e → e.cls = some c →
      ∃ t, exec (.cancel tag) s = .next t ∧ t.mgmt.last = lastOf s .ok ∧
        t.ann.stack.take (s.ann.stack.length - 1) = s.ann.stack.dropLast ∧
        (∀ i x, findLive t e.cluster c = some (i, x) → x.dismissed = true) ∧
        t.Noticed (.announce .remove (some c) (some e.cluster) e.lane (e.lane.bind s.carrierOf)
          (s.ann.stack.length - 1) (some .cancelled)) ∧
        (s.LiveKeysApart → ∀ b ∈ t.ann.stack.tail, ¬ (b.cls = some c ∧ b.cluster = e.cluster)) ∧
        (∀ m b, s.ann.stack = [b, e] → s.listening = some m →
          t.ann.onAir = some m ∧ t.ann.switchMark = true ∧ (t.route m).held = false ∧
          t.Noticed (.announce .onAir (some 8) (some b.cluster) b.lane (some m) 1 none)) ∧
        t.linkA = s.linkA ∧ t.linkB = s.linkB ∧ t.merge = s.merge ∧ t.leadTracker = s.leadTracker)

/-- R150, R173, R112: LEVEL with code 1 or an unknown code. (That this row serves an unknown code, and that an
item has begun once its opener is on the line, are the model's choices, logs 6 and 13.) -/
def Obligations.LevelWatchRequest : Prop :=
  ∀ (s : State) (tag : Tag) (code : Byte), s.quiescent → s.oneLead →
    s.Serves { tag := tag, op := .level code } →
    let refusedOrKept := fun (o : Outcome) => exec (.levelWatch tag) s = .next
      (answer { tag := tag, op := .level code } (lastOf s o) [] (s.cleared s.mgmt.cursor))
    (2 ≤ code.toNat → refusedOrKept .badValue) ∧
    (code = 1 → s.ann.level = .watch → refusedOrKept .ok) ∧
    (code = 1 → s.ann.level = .run →
      ∃ t, exec (.levelWatch tag) s = .next t ∧ t.ann.level = .watch ∧ t.mgmt.last = lastOf s .ok ∧
        (t.link (otherLink s.leadLink)).role = .off ∧ t.roles.arm = none ∧
        ((s.link (otherLink s.leadLink)).role ≠ .off →
          (t.link (otherLink s.leadLink)).sync = .hunt ∧ t.roles.dwell = 0 ∧ t.roles.advised = false ∧
          t.Noticed (.role (t.link .a).role (t.link .b).role .level none
            ((s.merge.lastRelease.map Prod.snd).getD 0))) ∧
        t.link s.leadLink = s.link s.leadLink ∧ t.leadTracker = s.leadTracker ∧
        (∀ n < 16, (s.route n).state ≠ .vacant → (s.route n).pin = false →
          (s.route n).reason ≠ some .request → (t.route n).state = .suspended ∧
          (t.route n).reason = some .level ∧ (t.route n).pages = [] ∧ (t.route n).run = false ∧
          (t.route n).queue = (s.route n).queue.filter fun i => 0 < i.started) ∧
        (∀ n < 16, (s.route n).pin = true → (s.route n).state ≠ .starved →
          (t.route n).state = (s.route n).state ∧ (t.route n).run = (s.route n).run ∧
          (t.route n).pages = (s.route n).pages) ∧
        (∀ x ∈ t.ann.live, ∀ e, x = some e → e.quiet = true) ∧ t.ann.stack.length ≤ 1)

/-- R152, R173: LEVEL with code 0 or an unknown code, and the WAKE input: ignored in RUN, a wake in
WATCH. (That this row serves an unknown code is the model's choice, log 6.) -/
def Obligations.WakeCommands : Prop :=
  ∀ s : State,
    (s.ann.level = .run → exec .wakeInput s = .next s) ∧
    (s.ann.level = .watch → s.routes.length = 18 →
      ∃ t, exec .wakeInput s = .next t ∧ State.Woken .pin s t ∧ t.mgmt = { s.mgmt with sticky := t.mgmt.sticky }) ∧
    (∀ (tag : Tag) (code : Byte), s.quiescent → s.Serves { tag := tag, op := .level code } →
      let refusedOrKept := fun (o : Outcome) => exec (.levelRun tag) s = .next
        (answer { tag := tag, op := .level code } (lastOf s o) [] (s.cleared s.mgmt.cursor))
      (2 ≤ code.toNat → refusedOrKept .badValue) ∧
      (code = 0 → s.ann.level = .run → refusedOrKept .ok) ∧
      (code = 0 → s.ann.level = .watch → s.routes.length = 18 →
        ∃ t, exec (.levelRun tag) s = .next t ∧ State.Woken .request s t ∧ t.mgmt.last = lastOf s .ok))

/-! ### The trunk (spec 08) -/

/-- R155, R156, R163: what comes in on the receive line. -/
def Obligations.UpstreamCells : Prop :=
  ∀ (s : State) (cell : List Byte), cell.length = 20 →
    let lost : Host.Outcome State Fault Refusal := .next
      { s with mgmt := { s.mgmt with sticky := { s.mgmt.sticky with requestLost := true } } }
    exec .cellBrokenOff s = lost ∧
    (byteAt cell 3 ≠ crc8 (cell.take 3 ++ cell.drop 4) → exec (.upstreamArrival cell) s = lost) ∧
    ((byteAt cell 0).toNat / 8 ≠ 0 → exec (.upstreamArrival cell) s = lost) ∧
    (4 ≤ s.mgmt.requests.length → exec (.upstreamArrival cell) s = lost) ∧
    (byteAt cell 3 = crc8 (cell.take 3 ++ cell.drop 4) → (byteAt cell 0).toNat / 8 = 0 →
      s.mgmt.requests.length < 4 →
      exec (.upstreamArrival cell) s = .next
        { s with mgmt := { s.mgmt with requests := s.mgmt.requests ++
          [{ tag := BitVec.ofNat 8 ((wordAt cell 1).toNat / 64), op := requestOf (cell.drop 4) }] } })

/-- R157, R158, R162, R164, R179: the inputs, and the cell that starts at a cell start point: the RESET notice of
a power-on or pin reset first, unless HOLD has been asserted outside RESET meanwhile (the model's reading, log 17).
A CELL_START while a cell is on the line is no cell start point; it leaves the state as it is (the model's choice,
log 5). -/
def Obligations.CellStarts : Prop :=
  ∀ s : State,
    exec .holdAsserted s = .next
      { s with trunk := { s.trunk with hold := true, resetFirst := s.trunk.resetFirst && s.trunk.resetHeld } } ∧
    exec .holdDeasserted s = .next { s with trunk := { s.trunk with hold := false } } ∧
    exec .resetReleased s = .next
      { s with trunk := { s.trunk with resetHeld := false, resetFirst := s.trunk.resetFirst && !s.trunk.hold } } ∧
    let idle := s.trunk.line = none ∧ s.trunk.hold = false ∧ s.trunk.resetHeld = false
    (¬ idle → exec .cellStart s = .next s) ∧
    (idle →
      (∀ x rest, s.trunk.resetFirst = true → s.trunk.notices = x :: rest → exec .cellStart s = .next
        { s with trunk :=
          { s.trunk with
            resetFirst := false
            line := some
              { bytes := trunkCell 31 .notice x.number.toNat 16 x.bytes, origin := .notice } } }) ∧
      (∀ r rest, s.trunk.resetFirst = false ∨ s.trunk.notices = [] → s.trunk.replies = r :: rest →
        exec .cellStart s = .next
        { s with trunk :=
          { s.trunk with
            replies := { r with started := r.started + 1 } :: rest
            line := some
              { bytes := trunkCell 0 .reply r.tag.toNat 16 (r.cells.getD r.started []), origin := .reply } } }) ∧
      (∀ x rest, s.trunk.replies = [] → s.trunk.notices = x :: rest → exec .cellStart s = .next
        { s with trunk :=
          { s.trunk with
            resetFirst := false
            line := some
              { bytes := trunkCell 31 .notice x.number.toNat 16 x.bytes, origin := .notice } } }) ∧
      (s.trunk.replies = [] → s.trunk.notices = [] → nextRoute s = none →
        exec .cellStart s = .next s) ∧
      (∀ n i rest, s.trunk.replies = [] → s.trunk.notices = [] → nextRoute s = some n →
        (s.route n).queue = i :: rest → exec .cellStart s = .next
        { s.modRoute n fun r => { r with queue := { i with started := i.started + 1 } :: rest } with
          trunk :=
            { s.trunk with
              pointer := some n
              line := some { bytes := i.cell i.started, origin := .route n } } }))

/-- R159: the route whose turn it is: the first after the pointer, wrapping from 15 to 0, whose front item has
a cell to send that the channel interlock lets start. -/
def Obligations.RoundRobin : Prop :=
  ∀ (s : State) (n : Nat),
    let rank := fun (m : Nat) => match s.trunk.pointer with
      | none => m
      | some p => (m + 16 - (p + 1) % 16) % 16
    let ready := fun (m : Nat) => m < 16 ∧ ∃ i rest, (s.route m).queue = i :: rest ∧
      i.started < i.cellCount ∧
      (0 < i.started ∨ ∀ k < 16, k ≠ m → ∀ x ∈ (s.route k).queue, 0 < x.started → x.channel ≠ i.channel)
    (nextRoute s = some n ↔ ready n ∧ ∀ m, ready m → rank n ≤ rank m)

/-- R157: the end of a cell: the line falls idle, and an item leaves its queue with its last cell. A
CELL_FINISH with no cell on the line leaves the state as it is (the model's choice, log 5). -/
def Obligations.CellFinishes : Prop :=
  ∀ s : State,
    let idle := { s with trunk := { s.trunk with line := none } }
    (s.trunk.line = none → exec .cellFinish s = .next s) ∧
    (∀ bytes r rest, s.trunk.line = some { bytes := bytes, origin := .reply } → s.trunk.replies = r :: rest →
      exec .cellFinish s = .next
        { idle with trunk :=
          { idle.trunk with replies := if r.cells.length ≤ r.started then rest else r :: rest } }) ∧
    (∀ bytes, s.trunk.line = some { bytes := bytes, origin := .notice } →
      exec .cellFinish s = .next { idle with trunk := { idle.trunk with notices := s.trunk.notices.tail } }) ∧
    (∀ bytes n i rest, s.trunk.line = some { bytes := bytes, origin := .route n } →
      (s.route n).queue = i :: rest → exec .cellFinish s = .next
        (idle.modRoute n fun r => { r with queue := if i.started < i.cellCount then i :: rest else rest })) ∧
    (∀ bytes, s.trunk.line = some { bytes := bytes, origin := .nowhere } → exec .cellFinish s = .next idle)

/-! ### Management requests and status (spec 09) -/

/-- R177: STATUS shows the sticky flags that are set and clears them, and changes nothing else. -/
def Obligations.StatusRequest : Prop :=
  ∀ (s : State) (tag : Tag), s.Serves { tag := tag, op := .status } →
    exec (.status tag) s = .next
      { s with
        mgmt := { s.mgmt with requests := s.mgmt.requests.tail, last := .reset, sticky := .clear }
        trunk := { s.trunk with replies := s.trunk.replies ++
          [{ tag := tag, started := 0
             cells :=
              [body16 [1, 0, 0, currentFlags s, BitVec.ofNat 8 s.ann.stack.length, stickyByte s.mgmt.sticky],
                recordCell s.mgmt.record] }] } }

/-- R169, R170, R168, R107: READ and STEP. -/
def Obligations.ReadsAndSteps : Prop :=
  ∀ (s : State) (tag : Tag),
    (∀ table index : Byte, s.Serves { tag := tag, op := .read table index } →
      let req : Request := { tag := tag, op := .read table index }
      (table.toNat = 0 ∨ 11 ≤ table.toNat →
        exec (.read tag table index) s = .next (answer req (said .badTable) [] s)) ∧
      (∀ t, tableOf table = some t → t.size ≤ index.toNat →
        exec (.read tag table index) s = .next
          (answer req (said .badIndex) (List.replicate t.cells (body16 [0x80])) s)) ∧
      (∀ t, tableOf table = some t → index.toNat < t.size →
        exec (.read tag table index) s = .next (State.afterRead t index.toNat req s))) ∧
    (s.Serves { tag := tag, op := .step } →
      let c := s.mgmt.cursor
      exec (.step tag) s = .next
        (State.afterRead c.table ((c.index + 1) % c.table.size) { tag := tag, op := .step } s))

/-- R168, R114, R169: a WRITE of what is not writable, and an unknown request code. -/
def Obligations.RefusedRequests : Prop :=
  ∀ (s : State) (tag : Tag),
    (∀ table index : Byte, s.Serves { tag := tag, op := .write table index } →
      let req : Request := { tag := tag, op := .write table index }
      (table.toNat = 0 ∨ 11 ≤ table.toNat → exec (.write tag table index) s = .next
        (answer req (lastOf s .badTable) [] (s.cleared s.mgmt.cursor))) ∧
      (∀ t, tableOf table = some t → t.size ≤ index.toNat → exec (.write tag table index) s = .next
        (answer req (lastOf s .badIndex) (List.replicate t.cells (body16 [0x80]))
          (s.cleared s.mgmt.cursor))) ∧
      (∀ t, tableOf table = some t → index.toNat < t.size → exec (.write tag table index) s = .next
        (answer req (lastOf s .readOnly) (entryCells s t index.toNat)
          (s.cleared { table := t, index := index.toNat })))) ∧
    (∀ code : Byte, s.Serves { tag := tag, op := .unknown code } → exec (.unknownRequest tag code) s = .next
      (answer { tag := tag, op := .unknown code } (lastOf s .badRequest) [] (s.cleared s.mgmt.cursor)))

/-- R172, R62, R68: a WRITE of the SETTINGS entry. -/
def Obligations.SettingsWrite : Prop :=
  ∀ (s : State) (tag : Tag) (f : SettingsFields), s.quiescent →
    s.Serves { tag := tag, op := .writeSettings f } →
    let req : Request := { tag := tag, op := .writeSettings f }
    let c := s.cleared { table := .settings, index := 0 }
    let old := s.mgmt.settings
    let bad := 2 ≤ f.autoSwap.toNat ∨ f.follow = 3 ∨ f.warn.toNat ≤ f.drop.toNat
    let within := fun (lo hi x : Nat) => if x < lo then lo else if hi < x then hi else x
    let new : Settings :=
      { warn := f.warn.toNat, drop := f.drop.toNat
        hysteresis := within 1 63 f.hysteresis.toNat, window := within 0 3 f.window.toNat
        autoSwap := f.autoSwap = 1
        follow := if f.follow = 0 then .off else if f.follow = 1 then .advise else .auto
        dwell := within 1 255 f.dwell.toNat
        announce := f.announce ||| 1, wake := f.wake
        coast := within 8 1000 f.coast.toNat, assembly := within 2 1000 f.assembly.toNat
        liveRefresh := within 10 1000 f.liveRefresh.toNat }
    let roles := if old.follow ≠ new.follow ∨ old.dwell ≠ new.dwell
      then { s.roles with dwell := 0, advised := false } else s.roles
    (bad → exec (.writeSettings tag f) s =
      .next (answer req (lastOf s .badValue) [settingsEntry old] c)) ∧
    (¬ bad →
      (∃ t, exec (.writeSettings tag f) s = .next t ∧ t.mgmt.settings = new ∧
        t.mgmt.last = lastOf s .ok ∧ t.mgmt.requests = s.mgmt.requests.tail ∧
        t.mgmt.cursor = { table := .settings, index := 0 } ∧
        (new.window = 0 → old.window ≠ 0 → t.merge.waiting = [])) ∧
      (old.window = new.window → old.announce = new.announce → old.wake = new.wake →
        exec (.writeSettings tag f) s = .next
          (answer req (lastOf s .ok) [settingsEntry new]
            { c with mgmt := { c.mgmt with settings := new }, roles := roles })))

/-- R176, R172, R134, R150: only a reset or STATUS clears a sticky flag; only a write of the SETTINGS entry
or a power-on or pin reset changes a setting; and only LEVEL WATCH takes the part out of RUN. -/
def Obligations.OnlyTheseEvents : Prop :=
  ∀ (c : Instr) (s t : State), exec c s = .next t →
    ((∀ tag, c ≠ .status tag) → (∀ tag, c ≠ .reset tag) → c ≠ .powerOnReset → c ≠ .pinReset →
      Sticky.Within s.mgmt.sticky t.mgmt.sticky) ∧
    ((∀ tag f, c ≠ .writeSettings tag f) → c ≠ .powerOnReset → c ≠ .pinReset →
      t.mgmt.settings = s.mgmt.settings) ∧
    ((∀ tag, c ≠ .levelWatch tag) → s.ann.level = .run → t.ann.level = .run)
end

