-- ==== Sys2Proof/Laws/State.lean ====
section
/-! SUPPORT. What each update of the state leaves and sets: one lemma per field and update. -/

namespace Sys2Proof.Machine

variable (s : State)

/-! ### A link entry -/

@[simp] theorem State.setLink_clock (l : LinkId) (x : Link) : (s.setLink l x).clock = s.clock := by cases l <;> rfl
@[simp] theorem State.setLink_merge (l : LinkId) (x : Link) : (s.setLink l x).merge = s.merge := by cases l <;> rfl
@[simp] theorem State.setLink_roles (l : LinkId) (x : Link) : (s.setLink l x).roles = s.roles := by cases l <;> rfl
@[simp] theorem State.setLink_leadTracker (l : LinkId) (x : Link) : (s.setLink l x).leadTracker = s.leadTracker := by cases l <;> rfl
@[simp] theorem State.setLink_scoutTracker (l : LinkId) (x : Link) : (s.setLink l x).scoutTracker = s.scoutTracker := by cases l <;> rfl
@[simp] theorem State.setLink_store (l : LinkId) (x : Link) : (s.setLink l x).store = s.store := by cases l <;> rfl
@[simp] theorem State.setLink_routes (l : LinkId) (x : Link) : (s.setLink l x).routes = s.routes := by cases l <;> rfl
@[simp] theorem State.setLink_packets (l : LinkId) (x : Link) : (s.setLink l x).packets = s.packets := by cases l <;> rfl
@[simp] theorem State.setLink_ann (l : LinkId) (x : Link) : (s.setLink l x).ann = s.ann := by cases l <;> rfl
@[simp] theorem State.setLink_trunk (l : LinkId) (x : Link) : (s.setLink l x).trunk = s.trunk := by cases l <;> rfl
@[simp] theorem State.setLink_mgmt (l : LinkId) (x : Link) : (s.setLink l x).mgmt = s.mgmt := by cases l <;> rfl
@[simp] theorem State.setLink_freeIndex (l : LinkId) (x : Link) : (s.setLink l x).freeIndex = s.freeIndex := by cases l <;> rfl
@[simp] theorem State.setLink_pending (l : LinkId) (x : Link) : (s.setLink l x).pending = s.pending := by cases l <;> rfl

@[simp] theorem State.link_setLink (l : LinkId) (x : Link) : (s.setLink l x).link l = x := by cases l <;> rfl
@[simp] theorem State.link_setLink_other (l : LinkId) (x : Link) :
    (s.setLink l x).link (otherLink l) = s.link (otherLink l) := by cases l <;> rfl
@[simp] theorem otherLink_otherLink (l : LinkId) : otherLink (otherLink l) = l := by cases l <;> rfl

/-! ### A changed link entry -/

@[simp] theorem State.modLink_clock (l : LinkId) (f : Link → Link) : (s.modLink l f).clock = s.clock := by cases l <;> rfl
@[simp] theorem State.modLink_merge (l : LinkId) (f : Link → Link) : (s.modLink l f).merge = s.merge := by cases l <;> rfl
@[simp] theorem State.modLink_roles (l : LinkId) (f : Link → Link) : (s.modLink l f).roles = s.roles := by cases l <;> rfl
@[simp] theorem State.modLink_leadTracker (l : LinkId) (f : Link → Link) : (s.modLink l f).leadTracker = s.leadTracker := by cases l <;> rfl
@[simp] theorem State.modLink_scoutTracker (l : LinkId) (f : Link → Link) : (s.modLink l f).scoutTracker = s.scoutTracker := by cases l <;> rfl
@[simp] theorem State.modLink_store (l : LinkId) (f : Link → Link) : (s.modLink l f).store = s.store := by cases l <;> rfl
@[simp] theorem State.modLink_routes (l : LinkId) (f : Link → Link) : (s.modLink l f).routes = s.routes := by cases l <;> rfl
@[simp] theorem State.modLink_packets (l : LinkId) (f : Link → Link) : (s.modLink l f).packets = s.packets := by cases l <;> rfl
@[simp] theorem State.modLink_ann (l : LinkId) (f : Link → Link) : (s.modLink l f).ann = s.ann := by cases l <;> rfl
@[simp] theorem State.modLink_trunk (l : LinkId) (f : Link → Link) : (s.modLink l f).trunk = s.trunk := by cases l <;> rfl
@[simp] theorem State.modLink_mgmt (l : LinkId) (f : Link → Link) : (s.modLink l f).mgmt = s.mgmt := by cases l <;> rfl
@[simp] theorem State.modLink_freeIndex (l : LinkId) (f : Link → Link) : (s.modLink l f).freeIndex = s.freeIndex := by cases l <;> rfl
@[simp] theorem State.modLink_pending (l : LinkId) (f : Link → Link) : (s.modLink l f).pending = s.pending := by cases l <;> rfl

@[simp] theorem State.link_modLink (l : LinkId) (f : Link → Link) :
    (s.modLink l f).link l = f (s.link l) := by cases l <;> rfl
@[simp] theorem State.link_modLink_other (l : LinkId) (f : Link → Link) :
    (s.modLink l f).link (otherLink l) = s.link (otherLink l) := by cases l <;> rfl
@[simp] theorem State.modLink_modLink (l : LinkId) (f g : Link → Link) :
    (s.modLink l f).modLink l g = s.modLink l (g ∘ f) := by cases l <;> rfl

/-! ### A role -/

@[simp] theorem setRole_clock (l : LinkId) (r : Role) : (setRole l r s).clock = s.clock := by cases l <;> rfl
@[simp] theorem setRole_merge (l : LinkId) (r : Role) : (setRole l r s).merge = s.merge := by cases l <;> rfl
@[simp] theorem setRole_roles (l : LinkId) (r : Role) : (setRole l r s).roles = s.roles := by cases l <;> rfl
@[simp] theorem setRole_leadTracker (l : LinkId) (r : Role) : (setRole l r s).leadTracker = s.leadTracker := by cases l <;> rfl
@[simp] theorem setRole_scoutTracker (l : LinkId) (r : Role) : (setRole l r s).scoutTracker = s.scoutTracker := by cases l <;> rfl
@[simp] theorem setRole_store (l : LinkId) (r : Role) : (setRole l r s).store = s.store := by cases l <;> rfl
@[simp] theorem setRole_routes (l : LinkId) (r : Role) : (setRole l r s).routes = s.routes := by cases l <;> rfl
@[simp] theorem setRole_packets (l : LinkId) (r : Role) : (setRole l r s).packets = s.packets := by cases l <;> rfl
@[simp] theorem setRole_ann (l : LinkId) (r : Role) : (setRole l r s).ann = s.ann := by cases l <;> rfl
@[simp] theorem setRole_trunk (l : LinkId) (r : Role) : (setRole l r s).trunk = s.trunk := by cases l <;> rfl
@[simp] theorem setRole_mgmt (l : LinkId) (r : Role) : (setRole l r s).mgmt = s.mgmt := by cases l <;> rfl
@[simp] theorem setRole_freeIndex (l : LinkId) (r : Role) : (setRole l r s).freeIndex = s.freeIndex := by cases l <;> rfl
@[simp] theorem setRole_pending (l : LinkId) (r : Role) : (setRole l r s).pending = s.pending := by cases l <;> rfl

/-! ### A tracker -/

@[simp] theorem State.modTracker_clock (t : TrackerId) (f : Tracker → Tracker) : (s.modTracker t f).clock = s.clock := by cases t <;> rfl
@[simp] theorem State.modTracker_linkA (t : TrackerId) (f : Tracker → Tracker) : (s.modTracker t f).linkA = s.linkA := by cases t <;> rfl
@[simp] theorem State.modTracker_linkB (t : TrackerId) (f : Tracker → Tracker) : (s.modTracker t f).linkB = s.linkB := by cases t <;> rfl
@[simp] theorem State.modTracker_merge (t : TrackerId) (f : Tracker → Tracker) : (s.modTracker t f).merge = s.merge := by cases t <;> rfl
@[simp] theorem State.modTracker_roles (t : TrackerId) (f : Tracker → Tracker) : (s.modTracker t f).roles = s.roles := by cases t <;> rfl
@[simp] theorem State.modTracker_store (t : TrackerId) (f : Tracker → Tracker) : (s.modTracker t f).store = s.store := by cases t <;> rfl
@[simp] theorem State.modTracker_routes (t : TrackerId) (f : Tracker → Tracker) : (s.modTracker t f).routes = s.routes := by cases t <;> rfl
@[simp] theorem State.modTracker_packets (t : TrackerId) (f : Tracker → Tracker) : (s.modTracker t f).packets = s.packets := by cases t <;> rfl
@[simp] theorem State.modTracker_ann (t : TrackerId) (f : Tracker → Tracker) : (s.modTracker t f).ann = s.ann := by cases t <;> rfl
@[simp] theorem State.modTracker_trunk (t : TrackerId) (f : Tracker → Tracker) : (s.modTracker t f).trunk = s.trunk := by cases t <;> rfl
@[simp] theorem State.modTracker_mgmt (t : TrackerId) (f : Tracker → Tracker) : (s.modTracker t f).mgmt = s.mgmt := by cases t <;> rfl
@[simp] theorem State.modTracker_freeIndex (t : TrackerId) (f : Tracker → Tracker) : (s.modTracker t f).freeIndex = s.freeIndex := by cases t <;> rfl
@[simp] theorem State.modTracker_pending (t : TrackerId) (f : Tracker → Tracker) : (s.modTracker t f).pending = s.pending := by cases t <;> rfl

@[simp] theorem State.tracker_modTracker (t : TrackerId) (f : Tracker → Tracker) :
    (s.modTracker t f).tracker t = f (s.tracker t) := by cases t <;> rfl

/-! ### A route -/

@[simp] theorem State.modRoute_clock (n : Nat) (f : Route → Route) : (s.modRoute n f).clock = s.clock := rfl
@[simp] theorem State.modRoute_linkA (n : Nat) (f : Route → Route) : (s.modRoute n f).linkA = s.linkA := rfl
@[simp] theorem State.modRoute_linkB (n : Nat) (f : Route → Route) : (s.modRoute n f).linkB = s.linkB := rfl
@[simp] theorem State.modRoute_merge (n : Nat) (f : Route → Route) : (s.modRoute n f).merge = s.merge := rfl
@[simp] theorem State.modRoute_roles (n : Nat) (f : Route → Route) : (s.modRoute n f).roles = s.roles := rfl
@[simp] theorem State.modRoute_leadTracker (n : Nat) (f : Route → Route) : (s.modRoute n f).leadTracker = s.leadTracker := rfl
@[simp] theorem State.modRoute_scoutTracker (n : Nat) (f : Route → Route) : (s.modRoute n f).scoutTracker = s.scoutTracker := rfl
@[simp] theorem State.modRoute_store (n : Nat) (f : Route → Route) : (s.modRoute n f).store = s.store := rfl
@[simp] theorem State.modRoute_packets (n : Nat) (f : Route → Route) : (s.modRoute n f).packets = s.packets := rfl
@[simp] theorem State.modRoute_ann (n : Nat) (f : Route → Route) : (s.modRoute n f).ann = s.ann := rfl
@[simp] theorem State.modRoute_trunk (n : Nat) (f : Route → Route) : (s.modRoute n f).trunk = s.trunk := rfl
@[simp] theorem State.modRoute_mgmt (n : Nat) (f : Route → Route) : (s.modRoute n f).mgmt = s.mgmt := rfl
@[simp] theorem State.modRoute_freeIndex (n : Nat) (f : Route → Route) : (s.modRoute n f).freeIndex = s.freeIndex := rfl
@[simp] theorem State.modRoute_pending (n : Nat) (f : Route → Route) : (s.modRoute n f).pending = s.pending := rfl

@[simp] theorem State.modRoute_routes (n : Nat) (f : Route → Route) :
    (s.modRoute n f).routes = s.routes.modify n f := rfl
theorem State.route_modRoute_same (n : Nat) (f : Route → Route) (hn : n < s.routes.length) :
    (s.modRoute n f).route n = f (s.route n) := by
  simp [State.route, List.getD, hn]
@[simp] theorem State.route_modRoute_other {m n : Nat} (f : Route → Route) (hmn : m ≠ n) :
    (s.modRoute m f).route n = s.route n := by
  simp [State.route, List.getD, hmn]

/-! ### The sticky flags -/

@[simp] theorem State.modSticky_clock (f : Sticky → Sticky) : (s.modSticky f).clock = s.clock := rfl
@[simp] theorem State.modSticky_linkA (f : Sticky → Sticky) : (s.modSticky f).linkA = s.linkA := rfl
@[simp] theorem State.modSticky_linkB (f : Sticky → Sticky) : (s.modSticky f).linkB = s.linkB := rfl
@[simp] theorem State.modSticky_merge (f : Sticky → Sticky) : (s.modSticky f).merge = s.merge := rfl
@[simp] theorem State.modSticky_roles (f : Sticky → Sticky) : (s.modSticky f).roles = s.roles := rfl
@[simp] theorem State.modSticky_leadTracker (f : Sticky → Sticky) : (s.modSticky f).leadTracker = s.leadTracker := rfl
@[simp] theorem State.modSticky_scoutTracker (f : Sticky → Sticky) : (s.modSticky f).scoutTracker = s.scoutTracker := rfl
@[simp] theorem State.modSticky_store (f : Sticky → Sticky) : (s.modSticky f).store = s.store := rfl
@[simp] theorem State.modSticky_routes (f : Sticky → Sticky) : (s.modSticky f).routes = s.routes := rfl
@[simp] theorem State.modSticky_packets (f : Sticky → Sticky) : (s.modSticky f).packets = s.packets := rfl
@[simp] theorem State.modSticky_ann (f : Sticky → Sticky) : (s.modSticky f).ann = s.ann := rfl
@[simp] theorem State.modSticky_trunk (f : Sticky → Sticky) : (s.modSticky f).trunk = s.trunk := rfl
@[simp] theorem State.modSticky_freeIndex (f : Sticky → Sticky) : (s.modSticky f).freeIndex = s.freeIndex := rfl
@[simp] theorem State.modSticky_pending (f : Sticky → Sticky) : (s.modSticky f).pending = s.pending := rfl

@[simp] theorem State.modSticky_requests (f : Sticky → Sticky) : (s.modSticky f).mgmt.requests = s.mgmt.requests := rfl
@[simp] theorem State.modSticky_held (f : Sticky → Sticky) : (s.modSticky f).mgmt.held = s.mgmt.held := rfl
@[simp] theorem State.modSticky_applyDue (f : Sticky → Sticky) : (s.modSticky f).mgmt.applyDue = s.mgmt.applyDue := rfl
@[simp] theorem State.modSticky_settings (f : Sticky → Sticky) : (s.modSticky f).mgmt.settings = s.mgmt.settings := rfl
@[simp] theorem State.modSticky_cursor (f : Sticky → Sticky) : (s.modSticky f).mgmt.cursor = s.mgmt.cursor := rfl
@[simp] theorem State.modSticky_selection (f : Sticky → Sticky) : (s.modSticky f).mgmt.selection = s.mgmt.selection := rfl
@[simp] theorem State.modSticky_last (f : Sticky → Sticky) : (s.modSticky f).mgmt.last = s.mgmt.last := rfl
@[simp] theorem State.modSticky_record (f : Sticky → Sticky) : (s.modSticky f).mgmt.record = s.mgmt.record := rfl
@[simp] theorem State.modSticky_sticky (f : Sticky → Sticky) : (s.modSticky f).mgmt.sticky = f s.mgmt.sticky := rfl

/-! ### The announcement controller -/

@[simp] theorem State.modAnn_clock (f : Announcer → Announcer) : (s.modAnn f).clock = s.clock := rfl
@[simp] theorem State.modAnn_linkA (f : Announcer → Announcer) : (s.modAnn f).linkA = s.linkA := rfl
@[simp] theorem State.modAnn_linkB (f : Announcer → Announcer) : (s.modAnn f).linkB = s.linkB := rfl
@[simp] theorem State.modAnn_merge (f : Announcer → Announcer) : (s.modAnn f).merge = s.merge := rfl
@[simp] theorem State.modAnn_roles (f : Announcer → Announcer) : (s.modAnn f).roles = s.roles := rfl
@[simp] theorem State.modAnn_leadTracker (f : Announcer → Announcer) : (s.modAnn f).leadTracker = s.leadTracker := rfl
@[simp] theorem State.modAnn_scoutTracker (f : Announcer → Announcer) : (s.modAnn f).scoutTracker = s.scoutTracker := rfl
@[simp] theorem State.modAnn_store (f : Announcer → Announcer) : (s.modAnn f).store = s.store := rfl
@[simp] theorem State.modAnn_routes (f : Announcer → Announcer) : (s.modAnn f).routes = s.routes := rfl
@[simp] theorem State.modAnn_packets (f : Announcer → Announcer) : (s.modAnn f).packets = s.packets := rfl
@[simp] theorem State.modAnn_trunk (f : Announcer → Announcer) : (s.modAnn f).trunk = s.trunk := rfl
@[simp] theorem State.modAnn_mgmt (f : Announcer → Announcer) : (s.modAnn f).mgmt = s.mgmt := rfl
@[simp] theorem State.modAnn_freeIndex (f : Announcer → Announcer) : (s.modAnn f).freeIndex = s.freeIndex := rfl
@[simp] theorem State.modAnn_pending (f : Announcer → Announcer) : (s.modAnn f).pending = s.pending := rfl

@[simp] theorem State.modAnn_ann (f : Announcer → Announcer) : (s.modAnn f).ann = f s.ann := rfl

/-! ### An evaluation due -/

@[simp] theorem State.dueEval_clock : (s.dueEval).clock = s.clock := rfl
@[simp] theorem State.dueEval_linkA : (s.dueEval).linkA = s.linkA := rfl
@[simp] theorem State.dueEval_linkB : (s.dueEval).linkB = s.linkB := rfl
@[simp] theorem State.dueEval_merge : (s.dueEval).merge = s.merge := rfl
@[simp] theorem State.dueEval_roles : (s.dueEval).roles = s.roles := rfl
@[simp] theorem State.dueEval_leadTracker : (s.dueEval).leadTracker = s.leadTracker := rfl
@[simp] theorem State.dueEval_scoutTracker : (s.dueEval).scoutTracker = s.scoutTracker := rfl
@[simp] theorem State.dueEval_store : (s.dueEval).store = s.store := rfl
@[simp] theorem State.dueEval_routes : (s.dueEval).routes = s.routes := rfl
@[simp] theorem State.dueEval_packets : (s.dueEval).packets = s.packets := rfl
@[simp] theorem State.dueEval_trunk : (s.dueEval).trunk = s.trunk := rfl
@[simp] theorem State.dueEval_mgmt : (s.dueEval).mgmt = s.mgmt := rfl
@[simp] theorem State.dueEval_freeIndex : (s.dueEval).freeIndex = s.freeIndex := rfl
@[simp] theorem State.dueEval_pending : (s.dueEval).pending = s.pending := rfl

@[simp] theorem State.dueEval_live : s.dueEval.ann.live = s.ann.live := rfl
@[simp] theorem State.dueEval_stack : s.dueEval.ann.stack = s.ann.stack := rfl
@[simp] theorem State.dueEval_onAir : s.dueEval.ann.onAir = s.ann.onAir := rfl
@[simp] theorem State.dueEval_switchMark : s.dueEval.ann.switchMark = s.ann.switchMark := rfl
@[simp] theorem State.dueEval_level : s.dueEval.ann.level = s.ann.level := rfl
@[simp] theorem State.dueEval_evalDue : s.dueEval.ann.evalDue = true := rfl

/-! ### A notice raised (R161) -/

@[simp] theorem State.raiseAt_clock (fn : Option Fn) (b : NoticeBody) : (s.raiseAt fn b).clock = s.clock := by
  unfold State.raiseAt; dsimp only; split <;> rfl
@[simp] theorem State.raiseAt_linkA (fn : Option Fn) (b : NoticeBody) : (s.raiseAt fn b).linkA = s.linkA := by
  unfold State.raiseAt; dsimp only; split <;> rfl
@[simp] theorem State.raiseAt_linkB (fn : Option Fn) (b : NoticeBody) : (s.raiseAt fn b).linkB = s.linkB := by
  unfold State.raiseAt; dsimp only; split <;> rfl
@[simp] theorem State.raiseAt_merge (fn : Option Fn) (b : NoticeBody) : (s.raiseAt fn b).merge = s.merge := by
  unfold State.raiseAt; dsimp only; split <;> rfl
@[simp] theorem State.raiseAt_roles (fn : Option Fn) (b : NoticeBody) : (s.raiseAt fn b).roles = s.roles := by
  unfold State.raiseAt; dsimp only; split <;> rfl
@[simp] theorem State.raiseAt_leadTracker (fn : Option Fn) (b : NoticeBody) : (s.raiseAt fn b).leadTracker = s.leadTracker := by
  unfold State.raiseAt; dsimp only; split <;> rfl
@[simp] theorem State.raiseAt_scoutTracker (fn : Option Fn) (b : NoticeBody) : (s.raiseAt fn b).scoutTracker = s.scoutTracker := by
  unfold State.raiseAt; dsimp only; split <;> rfl
@[simp] theorem State.raiseAt_store (fn : Option Fn) (b : NoticeBody) : (s.raiseAt fn b).store = s.store := by
  unfold State.raiseAt; dsimp only; split <;> rfl
@[simp] theorem State.raiseAt_routes (fn : Option Fn) (b : NoticeBody) : (s.raiseAt fn b).routes = s.routes := by
  unfold State.raiseAt; dsimp only; split <;> rfl
@[simp] theorem State.raiseAt_packets (fn : Option Fn) (b : NoticeBody) : (s.raiseAt fn b).packets = s.packets := by
  unfold State.raiseAt; dsimp only; split <;> rfl
@[simp] theorem State.raiseAt_ann (fn : Option Fn) (b : NoticeBody) : (s.raiseAt fn b).ann = s.ann := by
  unfold State.raiseAt; dsimp only; split <;> rfl
@[simp] theorem State.raiseAt_freeIndex (fn : Option Fn) (b : NoticeBody) : (s.raiseAt fn b).freeIndex = s.freeIndex := by
  unfold State.raiseAt; dsimp only; split <;> rfl
@[simp] theorem State.raiseAt_pending (fn : Option Fn) (b : NoticeBody) : (s.raiseAt fn b).pending = s.pending := by
  unfold State.raiseAt; dsimp only; split <;> rfl
@[simp] theorem State.raiseAt_replies (fn : Option Fn) (b : NoticeBody) :
    (s.raiseAt fn b).trunk.replies = s.trunk.replies := by
  unfold State.raiseAt; dsimp only; split <;> rfl
@[simp] theorem State.raiseAt_pointer (fn : Option Fn) (b : NoticeBody) :
    (s.raiseAt fn b).trunk.pointer = s.trunk.pointer := by
  unfold State.raiseAt; dsimp only; split <;> rfl
@[simp] theorem State.raiseAt_line (fn : Option Fn) (b : NoticeBody) :
    (s.raiseAt fn b).trunk.line = s.trunk.line := by
  unfold State.raiseAt; dsimp only; split <;> rfl
@[simp] theorem State.raiseAt_hold (fn : Option Fn) (b : NoticeBody) :
    (s.raiseAt fn b).trunk.hold = s.trunk.hold := by
  unfold State.raiseAt; dsimp only; split <;> rfl
@[simp] theorem State.raiseAt_resetHeld (fn : Option Fn) (b : NoticeBody) :
    (s.raiseAt fn b).trunk.resetHeld = s.trunk.resetHeld := by
  unfold State.raiseAt; dsimp only; split <;> rfl
@[simp] theorem State.raiseAt_resetFirst (fn : Option Fn) (b : NoticeBody) :
    (s.raiseAt fn b).trunk.resetFirst = s.trunk.resetFirst := by
  unfold State.raiseAt; dsimp only; split <;> rfl
@[simp] theorem State.raiseAt_noticeNumber (fn : Option Fn) (b : NoticeBody) :
    (s.raiseAt fn b).trunk.noticeNumber = s.trunk.noticeNumber + 1 := by
  unfold State.raiseAt; dsimp only; split <;> rfl
@[simp] theorem State.raiseAt_requests (fn : Option Fn) (b : NoticeBody) :
    (s.raiseAt fn b).mgmt.requests = s.mgmt.requests := by
  unfold State.raiseAt; dsimp only; split <;> rfl
@[simp] theorem State.raiseAt_held (fn : Option Fn) (b : NoticeBody) :
    (s.raiseAt fn b).mgmt.held = s.mgmt.held := by
  unfold State.raiseAt; dsimp only; split <;> rfl
@[simp] theorem State.raiseAt_applyDue (fn : Option Fn) (b : NoticeBody) :
    (s.raiseAt fn b).mgmt.applyDue = s.mgmt.applyDue := by
  unfold State.raiseAt; dsimp only; split <;> rfl
@[simp] theorem State.raiseAt_settings (fn : Option Fn) (b : NoticeBody) :
    (s.raiseAt fn b).mgmt.settings = s.mgmt.settings := by
  unfold State.raiseAt; dsimp only; split <;> rfl
@[simp] theorem State.raiseAt_cursor (fn : Option Fn) (b : NoticeBody) :
    (s.raiseAt fn b).mgmt.cursor = s.mgmt.cursor := by
  unfold State.raiseAt; dsimp only; split <;> rfl
@[simp] theorem State.raiseAt_selection (fn : Option Fn) (b : NoticeBody) :
    (s.raiseAt fn b).mgmt.selection = s.mgmt.selection := by
  unfold State.raiseAt; dsimp only; split <;> rfl
@[simp] theorem State.raiseAt_last (fn : Option Fn) (b : NoticeBody) :
    (s.raiseAt fn b).mgmt.last = s.mgmt.last := by
  unfold State.raiseAt; dsimp only; split <;> rfl
@[simp] theorem State.raiseAt_record (fn : Option Fn) (b : NoticeBody) :
    (s.raiseAt fn b).mgmt.record = s.mgmt.record := by
  unfold State.raiseAt; dsimp only; split <;> rfl

/-! ### The cell that starts (R158, R164) -/

/-- The RESET notice that is owed first is the cell that starts. -/
theorem startCell_owed {x : Notice} {rest : List Notice} (h : s.trunk.resetFirst = true)
    (hn : s.trunk.notices = x :: rest) : startCell s = startNotice x s := by
  simp [startCell, owedFirst, h, hn]

/-- With none owed, the arbiter chooses. -/
theorem startCell_chosen (h : s.trunk.resetFirst = false ∨ s.trunk.notices = []) :
    startCell s = startChosen s := by
  obtain h | h := h <;> simp [startCell, owedFirst, h]

/-- A notice that starts leaves the queues, the pointer and the inputs. -/
theorem startNotice_frame (x : Notice) :
    startNotice x s = { s with trunk := { (startNotice x s).trunk with
      replies := s.trunk.replies, notices := s.trunk.notices, noticeNumber := s.trunk.noticeNumber
      pointer := s.trunk.pointer, hold := s.trunk.hold, resetHeld := s.trunk.resetHeld } } := rfl

/-! ### Parts of the management unit and of the role controller -/

@[simp] theorem setCursor_clock (t : Table) (i : Nat) : (setCursor t i s).clock = s.clock := rfl
@[simp] theorem setCursor_linkA (t : Table) (i : Nat) : (setCursor t i s).linkA = s.linkA := rfl
@[simp] theorem setCursor_linkB (t : Table) (i : Nat) : (setCursor t i s).linkB = s.linkB := rfl
@[simp] theorem setCursor_merge (t : Table) (i : Nat) : (setCursor t i s).merge = s.merge := rfl
@[simp] theorem setCursor_roles (t : Table) (i : Nat) : (setCursor t i s).roles = s.roles := rfl
@[simp] theorem setCursor_leadTracker (t : Table) (i : Nat) : (setCursor t i s).leadTracker = s.leadTracker := rfl
@[simp] theorem setCursor_scoutTracker (t : Table) (i : Nat) : (setCursor t i s).scoutTracker = s.scoutTracker := rfl
@[simp] theorem setCursor_store (t : Table) (i : Nat) : (setCursor t i s).store = s.store := rfl
@[simp] theorem setCursor_routes (t : Table) (i : Nat) : (setCursor t i s).routes = s.routes := rfl
@[simp] theorem setCursor_packets (t : Table) (i : Nat) : (setCursor t i s).packets = s.packets := rfl
@[simp] theorem setCursor_ann (t : Table) (i : Nat) : (setCursor t i s).ann = s.ann := rfl
@[simp] theorem setCursor_trunk (t : Table) (i : Nat) : (setCursor t i s).trunk = s.trunk := rfl
@[simp] theorem setCursor_freeIndex (t : Table) (i : Nat) : (setCursor t i s).freeIndex = s.freeIndex := rfl
@[simp] theorem setCursor_pending (t : Table) (i : Nat) : (setCursor t i s).pending = s.pending := rfl
@[simp] theorem setCursor_requests (t : Table) (i : Nat) : (setCursor t i s).mgmt.requests = s.mgmt.requests := rfl
@[simp] theorem setCursor_held (t : Table) (i : Nat) : (setCursor t i s).mgmt.held = s.mgmt.held := rfl
@[simp] theorem setCursor_applyDue (t : Table) (i : Nat) : (setCursor t i s).mgmt.applyDue = s.mgmt.applyDue := rfl
@[simp] theorem setCursor_settings (t : Table) (i : Nat) : (setCursor t i s).mgmt.settings = s.mgmt.settings := rfl
@[simp] theorem setCursor_selection (t : Table) (i : Nat) : (setCursor t i s).mgmt.selection = s.mgmt.selection := rfl
@[simp] theorem setCursor_sticky (t : Table) (i : Nat) : (setCursor t i s).mgmt.sticky = s.mgmt.sticky := rfl
@[simp] theorem setCursor_last (t : Table) (i : Nat) : (setCursor t i s).mgmt.last = s.mgmt.last := rfl
@[simp] theorem setCursor_record (t : Table) (i : Nat) : (setCursor t i s).mgmt.record = s.mgmt.record := rfl
@[simp] theorem setSelection_clock (x : Selection) : (setSelection x s).clock = s.clock := rfl
@[simp] theorem setSelection_linkA (x : Selection) : (setSelection x s).linkA = s.linkA := rfl
@[simp] theorem setSelection_linkB (x : Selection) : (setSelection x s).linkB = s.linkB := rfl
@[simp] theorem setSelection_merge (x : Selection) : (setSelection x s).merge = s.merge := rfl
@[simp] theorem setSelection_roles (x : Selection) : (setSelection x s).roles = s.roles := rfl
@[simp] theorem setSelection_leadTracker (x : Selection) : (setSelection x s).leadTracker = s.leadTracker := rfl
@[simp] theorem setSelection_scoutTracker (x : Selection) : (setSelection x s).scoutTracker = s.scoutTracker := rfl
@[simp] theorem setSelection_store (x : Selection) : (setSelection x s).store = s.store := rfl
@[simp] theorem setSelection_routes (x : Selection) : (setSelection x s).routes = s.routes := rfl
@[simp] theorem setSelection_packets (x : Selection) : (setSelection x s).packets = s.packets := rfl
@[simp] theorem setSelection_ann (x : Selection) : (setSelection x s).ann = s.ann := rfl
@[simp] theorem setSelection_trunk (x : Selection) : (setSelection x s).trunk = s.trunk := rfl
@[simp] theorem setSelection_freeIndex (x : Selection) : (setSelection x s).freeIndex = s.freeIndex := rfl
@[simp] theorem setSelection_pending (x : Selection) : (setSelection x s).pending = s.pending := rfl
@[simp] theorem setSelection_requests (x : Selection) : (setSelection x s).mgmt.requests = s.mgmt.requests := rfl
@[simp] theorem setSelection_held (x : Selection) : (setSelection x s).mgmt.held = s.mgmt.held := rfl
@[simp] theorem setSelection_applyDue (x : Selection) : (setSelection x s).mgmt.applyDue = s.mgmt.applyDue := rfl
@[simp] theorem setSelection_settings (x : Selection) : (setSelection x s).mgmt.settings = s.mgmt.settings := rfl
@[simp] theorem setSelection_cursor (x : Selection) : (setSelection x s).mgmt.cursor = s.mgmt.cursor := rfl
@[simp] theorem setSelection_sticky (x : Selection) : (setSelection x s).mgmt.sticky = s.mgmt.sticky := rfl
@[simp] theorem setSelection_last (x : Selection) : (setSelection x s).mgmt.last = s.mgmt.last := rfl
@[simp] theorem setSelection_record (x : Selection) : (setSelection x s).mgmt.record = s.mgmt.record := rfl
@[simp] theorem dropSelection_clock : (dropSelection s).clock = s.clock := rfl
@[simp] theorem dropSelection_linkA : (dropSelection s).linkA = s.linkA := rfl
@[simp] theorem dropSelection_linkB : (dropSelection s).linkB = s.linkB := rfl
@[simp] theorem dropSelection_merge : (dropSelection s).merge = s.merge := rfl
@[simp] theorem dropSelection_roles : (dropSelection s).roles = s.roles := rfl
@[simp] theorem dropSelection_leadTracker : (dropSelection s).leadTracker = s.leadTracker := rfl
@[simp] theorem dropSelection_scoutTracker : (dropSelection s).scoutTracker = s.scoutTracker := rfl
@[simp] theorem dropSelection_store : (dropSelection s).store = s.store := rfl
@[simp] theorem dropSelection_routes : (dropSelection s).routes = s.routes := rfl
@[simp] theorem dropSelection_packets : (dropSelection s).packets = s.packets := rfl
@[simp] theorem dropSelection_ann : (dropSelection s).ann = s.ann := rfl
@[simp] theorem dropSelection_trunk : (dropSelection s).trunk = s.trunk := rfl
@[simp] theorem dropSelection_freeIndex : (dropSelection s).freeIndex = s.freeIndex := rfl
@[simp] theorem dropSelection_pending : (dropSelection s).pending = s.pending := rfl
@[simp] theorem dropSelection_requests : (dropSelection s).mgmt.requests = s.mgmt.requests := rfl
@[simp] theorem dropSelection_held : (dropSelection s).mgmt.held = s.mgmt.held := rfl
@[simp] theorem dropSelection_applyDue : (dropSelection s).mgmt.applyDue = s.mgmt.applyDue := rfl
@[simp] theorem dropSelection_settings : (dropSelection s).mgmt.settings = s.mgmt.settings := rfl
@[simp] theorem dropSelection_cursor : (dropSelection s).mgmt.cursor = s.mgmt.cursor := rfl
@[simp] theorem dropSelection_sticky : (dropSelection s).mgmt.sticky = s.mgmt.sticky := rfl
@[simp] theorem dropSelection_last : (dropSelection s).mgmt.last = s.mgmt.last := rfl
@[simp] theorem dropSelection_record : (dropSelection s).mgmt.record = s.mgmt.record := rfl
@[simp] theorem setArm_clock (n : Option Fn) : (setArm n s).clock = s.clock := rfl
@[simp] theorem setArm_linkA (n : Option Fn) : (setArm n s).linkA = s.linkA := rfl
@[simp] theorem setArm_linkB (n : Option Fn) : (setArm n s).linkB = s.linkB := rfl
@[simp] theorem setArm_merge (n : Option Fn) : (setArm n s).merge = s.merge := rfl
@[simp] theorem setArm_leadTracker (n : Option Fn) : (setArm n s).leadTracker = s.leadTracker := rfl
@[simp] theorem setArm_scoutTracker (n : Option Fn) : (setArm n s).scoutTracker = s.scoutTracker := rfl
@[simp] theorem setArm_store (n : Option Fn) : (setArm n s).store = s.store := rfl
@[simp] theorem setArm_routes (n : Option Fn) : (setArm n s).routes = s.routes := rfl
@[simp] theorem setArm_packets (n : Option Fn) : (setArm n s).packets = s.packets := rfl
@[simp] theorem setArm_ann (n : Option Fn) : (setArm n s).ann = s.ann := rfl
@[simp] theorem setArm_trunk (n : Option Fn) : (setArm n s).trunk = s.trunk := rfl
@[simp] theorem setArm_mgmt (n : Option Fn) : (setArm n s).mgmt = s.mgmt := rfl
@[simp] theorem setArm_freeIndex (n : Option Fn) : (setArm n s).freeIndex = s.freeIndex := rfl
@[simp] theorem setArm_pending (n : Option Fn) : (setArm n s).pending = s.pending := rfl
@[simp] theorem setArm_dwell (n : Option Fn) : (setArm n s).roles.dwell = s.roles.dwell := rfl
@[simp] theorem setArm_advised (n : Option Fn) : (setArm n s).roles.advised = s.roles.advised := rfl
@[simp] theorem setArm_decision (n : Option Fn) : (setArm n s).roles.decision = s.roles.decision := rfl
@[simp] theorem setCursor_cursor (t : Table) (i : Nat) :
    (setCursor t i s).mgmt.cursor = { table := t, index := i } := rfl
@[simp] theorem setSelection_selection (x : Selection) : (setSelection x s).mgmt.selection = x := rfl
@[simp] theorem dropSelection_selection : (dropSelection s).mgmt.selection = .idle := rfl
@[simp] theorem setArm_arm (n : Option Fn) : (setArm n s).roles.arm = n := rfl

end Sys2Proof.Machine
end

