-- ==== Sys2Proof/Laws/Engine.lean ====
section
/-! SUPPORT. What the blocks behind the merge stage can do to the state, said once: a property of the
state that the few updates of `Engine` keep is kept by every operation of the packet assembler, the lane
store, the route engine, the announcement controller, the map trackers, and by the action of APPLY. -/

namespace Sys2Proof.Machine

/-! ### Route records -/

/-- What any operation of these blocks does to a route record. -/
structure RouteKept (r r' : Route) : Prop where
  pages : r'.pages = r.pages ∨ r'.pages = []
  need : r.HoldsNeed → r'.HoldsNeed
  queue : QueueFits r.queue → QueueFits r'.queue
  listening : r'.listening = r.listening ∨ r'.listening = false
  channel : r'.channel = r.channel

/-- What any operation of these blocks does to the route table. -/
def RoutesKept (rs rs' : List Route) : Prop :=
  rs'.length = rs.length ∧
    ∀ (n : Nat) (r r' : Route), rs[n]? = some r → rs'[n]? = some r' → RouteKept r r'

theorem RouteKept.refl (r : Route) : RouteKept r r := ⟨.inl rfl, id, id, .inl rfl, rfl⟩

theorem RoutesKept.map (f : Route → Route) (rs : List Route) (h : ∀ r ∈ rs, RouteKept r (f r)) :
    RoutesKept rs (rs.map f) := by
  refine ⟨by simp, fun n r r' hr hr' => ?_⟩
  simp only [List.getElem?_map, hr, Option.map_some, Option.some.injEq] at hr'
  exact hr' ▸ h r (List.mem_of_getElem? hr)

theorem RoutesKept.modify (f : Route → Route) (rs : List Route) (n : Nat)
    (h : ∀ r, rs[n]? = some r → RouteKept r (f r)) : RoutesKept rs (rs.modify n f) := by
  refine ⟨by simp, fun m r r' hr hr' => ?_⟩
  rw [List.getElem?_modify, hr] at hr'
  by_cases hmn : n = m
  · subst hmn
    simp only [if_true, Option.map_eq_map, Option.map_some, Option.some.injEq] at hr'
    exact hr' ▸ h r hr
  · simp only [hmn, if_false, Option.map_eq_map, Option.map_some, Option.some.injEq] at hr'
    exact hr' ▸ RouteKept.refl r

theorem State.route_of_getElem? {s : State} {n : Nat} {r : Route} (h : s.routes[n]? = some r) :
    s.route n = r := by simp [State.route, List.getD, h]

/-! ### Queues -/

theorem QueueFits.nil : QueueFits [] := ⟨by simp [itemsOf], by simp [itemsOf], by simp⟩

theorem QueueFits.filter_begun {q : List Item} (h : QueueFits q) : QueueFits (q.filter Item.begun) := by
  refine ⟨?_, ?_, fun i hi => ?_⟩
  · exact ((List.filter_sublist.filter _).length_le).trans h.units
  · exact ((List.filter_sublist.filter _).length_le).trans h.groups
  · cases q with
    | nil => simp at hi
    | cons a rest =>
      have hr : rest.filter Item.begun = [] := by
        rw [List.filter_eq_nil_iff]
        intro j hj
        simp [Item.begun, h.begun j hj]
      simp only [List.filter_cons, hr] at hi
      split at hi <;> simp at hi

theorem itemsOf_append (b : Bool) (p q : List Item) : itemsOf b (p ++ q) = itemsOf b p ++ itemsOf b q := by
  simp [itemsOf]

theorem itemsOf_eraseP_length (b : Bool) (q : List Item) (p : Item → Bool)
    (hp : ∀ i, p i → i.isUnit = b) (h : ∃ i ∈ q, p i) :
    (itemsOf b (q.eraseP p)).length = (itemsOf b q).length - 1 := by
  obtain ⟨a, l₁, l₂, hn, ha, rfl, he⟩ := List.exists_of_eraseP h.choose_spec.1 h.choose_spec.2
  rw [he]
  have : itemsOf b [a] = [a] := by simp [itemsOf, hp a ha]
  have hc : a :: l₂ = [a] ++ l₂ := rfl
  rw [hc, itemsOf_append, itemsOf_append, itemsOf_append, this]
  simp

theorem tail_sublist_of_sublist {α : Type} {p q : List α} (h : List.Sublist p q) :
    List.Sublist p.tail q.tail := by
  cases h with
  | slnil => exact .slnil
  | cons a h => exact (List.tail_sublist _).trans h
  | cons_cons a h => exact h

theorem QueueFits.displace {q : List Item} (b : Bool) (h : QueueFits q) :
    QueueFits (displace b q).1 ∧ (itemsOf b (displace b q).1).length < kindLimit b := by
  unfold Machine.displace
  split
  · rename_i hfull
    have hsub : List.Sublist (q.eraseP fun i => i.isUnit = b && !i.begun) q := List.eraseP_sublist
    refine ⟨⟨(hsub.filter _).length_le.trans h.units, (hsub.filter _).length_le.trans h.groups,
      fun i hi => h.begun i ((tail_sublist_of_sublist hsub).subset hi)⟩, ?_⟩
    have hex : ∃ i ∈ q, (decide (i.isUnit = b) && !i.begun) = true := by
      by_contra hno
      push Not at hno
      cases q with
      | nil => simp [kindLimit] at hfull; cases b <;> simp at hfull
      | cons a rest =>
        have : itemsOf b rest = [] := by
          simp only [itemsOf, List.filter_eq_nil_iff]
          intro j hj hjb
          exact hno j (.tail _ hj) (by simp [Item.begun, h.begun j hj] at hjb ⊢; exact hjb)
        have hl : (itemsOf b (a :: rest)).length ≤ 1 := by
          have hc : a :: rest = [a] ++ rest := rfl
          rw [hc, itemsOf_append, this]
          simp only [itemsOf, List.append_nil]
          exact List.length_filter_le _ _
        have : 2 ≤ kindLimit b := by cases b <;> simp [kindLimit]
        simp only [itemsOf] at hl
        omega
    have := itemsOf_eraseP_length b q (fun i => decide (i.isUnit = b) && !i.begun)
      (fun i hi => by simp only [Bool.and_eq_true, decide_eq_true_eq] at hi; exact hi.1) hex
    simp only [this]
    have hb : (itemsOf b q).length ≤ kindLimit b := by
      cases b
      · exact h.groups
      · exact h.units
    have : 2 ≤ kindLimit b := by cases b <;> simp [kindLimit]
    omega
  · rename_i hfull
    exact ⟨h, by simpa [itemsOf] using hfull⟩

theorem QueueFits.append {q : List Item} (i : Item) (h : QueueFits q) (hi : i.started = 0)
    (hl : (itemsOf i.isUnit q).length < kindLimit i.isUnit) : QueueFits (q ++ [i]) := by
  have hone : ∀ b, (itemsOf b [i]).length = if i.isUnit = b then 1 else 0 := by
    intro b
    by_cases hb : i.isUnit = b <;> simp [itemsOf, hb]
  refine ⟨?_, ?_, fun j hj => ?_⟩
  · rw [itemsOf_append, List.length_append, hone]
    have := h.units
    split <;> rename_i hu
    · rw [hu] at hl; simp [kindLimit] at hl; omega
    · omega
  · rw [itemsOf_append, List.length_append, hone]
    have := h.groups
    split <;> rename_i hu
    · rw [hu] at hl; simp [kindLimit] at hl; omega
    · omega
  · cases q with
    | nil => simp at hj
    | cons a rest =>
      simp only [List.cons_append, List.tail_cons, List.mem_append, List.mem_singleton] at hj
      rcases hj with hj | rfl
      · exact h.begun j hj
      · exact hi

/-! ### The updates -/

/-- The updates of which every operation of these blocks is made. -/
structure Engine (P : State → Prop) : Prop where
  routes : ∀ s rs, P s → RoutesKept s.routes rs → P { s with routes := rs }
  grant : ∀ s n lane, P s → (s.route n).state = .starved → (s.route n).bound = some lane →
    pageNeed lane.geometry ≤ s.freePages.length →
    P (s.modRoute n (Route.grant (s.freePages.take (pageNeed lane.geometry)) lane.geometry))
  refusal : ∀ s k, P s → P { s with store := { s.store with refusals := k } }
  write : ∀ s g pages r cells, P s →
    P { s with store := { s.store with cells := writeLane g pages r cells s.store.cells } }
  packets : ∀ s x, P s → P { s with packets := x }
  ann : ∀ s a, P s → (a.level = s.ann.level ∨ a.level = .run) → P { s with ann := a }
  tracker : ∀ s t f, P s → P (s.modTracker t f)
  sticky : ∀ s f, P s → (∀ k, Sticky.Within k (f k)) → P (s.modSticky f)
  raise : ∀ s fn b, P s → P (s.raiseAt fn b)

theorem foldl_keeps {α β : Type} {P : β → Prop} {f : β → α → β} (hf : ∀ b a, P b → P (f b a))
    (l : List α) (b : β) (hb : P b) : P (l.foldl f b) := by
  induction l generalizing b with
  | nil => exact hb
  | cons a rest ih => exact ih _ (hf b a hb)

namespace Engine

variable {P : State → Prop} (h : Engine P) {s : State}
include h

theorem modRoute (n : Nat) (f : Route → Route) (hs : P s)
    (hk : ∀ r, s.routes[n]? = some r → RouteKept r (f r)) : P (s.modRoute n f) :=
  h.routes s _ hs (.modify f _ n hk)

theorem modAnn (f : Announcer → Announcer) (hs : P s)
    (hl : (f s.ann).level = s.ann.level ∨ (f s.ann).level = .run) : P (s.modAnn f) :=
  h.ann s _ hs hl

theorem dueEval (hs : P s) : P s.dueEval := h.modAnn _ hs (.inl rfl)

theorem raiseNow (b : NoticeBody) (hs : P s) : P (s.raise b) := h.raise s _ b hs

/-! ### Packet assembler -/

theorem enqueue (n : Nat) (c : Content) (hs : P s) : P (s.enqueue n c) := by
  refine h.modRoute n _ hs fun r _ => ⟨.inl rfl, id, fun hq => ?_, .inl rfl, rfl⟩
  have hd := hq.displace (Item.isUnit { channel := r.channel.getD 0, started := 0, content := c })
  exact hd.1.append _ rfl hd.2

theorem countAbort (n : Nat) (why : AbortReason) (hs : P s) : P (countAbort n why s) :=
  h.modRoute n _ hs fun _ _ => ⟨.inl rfl, id, id, .inl rfl, rfl⟩

theorem freeRecord (i : Nat) (hs : P s) : P (freeRecord i s) := h.packets s _ hs

theorem abortRecord (i : Nat) (why : AbortReason) (hs : P s) : P (abortRecord i why s) := by
  unfold Machine.abortRecord
  split
  · exact hs
  · exact h.countAbort _ _ (h.freeRecord i hs)

theorem abortWhere (p : Assembly → Bool) (why : AbortReason) (hs : P s) : P (abortWhere p why s) :=
  foldl_keeps (fun b i hb => by
    split
    · exact h.abortRecord i why hb
    · exact hb) _ s hs

theorem abortRoute (n : Nat) (why : AbortReason) (hs : P s) : P (abortRoute n why s) :=
  h.abortWhere _ why hs

theorem placeGroup (n : Nat) (g : Group) (hs : P s) : P (placeGroup n g s) := by
  unfold Machine.placeGroup
  split
  · exact hs
  · exact h.enqueue n _ (h.modRoute n _ hs fun _ _ => ⟨.inl rfl, id, id, .inl rfl, rfl⟩)

theorem finishGroup (i : Nat) (u : StreamUnit) (hs : P s) : P (finishGroup i u s) := by
  unfold Machine.finishGroup
  split
  · exact hs
  · split
    · exact h.abortRecord i _ hs
    · split
      · exact h.placeGroup _ _ (h.freeRecord i hs)
      · exact h.modRoute _ _ (h.freeRecord i hs) fun _ _ => ⟨.inl rfl, id, id, .inl rfl, rfl⟩

theorem setRecord (i : Nat) (a : Assembly) (hs : P s) : P (setRecord i a s) := h.packets s _ hs

theorem openRecord (n : Nat) (u : StreamUnit) (x : PacketHead) (data : List Byte) (d : Nat) (hs : P s) :
    P (openRecord n u x data d s) := by
  unfold Machine.openRecord
  extract_lets isFree t i b _ c
  have ht : P t := by
    unfold t
    split
    · exact hs
    · exact h.abortRecord _ _ hs
  have hc : P c := h.packets _ _ (h.setRecord _ _ ht)
  clear_value c t
  split
  · exact h.countAbort _ _ ht
  split
  · exact h.finishGroup _ u hc
  · exact hc

theorem openGroup (n : Nat) (u : StreamUnit) (x : PacketHead) (data : List Byte) (hs : P s) :
    P (openGroup n u x data s) := by
  unfold Machine.openGroup
  extract_lets t d
  have ht : P t := by
    unfold t
    split
    · exact h.abortRecord _ _ hs
    · exact hs
  clear_value t d
  split
  · exact h.countAbort _ _ ht
  · exact h.openRecord n u x data _ ht

theorem continueGroup (n : Nat) (u : StreamUnit) (x : PacketHead) (data : List Byte) (hs : P s) :
    P (continueGroup n u x data s) := by
  unfold Machine.continueGroup
  dsimp only
  split
  · exact hs
  split
  · exact hs
  split
  · exact h.abortRecord _ _ hs
  split
  · exact h.abortRecord _ _ hs
  split
  · exact h.abortRecord _ _ hs
  split
  · exact h.finishGroup _ u (h.setRecord _ _ hs)
  · exact h.setRecord _ _ hs

theorem usePacket (n : Nat) (u : StreamUnit) (as : List Nat) (x : PacketHead) (data : List Byte)
    (hs : P s) : P (usePacket n u as x data s) := by
  unfold Machine.usePacket
  split
  · exact hs
  split
  · exact h.openGroup n u x data hs
  · exact h.continueGroup n u x data hs

theorem takePacket (n : Nat) (u : StreamUnit) (as : List Nat) (x : PacketHead) (cells : List Cell)
    (hs : P s) : P (takePacket n u as x cells s) := by
  unfold Machine.takePacket
  dsimp only
  split
  · exact hs
  · exact h.usePacket n u as x _ hs

theorem walk (n : Nat) (u : StreamUnit) (as : List Nat) (fuel : Nat) (cells : List Cell) (hs : P s) :
    P (walk n u as fuel cells s) := by
  induction fuel generalizing cells s with
  | zero => exact hs
  | succ k ih =>
    cases cells with
    | nil => exact hs
    | cons c rest =>
      unfold Machine.walk
      dsimp only
      split
      · exact hs
      · exact ih _ (h.takePacket n u as _ _ hs)

theorem assemble (n : Nat) (u : StreamUnit) (hs : P s) : P (assemble n u s) := by
  have hp : P (assemble.parse n u s) := h.walk n u _ _ _ (h.abortWhere _ _ hs)
  unfold Machine.assemble
  split
  · exact h.abortRoute n _ hs
  · exact h.abortRoute n _ hs
  · exact hp
  · exact hp

theorem timeoutSweep (r : Fn) (hs : P s) : P (timeoutSweep r s) := h.abortWhere _ _ hs

/-! ### Lane store -/

theorem endRun (n : Nat) (hs : P s) : P (endRun n s) :=
  h.abortRoute n _ (h.modRoute n _ hs fun _ _ => ⟨.inl rfl, id, id, .inl rfl, rfl⟩)

end Engine

theorem Route.needNothing {r : Route} (h1 : r.pages = []) (h2 : r.state ≠ .filling) (h3 : r.state ≠ .running) :
    r.HoldsNeed := by simp [Route.HoldsNeed, h1, h2, h3]

/-- A route that loses its pages with its state. -/
theorem RouteKept.dropped {r r' : Route} (hp : r'.pages = []) (h2 : r'.state ≠ .filling)
    (h3 : r'.state ≠ .running) (hq : QueueFits r.queue → QueueFits r'.queue)
    (hl : r'.listening = r.listening ∨ r'.listening = false) (hc : r'.channel = r.channel) :
    RouteKept r r' :=
  ⟨.inr hp, fun _ => r'.needNothing hp h2 h3, hq, hl, hc⟩

/-- A route that keeps pages, geometry and binding, and stays in FILLING and RUNNING or out of them. -/
theorem RouteKept.same {r r' : Route} (hp : r'.pages = r.pages) (hb : r'.bound = r.bound)
    (hg : r'.geometry = r.geometry)
    (hs : (r'.state = .filling ∨ r'.state = .running) ↔ (r.state = .filling ∨ r.state = .running))
    (hq : r'.queue = r.queue) (hl : r'.listening = r.listening) (hc : r'.channel = r.channel) :
    RouteKept r r' := by
  refine ⟨.inl hp, fun h => ?_, fun h => hq ▸ h, .inl hl, hc⟩
  unfold Route.HoldsNeed at h ⊢
  by_cases hx : r.state = .filling ∨ r.state = .running
  · rw [if_pos hx] at h
    rw [if_pos (hs.mpr hx), hb, hg, hp]
    exact h
  · rw [if_neg hx] at h
    rw [if_neg (fun hy => hx (hs.mp hy)), hp]
    exact h

namespace Engine

variable {P : State → Prop} (h : Engine P) {s : State}
include h

theorem allocTurn (asks : List Nat) (imm : Option Nat) (n : Nat) (hs : P s) :
    P (allocTurn asks imm s n) := by
  unfold Machine.allocTurn
  split
  · rename_i lane hst hb
    dsimp only
    split
    · exact h.grant s n lane hs hst hb ‹_›
    · have hr : P (if n ∈ asks then
          { s with store := { s.store with refusals := bump s.store.refusals } } else s) := by
        split
        · exact h.refusal s _ hs
        · exact hs
      split
      · exact h.modRoute n _ hr fun _ _ => .dropped rfl (by simp [Route.unbind]) (by simp [Route.unbind]) id
          (.inl rfl) rfl
      · exact h.endRun n hr
  · exact hs

theorem allocPass (asks : List Nat) (imm : Option Nat) (hs : P s) : P (allocPass asks imm s) :=
  foldl_keeps (fun _ n hb => h.allocTurn asks imm n hb) _ s hs

theorem closeStep (before : State) (asks : List Nat) (imm : Option Nat) (hs : P s) :
    P (closeStep before asks imm s) := by
  unfold Machine.closeStep
  extract_lets returned t
  have ht : P t := by
    unfold t
    split
    · exact h.allocPass asks imm hs
    · exact hs
  clear_value t
  split
  · exact h.dueEval ht
  · exact ht

theorem laneWrite (n : Nat) (g : Geometry) (f : Frame) (hs : P s) : P (laneWrite n g f s) :=
  h.modRoute n _ (h.write s g _ _ _ hs) fun _ _ => ⟨.inl rfl, id, id, .inl rfl, rfl⟩

/-! ### Route engine -/

theorem toPending (n : Nat) (hs : P s) : P (toPending n s) :=
  h.endRun n (h.modRoute n _ hs fun _ _ => .dropped rfl (by simp) (by simp) id (.inl rfl) rfl)

theorem toWaiting (n : Nat) (lane : Lane) (hs : P s) : P (toWaiting n lane s) :=
  h.modRoute n _ hs fun _ _ => .dropped rfl (by simp) (by simp) id (.inl rfl) rfl

end Engine

theorem Route.holds_iff {r : Route} {g : Geometry} :
    r.holds g = true ↔ r.pages ≠ [] ∧ r.geometry = some g := by simp [Route.holds]

/-- A route whose pages are laid out for a lane's geometry is bound to that lane and goes on. -/
theorem RouteKept.rebound {r r' : Route} {lane : Lane} (hh : r.holds lane.geometry = true)
    (hp : r'.pages = r.pages) (hb : r'.bound = some lane) (hg : r'.geometry = r.geometry)
    (hs : r'.state = .filling ∨ r'.state = .running ∨ r'.state = r.state) (hq : r'.queue = r.queue)
    (hl : r'.listening = r.listening) (hc : r'.channel = r.channel) : RouteKept r r' := by
  obtain ⟨hne, hge⟩ := Route.holds_iff.mp hh
  refine ⟨.inl hp, fun h => ?_, fun h => hq ▸ h, .inl hl, hc⟩
  unfold Route.HoldsNeed at h
  by_cases hx : r.state = .filling ∨ r.state = .running
  · rw [if_pos hx] at h
    obtain ⟨l, -, h2, h3⟩ := h
    have : l.geometry = lane.geometry := Option.some.inj (h2.symm.trans hge)
    have hx' : r'.state = .filling ∨ r'.state = .running := by
      rcases hs with hs | hs | hs
      · exact .inl hs
      · exact .inr hs
      · rw [hs]; exact hx
    unfold Route.HoldsNeed
    rw [if_pos hx']
    exact ⟨lane, hb, hg.trans hge, by rw [hp, h3, this]⟩
  · rw [if_neg hx] at h
    exact absurd h hne

namespace Engine

variable {P : State → Prop} (h : Engine P) {s : State}
include h

theorem resolveRoute (x : State × List Nat) (n : Nat) (hs : P x.1) : P (resolveRoute x n).1 := by
  unfold Machine.resolveRoute
  extract_lets t
  have ht : P t := h.endRun n (h.modRoute n _ hs fun _ _ => ⟨.inl rfl, id, id, .inl rfl, rfl⟩)
  clear_value t
  split
  · dsimp only
    exact h.toPending n ht
  · split
    · rename_i hh
      dsimp only
      refine h.modRoute n _ ht fun r hr => ?_
      rw [State.route_of_getElem? hr] at hh
      exact .rebound hh rfl rfl rfl (.inl rfl) rfl rfl rfl
    · dsimp only
      exact h.toWaiting n _ ht

theorem resolvePair (asks : List Nat) (n : Nat) (hs : P s) : P (Machine.resolveRoute (s, asks) n).1 :=
  h.resolveRoute (s, asks) n hs

theorem rebindRoute (x : State × List Nat) (n : Nat) (lane : Lane) (hs : P x.1) :
    P (rebindRoute x n lane).1 := by
  unfold Machine.rebindRoute
  split
  · rename_i hh
    exact h.modRoute n _ hs fun r hr => by
      rw [State.route_of_getElem? hr] at hh
      exact .rebound hh rfl rfl rfl (.inr (.inr rfl)) rfl rfl rfl
  · exact h.toWaiting n _ hs

theorem remapRoute (x : State × List Nat) (n : Nat) (hs : P x.1) : P (remapRoute x n).1 := by
  unfold Machine.remapRoute
  dsimp only
  split
  · exact hs
  · exact hs
  · dsimp only
    exact h.toPending n hs
  · dsimp only
    exact h.toWaiting n _ hs
  · rename_i hst _
    dsimp only
    refine h.modRoute n _ hs fun r hr => ⟨.inl rfl, fun hn => ?_, id, .inl rfl, rfl⟩
    rw [State.route_of_getElem? hr] at hst
    simp [Route.HoldsNeed, hst] at hn ⊢
    exact hn
  · dsimp only
    split
    · exact h.abortRoute n _ (h.rebindRoute x n _ hs)
    · exact h.rebindRoute x n _ hs

omit h in
theorem foldPairs {α β : Type} (f : State × β → α → State × β) (hf : ∀ x a, P x.1 → P (f x a).1)
    (l : List α) (x : State × β) (hx : P x.1) : P (l.foldl f x).1 :=
  foldl_keeps (P := fun y : State × β => P y.1) hf l x hx

theorem remapRoutes (hs : P s) : P (remapRoutes s) :=
  h.closeStep _ _ _ (Engine.foldPairs _ h.remapRoute _ _ hs)

theorem followRoute (x : State × List Nat) (n : Nat) (hs : P x.1) : P (followRoute x n).1 := by
  unfold Machine.followRoute
  split
  · exact hs
  · exact hs
  · exact h.resolvePair _ n (h.toPending n hs)

theorem departRoute (n : Nat) (hs : P s) : P (departRoute s n) := by
  refine h.endRun n (h.modRoute n _ hs fun r _ => ?_)
  split
  · exact RouteKept.refl r
  · refine .same rfl rfl rfl ?_ rfl rfl rfl
    by_cases hr : r.state = .running <;> simp [hr]

theorem cutQueue (n : Nat) (hs : P s) : P (cutQueue n s) :=
  h.modRoute n _ hs fun _ _ => ⟨.inl rfl, id, QueueFits.filter_begun, .inl rfl, rfl⟩

theorem vacateRoute (n : Nat) (hs : P s) : P (vacateRoute n s) :=
  h.endRun n (h.cutQueue n (h.modRoute n _ hs fun _ _ =>
    .dropped rfl (by simp) (by simp) id (.inr rfl) rfl))

theorem suspendRoute (why : SuspendReason) (n : Nat) (hs : P s) : P (suspendRoute why n s) := by
  unfold Machine.suspendRoute
  extract_lets t
  have ht : P t := h.endRun n (h.modRoute n _ hs fun _ _ => .dropped rfl (by simp) (by simp) id (.inl rfl) rfl)
  clear_value t
  split
  · exact ht
  · exact h.cutQueue n ht

end Engine

@[simp] theorem Route.countUnit_pages (k : UnitKind) (r : Route) : (r.countUnit k).pages = r.pages := by
  cases k <;> rfl
@[simp] theorem Route.countUnit_queue (k : UnitKind) (r : Route) : (r.countUnit k).queue = r.queue := by
  cases k <;> rfl
@[simp] theorem Route.countUnit_bound (k : UnitKind) (r : Route) : (r.countUnit k).bound = r.bound := by
  cases k <;> rfl
@[simp] theorem Route.countUnit_geometry (k : UnitKind) (r : Route) :
    (r.countUnit k).geometry = r.geometry := by cases k <;> rfl
@[simp] theorem Route.countUnit_state (k : UnitKind) (r : Route) : (r.countUnit k).state = r.state := by
  cases k <;> rfl
@[simp] theorem Route.countUnit_listening (k : UnitKind) (r : Route) :
    (r.countUnit k).listening = r.listening := by cases k <;> rfl
@[simp] theorem Route.countUnit_channel (k : UnitKind) (r : Route) :
    (r.countUnit k).channel = r.channel := by cases k <;> rfl

namespace Engine

variable {P : State → Prop} (h : Engine P) {s : State}
include h

theorem completeRoute (n : Nat) (fn : Fn) (g : Geometry) (hne : ∀ r, s.routes[n]? = some r → r.pages ≠ [])
    (hs : P s) : P (completeRoute n fn g s).1 := by
  refine h.modRoute n _ hs fun r hr => ⟨.inl (by simp), fun hn => ?_, fun hq => by simpa using hq,
    .inl (by simp), by simp⟩
  have : r.state = .filling ∨ r.state = .running := by
    by_contra hx
    simp only [Route.HoldsNeed, hx, if_false] at hn
    exact hne r hr hn
  simp only [Route.HoldsNeed, this, if_true] at hn
  simpa [Route.HoldsNeed] using hn

theorem gapRoute (n : Nat) (fn : Fn) (g : Geometry) (hs : P s) : P (gapRoute n fn g s).1 := by
  unfold Machine.gapRoute
  dsimp only
  split
  · exact h.modRoute n _ hs fun r _ => .same (by simp) (by simp) (by simp) (by simp) (by simp) (by simp)
      (by simp)
  · exact hs

theorem formUnit (f : Frame) (x : State × List Formed) (n : Nat) (hs : P x.1) : P (formUnit f x n).1 := by
  unfold Machine.formUnit
  dsimp only
  split
  · rename_i p ps g hp hg
    have hw := h.laneWrite n g f hs
    split
    · refine h.completeRoute n _ g (fun r hr => ?_) hw
      have hlen : n < x.1.routes.length := by
        have := (List.getElem?_eq_some_iff.mp hr).1
        simpa [Machine.laneWrite] using this
      simp only [Machine.laneWrite, State.modRoute, List.getElem?_modify, if_true] at hr
      rw [List.getElem?_eq_getElem hlen] at hr
      simp only [Option.map_eq_map, Option.map_some, Option.some.injEq] at hr
      have : x.1.route n = x.1.routes[n] := State.route_of_getElem? (List.getElem?_eq_getElem hlen)
      rw [← hr]
      simp only [← this, hp]
      simp
    · exact h.gapRoute n _ g hw
  · exact hs

theorem formUnits (f : Frame) (hs : P s) : P (formUnits f s).1 := Engine.foldPairs _ (h.formUnit f) _ _ hs

end Engine

end Sys2Proof.Machine
end

