-- ==== Sys2Proof/Laws/EngineAnnounce.lean ====
section
/-! SUPPORT. `Engine` carried through the announcement controller, the map trackers and the action of
APPLY. -/

namespace Sys2Proof.Machine

/-- Sticky flags that only rise. -/
theorem Sticky.Within.refl (k : Sticky) : Sticky.Within k k := ⟨id, id, id, id, id, id, id⟩

namespace Engine

variable {P : State → Prop} (h : Engine P) {s : State}
include h

/-! ### Announcement controller -/

theorem announce (ev : AnnounceEvent) (e : StackEntry) (route : Option Nat) (why : Option RemoveReason)
    (hs : P s) : P (announce ev e route why s) := h.raiseNow _ hs

theorem announceProgram (hs : P s) : P (announceProgram s) := by
  unfold Machine.announceProgram
  split
  · exact h.announce _ _ _ _ hs
  · exact h.raiseNow _ hs

theorem setSource (source : Option Nat) (hs : P s) : P (setSource source s) := by
  unfold Machine.setSource
  split
  · exact hs
  · exact h.modAnn _ hs (.inl rfl)

theorem setHeld (held : Bool) (hs : P s) : P (setHeld held s) := by
  unfold Machine.setHeld
  split
  · exact h.modRoute _ _ hs fun _ _ => ⟨.inl rfl, id, id, .inl rfl, rfl⟩
  · exact hs

theorem unbindRoute (n : Nat) (hs : P s) : P (s.modRoute n Route.unbind) :=
  h.modRoute n _ hs fun _ _ => .dropped rfl (by simp [Route.unbind]) (by simp [Route.unbind]) id (.inl rfl) rfl

theorem unbindRoutes (ns : List Nat) (hs : P s) : P (unbindRoutes ns s) :=
  foldl_keeps (fun _ n hb => h.unbindRoute n hb) ns s hs

theorem releaseCarriers (ns : List Nat) (hs : P s) : P (releaseCarriers ns s) :=
  h.closeStep _ _ _ (h.unbindRoutes ns hs)

theorem rereadBottom (hs : P s) : P (rereadBottom s) := by
  unfold Machine.rereadBottom
  split
  · exact h.modAnn _ hs (.inl rfl)
  · exact hs

theorem returnToProgram (hs : P s) : P (returnToProgram s) := by
  unfold Machine.returnToProgram
  extract_lets t
  exact h.announceProgram (h.modAnn _ (h.setHeld _ (h.releaseCarriers _ hs)) (.inl rfl))

theorem removeAt (why : RemoveReason) (i : Nat) (hs : P s) : P (removeAt why s i) := by
  unfold Machine.removeAt
  split
  · exact hs
  · exact h.announce _ _ _ _ (h.dueEval (h.modAnn _ hs (.inl rfl)))

theorem removeAll (why : RemoveReason) (ps : List Nat) (hs : P s) : P (ps.foldl (Machine.removeAt why) s) :=
  foldl_keeps (fun _ i hb => h.removeAt why i hb) ps s hs

theorem removeWhere (why : RemoveReason) (p : StackEntry → Bool) (hs : P s) : P (removeWhere why p s) := by
  unfold Machine.removeWhere
  extract_lets ps t
  have ht : P t := h.removeAll why ps hs
  clear_value t
  split
  · exact h.returnToProgram ht
  · exact ht

theorem refreshBottom (hs : P s) : P (refreshBottom s) := by
  unfold Machine.refreshBottom
  extract_lets t
  have ht : P t := h.rereadBottom hs
  clear_value t
  split
  · exact h.removeWhere _ _ ht
  · exact ht

theorem controllerMapChange (hs : P s) : P (controllerMapChange s) := by
  unfold Machine.controllerMapChange
  extract_lets t u
  exact h.dueEval (h.refreshBottom (h.removeWhere _ _ (h.rereadBottom hs)))

theorem leadMapChanged (hs : P s) : P (leadMapChanged s) := h.controllerMapChange (h.remapRoutes hs)

theorem listeningChanged (hs : P s) : P (listeningChanged s) := by
  unfold Machine.listeningChanged
  extract_lets old ps a b c d e
  have hb : P b := h.releaseCarriers _ (h.removeAll _ _ hs)
  have hc : P c := h.routes b _ hb (.map _ _ fun _ _ => ⟨.inl rfl, id, id, .inl rfl, rfl⟩)
  have hd : P d := by
    unfold d
    split
    · exact h.modAnn _ hc (.inl rfl)
    · exact h.modAnn _ hc (.inl rfl)
  have he : P e := by
    unfold e
    split
    · exact hd
    · exact h.announceProgram hd
  exact h.dueEval he

end Engine

/-- The record of a route after the release of announcement routes. -/
theorem unbindRoutes_singleton (n : Nat) (s : State) : unbindRoutes [n] s = s.modRoute n Route.unbind := rfl

namespace Engine

variable {P : State → Prop} (h : Engine P) {s : State}
include h

theorem askCarrier (n : Nat) (lane : Lane) (cls : Nat) (hs : P s) : P (askCarrier n lane cls s) := by
  refine h.modRoute n _ (h.unbindRoutes [n] hs) fun r hr => ?_
  have hp : r.pages = [] := by
    rw [unbindRoutes_singleton, State.modRoute_routes, List.getElem?_modify] at hr
    simp only [if_true, Option.map_eq_map, Option.map_eq_some_iff] at hr
    obtain ⟨q, -, rfl⟩ := hr
    rfl
  exact .dropped hp (by simp) (by simp) id (.inl rfl) rfl

theorem bindCarrier (n : Nat) (lane : Lane) (cls : Nat) (hs : P s) : P (bindCarrier n lane cls s) := by
  unfold Machine.bindCarrier
  extract_lets u
  have hu : P u := h.closeStep _ _ _ (h.askCarrier n lane cls hs)
  clear_value u
  split
  · split
    · exact h.modRoute n _ hu fun _ _ => ⟨.inl rfl, id, id, .inl rfl, rfl⟩
    · exact hu
  · exact hu

theorem keepCarrier (n cls : Nat) (hs : P s) : P (keepCarrier n cls s) := by
  unfold Machine.keepCarrier
  extract_lets changed t u others
  have ht : P t := h.modRoute n _ hs fun _ _ => ⟨.inl rfl, id, id, .inl rfl, rfl⟩
  clear_value t
  have hu : P u := by
    unfold u
    split
    · exact h.modAnn _ ht (.inl rfl)
    · exact ht
  clear_value u
  split
  · exact hu
  · exact h.releaseCarriers _ hu

theorem matchTo (lane cls : Nat) (hs : P s) : P (matchTo lane cls s) := by
  unfold Machine.matchTo
  split
  · exact h.keepCarrier _ _ hs
  · split
    · exact h.bindCarrier _ _ _ hs
    · exact hs
  · exact hs

theorem modLive (i : Nat) (f : Option LiveEntry → Option LiveEntry) (hs : P s) : P (modLive i f s) :=
  h.modAnn _ hs (.inl rfl)

theorem noteRefusal (cluster cls : Nat) (what : NotedRefusal) (b : NoticeBody) (hs : P s) :
    P (noteRefusal cluster cls what b s) := by
  unfold Machine.noteRefusal
  split
  · split
    · exact hs
    · exact h.raiseNow _ (h.modLive _ _ hs)
  · exact hs

theorem tryPush (e : LiveEntry) (hs : P s) : P (tryPush e s) := by
  unfold Machine.tryPush
  split
  · exact h.noteRefusal _ _ _ _ (h.sticky s _ hs fun k => ⟨id, id, id, id, id, fun _ => rfl, id⟩)
  · extract_lets refusal t entry u v
    have ht : P t := h.matchTo _ _ hs
    have hu : P u := h.modAnn _ ht (.inl rfl)
    have hv : P v := by
      unfold v
      split
      · exact h.modLive _ _ hu
      · exact hu
    clear_value v
    split
    · exact h.noteRefusal _ _ _ _ ht
    · exact h.announce _ _ _ _ hv

theorem matchProgram (hs : P s) : P (matchProgram s) := by
  unfold Machine.matchProgram
  split
  · exact hs
  · extract_lets old t u
    have hu : P u := h.setSource _ (h.releaseCarriers _ hs)
    clear_value u
    split
    · exact hu
    · exact h.announceProgram hu

theorem matchTop (hs : P s) : P (matchTop s) := by
  unfold Machine.matchTop
  split
  · split
    · rename_i cluster lane _ _ _
      extract_lets refusal t
      have ht : P t := h.matchTo _ _ hs
      clear_value t
      split
      · exact ht
      · exact h.noteRefusal _ _ _ _ ht
    · exact hs
  · exact h.matchProgram hs

theorem evaluateRun (hs : P s) : P (evaluateRun s) := by
  unfold Machine.evaluateRun
  extract_lets t
  have ht : P t := by
    unfold t
    split
    · exact h.tryPush _ hs
    · exact hs
  exact h.modAnn _ (h.matchTop ht) (.inl rfl)

theorem resumeRoutes (hs : P s) : P (resumeRoutes s) := by
  unfold Machine.resumeRoutes
  extract_lets x
  have hx : P x.1 := Engine.foldPairs _ (fun y n hy => by
    split
    · exact h.resolveRoute y n hy
    · exact hy) _ _ hs
  exact h.closeStep _ _ _ hx

theorem wake (source : WakeSource) (e : Option LiveEntry) (hs : P s) : P (wake source e s) := by
  unfold Machine.wake
  extract_lets t u v
  exact h.evaluateRun (h.raiseNow _ (h.refreshBottom (h.resumeRoutes (h.modAnn _ hs (.inr rfl)))))

theorem evaluate (hs : P s) : P (evaluate s) := by
  unfold Machine.evaluate
  split
  · exact h.evaluateRun hs
  · split
    · exact h.wake _ _ hs
    · exact h.modAnn _ hs (.inl rfl)

theorem settle (hs : P s) : P (settle s) := by
  unfold Machine.settle
  split
  · exact h.evaluate hs
  · exact hs

theorem dropLive (why : RemoveReason) (i : Nat) (e : LiveEntry) (hs : P s) : P (dropLive why i e s) :=
  h.removeWhere _ _ (h.dueEval (h.modLive _ _ hs))

theorem refreshLive (after : Option MuxMap) (i : Nat) (e : LiveEntry) (lane : Nat) (r : Fn) (hs : P s) :
    P (refreshLive after i e lane r s) := by
  unfold Machine.refreshLive
  split
  · exact h.modLive _ _ hs
  · extract_lets t u v
    have hv : P v := h.dueEval (h.modAnn _ (h.modLive _ _ hs) (.inl rfl))
    clear_value v
    split
    · exact hv
    · exact h.removeWhere _ _ hv

theorem liveRecord (after : Option MuxMap) (r : Fn) (x : LiveRecord) (hs : P s) :
    P (liveRecord after r s x) := by
  unfold Machine.liveRecord
  split
  · exact hs
  split
  · split
    · exact h.refreshLive _ _ _ _ _ hs
    · exact h.dueEval (h.modLive _ _ hs)
    · exact hs
  split
  · split
    · exact h.dropLive _ _ _ hs
    · exact hs
  · exact hs

theorem liveSweep (r : Fn) (fresh : Bool) (hs : P s) : P (liveSweep r fresh s) := by
  unfold Machine.liveSweep
  extract_lets t limit old gone u
  have ht : P t := by
    unfold t
    split
    · exact h.modAnn _ hs (.inl rfl)
    · exact hs
  clear_value t
  split
  · exact ht
  · exact h.removeWhere _ _ (h.dueEval (h.modAnn _ ht (.inl rfl)))

theorem switchTo (n : Nat) (e : StackEntry) (hs : P s) : P (switchTo n e s) := by
  unfold Machine.switchTo
  extract_lets old t u
  have ht : P t := h.setHeld _ (h.setSource _ hs)
  clear_value t old
  have hu : P u := by
    unfold u
    split
    · split
      · exact h.releaseCarriers _ ht
      · exact ht
    · exact ht
  exact h.announce _ _ _ _ hu

theorem decideOnAir (formed : List Formed) (hs : P s) : P (decideOnAir formed s) := by
  unfold Machine.decideOnAir
  split
  · split
    · split
      · exact h.switchTo _ _ hs
      · exact hs
    · exact hs
  · exact hs

theorem placeOnAir (m : Nat) (u : Formed) (hs : P s) : P (placeOnAir m u s) := by
  unfold Machine.placeOnAir
  exact h.enqueue _ _ (h.modRoute _ _ (h.modAnn _ hs (.inl rfl)) fun _ _ => ⟨.inl rfl, id, id, .inl rfl, rfl⟩)

theorem placeUnit (u : Formed) (hs : P s) : P (placeUnit s u) := by
  unfold Machine.placeUnit
  split
  · exact hs
  split
  · split
    · split
      · exact h.placeOnAir _ _ hs
      · exact hs
    · exact hs
  · exact h.enqueue _ _ (h.modRoute _ _ hs fun _ _ => ⟨.inl rfl, id, id, .inl rfl, rfl⟩)

theorem assembleUnit (u : Formed) (hs : P s) : P (assembleUnit s u) := by
  unfold Machine.assembleUnit
  split
  · exact h.assemble _ _ hs
  · exact hs

/-! ### Map trackers -/

theorem mapChanged (t : TrackerId) (hs : P s) : P (mapChanged t s) := by
  cases t
  · exact h.leadMapChanged hs
  · exact hs

theorem installMap (t : TrackerId) (c : Collection) (why : SwitchReason) (fn : Fn) (hs : P s) :
    P (installMap t c why fn s) :=
  h.mapChanged t (h.raise _ _ _ (h.tracker s t _ hs))

theorem emptyMap (t : TrackerId) (why : LostReason) (fn : Option Fn) (hs : P s) :
    P (emptyMap t why fn s) := by
  unfold Machine.emptyMap
  split
  · exact hs
  · exact h.mapChanged t (h.raise _ _ _ (h.tracker s t _ hs))

theorem emptyTracker (t : TrackerId) (why : LostReason) (hs : P s) : P (emptyTracker t why s) :=
  h.emptyMap t why _ (h.tracker s t _ hs)

theorem clearTarget (t : TrackerId) (hs : P s) : P (clearTarget t s) := h.tracker s t _ hs

theorem rejectMap (t : TrackerId) (why : RejectReason) (v : Nat) (i : Option Nat) (fn : Fn) (hs : P s) :
    P (rejectMap t why v i fn s) := by
  unfold Machine.rejectMap
  extract_lets l u w
  refine h.raise _ _ _ (h.sticky _ _ (h.tracker s t _ hs) fun k => ?_)
  cases l
  · exact ⟨id, id, fun _ => rfl, id, id, id, id⟩
  · exact ⟨id, id, id, fun _ => rfl, id, id, id⟩

theorem takeVerdict (t : TrackerId) (f : Frame) (c : Collection) (hs : P s) : P (takeVerdict t f c s) := by
  unfold Machine.takeVerdict
  split
  · exact h.tracker s t _ hs
  · split
    · exact h.installMap _ _ _ _ hs
    · exact h.tracker s t _ hs
  · exact h.rejectMap _ _ _ _ _ hs

theorem fileRecord (t : TrackerId) (f : Frame) (i : Option Nat) (r : List Byte) (hs : P s) :
    P (fileRecord t f i r s) := by
  unfold Machine.fileRecord
  extract_lets c
  split
  · split
    · exact hs
    · exact h.rejectMap _ _ _ _ _ hs
  · exact h.takeVerdict _ _ _ hs

theorem offerRecord (t : TrackerId) (f : Frame) (i : Option Nat) (r : List Byte) (hs : P s) :
    P (offerRecord t f i r s) := by
  unfold Machine.offerRecord
  split
  · exact h.fileRecord t f i r hs
  · exact hs

theorem takeRecord (t : TrackerId) (f : Frame) (live : State → LiveRecord → State)
    (hl : ∀ b x, P b → P (live b x)) (p : Option (List Byte)) (hs : P s) : P (takeRecord t f live s p) := by
  unfold Machine.takeRecord
  split
  · exact hs
  split
  · split
    · exact hs
    · exact hl _ _ hs
    · exact h.offerRecord t f _ _ hs
    · exact h.offerRecord t f _ _ hs
  · exact hs

theorem takeRecords (t : TrackerId) (f : Frame) (live : State → LiveRecord → State)
    (hl : ∀ b x, P b → P (live b x)) (hs : P s) : P (takeRecords t f live s) :=
  foldl_keeps (fun _ p hb => h.takeRecord t f live hl p hb) _ s hs

theorem leadRecords (f : Frame) (hs : P s) : P (leadRecords f s) :=
  h.takeRecords _ f _ (fun _ x hb => h.liveRecord _ _ x hb) hs

theorem switchFrame (t : TrackerId) (f : Frame) (hs : P s) : P (switchFrame t f s) := by
  unfold Machine.switchFrame
  split
  · exact hs
  split
  · extract_lets u
    have hu : P u := h.clearTarget t hs
    clear_value u
    split
    · split
      · exact h.installMap _ _ _ _ hu
      · exact h.emptyMap _ _ _ hu
    · exact h.emptyMap _ _ _ hu
  · exact hs

theorem takeCountdown (t : TrackerId) (f : Frame) (hs : P s) : P (takeCountdown t f s) := by
  unfold Machine.takeCountdown
  extract_lets hd
  split
  · exact h.tracker s t _ hs
  · exact h.tracker s t _ hs

theorem versionCheck (t : TrackerId) (f : Frame) (hs : P s) : P (versionCheck t f s) := by
  unfold Machine.versionCheck
  extract_lets v x ready
  clear_value ready
  split
  · split
    · exact hs
    · split
      · exact h.installMap _ _ _ _ (h.clearTarget t hs)
      · exact h.emptyMap _ _ _ (h.tracker s t _ hs)
  · split
    · exact h.installMap _ _ _ _ hs
    · exact hs
  · exact hs

theorem trackerHead (t : TrackerId) (f : Frame) (hs : P s) : P (trackerHead t f s) := by
  unfold Machine.trackerHead
  extract_lets u v
  have hv : P v := h.switchFrame t f (h.tracker s t _ hs)
  clear_value v
  split
  · exact h.versionCheck t f (h.takeCountdown t f hv)
  · exact hv

theorem scoutFrame (f : Frame) (hs : P s) : P (scoutFrame f s) :=
  h.takeRecords _ f _ (fun _ _ hb => hb) (h.trackerHead _ f hs)

/-! ### The action of APPLY -/

theorem vacateAll (ns : List Nat) (hs : P s) : P (ns.foldl (fun s n => Machine.vacateRoute n s) s) :=
  foldl_keeps (fun _ n hb => h.vacateRoute n hb) ns s hs

theorem suspendAll (why : SuspendReason) (ns : List Nat) (hs : P s) :
    P (ns.foldl (fun s n => Machine.suspendRoute why n s) s) :=
  foldl_keeps (fun _ n hb => h.suspendRoute why n hb) ns s hs

theorem applyStep (kind : ApplyKind) (hs : P s) : P (applyStep kind s) := by
  unfold Machine.applyStep
  extract_lets ns x
  split
  · exact h.closeStep _ _ _ (h.vacateAll ns hs)
  · exact h.closeStep _ _ _ (h.suspendAll _ ns hs)
  · exact h.closeStep _ _ _ (Engine.foldPairs _ h.resolveRoute _ _ hs)

theorem tellController (before : Option Nat) (hs : P s) : P (tellController before s) := by
  unfold Machine.tellController
  split
  · exact h.refreshBottom hs
  · exact h.listeningChanged hs

end Engine

end Sys2Proof.Machine
end

