-- ==== Sys2Proof/Laws/Flow.lean ====
section
/-! SUPPORT. What the merge stage, the role controller and the link ports can do to the state, said once:
a property that a few updates keep is kept by every event of frame time. -/

namespace Sys2Proof.Machine

/-- The updates of the merge stage's buffers and counters and of the role controller's marks. -/
structure Parts (P : State → Prop) : Prop extends Engine P where
  merge : ∀ s m, P s → P { s with merge := m }
  marks : ∀ s r, P s → r.decision = s.roles.decision → P { s with roles := r }
  counters : ∀ s l (f : Link → Link), P s → (∀ x, (f x).port = x.port) → P (s.modLink l f)

/-- Those, and what a release can cause: the action of a held APPLY, and a decision. -/
structure Flow (P : State → Prop) : Prop extends Parts P where
  act : ∀ s, P s → P (actApply s)
  due : ∀ s d, P s → P { s with mgmt := { s.mgmt with applyDue := d } }
  decided : ∀ s d, P s → P (decide' d s)

/-- The updates of the roles. -/
structure Handovers (P : State → Prop) : Prop extends Parts P where
  lead : ∀ s l r, P s → r ≠ .lead → P (setRole (otherLink l) r (setRole l .lead s))
  other : ∀ s l r, P s → (s.oneLead → (s.link l).role ≠ .lead) → r ≠ .lead → P (setRole l r s)

/-- Everything an event of frame time is made of, but the changes of a link entry by its port. -/
structure Events (P : State → Prop) : Prop extends Flow P, Handovers P where
  free : ∀ s n, P s → P { s with freeIndex := n }
  undecide : ∀ s, P s → P { s with roles := { s.roles with decision := none } }

/-- Everything an event of frame time is made of. A port's change of its link entry keeps the role and
keeps the entry coherent. -/
structure Ports (P : State → Prop) : Prop extends Events P where
  port : ∀ s l (f : Link → Link), P s → (∀ x, (f x).role = x.role) →
    ((s.link l).Coherent → (f (s.link l)).Coherent) → P (s.modLink l f)

namespace Parts

variable {P : State → Prop} (h : Parts P) {s : State}
include h

theorem dropHeld (p : HeldFrame → Bool) (hs : P s) : P (dropHeld p s) := by
  unfold Machine.dropHeld
  extract_lets gone _ t
  exact foldl_keeps (fun b x hb =>
    h.counters b x.link (fun y => { y with mergeDropped := bump y.mergeDropped }) hb fun _ => rfl) _ _
    (h.merge s _ hs)

theorem clearMerge (hs : P s) : P (clearMerge s) := by
  unfold Machine.clearMerge
  extract_lets _ t
  exact h.merge t _ (h.dropHeld _ (h.merge s _ hs))

theorem clearMarks (hs : P s) : P (clearMarks s) := h.marks s _ hs rfl

theorem setArm (n : Option Fn) (hs : P s) : P { s with roles := { s.roles with arm := n } } :=
  h.marks s _ hs rfl

theorem exchangeTrackers (hs : P s) : P (exchangeTrackers s) :=
  h.tracker _ .scout (fun _ => s.leadTracker) (h.tracker s .lead (fun _ => s.scoutTracker) hs)

theorem roleNotice (why : RoleReason) (k : Option HandoverKind) (hs : P s) : P (roleNotice why k s) :=
  h.raiseNow _ hs

theorem followController (hs : P s) : P (followController s) := by
  unfold Machine.followController
  extract_lets aired a b c d
  have ha : P a := h.removeAll _ _ hs
  have hb : P b := h.unbindRoutes _ ha
  have hc : P c := h.setHeld _ (h.modAnn _ hb (.inl rfl))
  have hd : P d := h.rereadBottom hc
  clear_value d
  split
  · exact h.announceProgram hd
  · exact hd

theorem followRoutes (before : State) (hs : P s) : P (followRoutes before s) :=
  h.closeStep _ _ _ (Engine.foldPairs _ h.followRoute _ _ hs)

end Parts

namespace Handovers

variable {P : State → Prop} (h : Handovers P) {s : State}
include h

theorem handover (l : LinkId) (role : Role) (seamless : Bool) (why : RoleReason) (hr : role ≠ .lead)
    (hs : P s) : P (handover l role seamless why s) := by
  unfold Machine.handover
  extract_lets t
  have ht : P t := h.clearMarks (h.lead s l role hs hr)
  clear_value t
  split
  · exact h.roleNotice _ _ ht
  · exact h.roleNotice _ _ (h.emptyTracker _ _ (h.clearMerge ht))

theorem swapRoles (why : RoleReason) (hs : P s) : P (swapRoles why s) := by
  unfold Machine.swapRoles
  extract_lets l
  split
  · exact h.handover _ _ _ _ (by simp) hs
  · exact hs

theorem follow (why : RoleReason) (hs : P s) : P (follow why s) := by
  unfold Machine.follow
  extract_lets l t u
  have ht : P t := h.clearMarks (h.lead s l .scout hs (by simp))
  have hu : P u := h.roleNotice _ _ (h.clearMerge (h.exchangeTrackers ht))
  exact h.dueEval (h.rereadBottom (h.followRoutes u (h.followController hu)))

end Handovers

namespace Flow

variable {P : State → Prop} (h : Flow P) {s : State}
include h

theorem actIfDue (hs : P s) : P (actIfDue s) := by
  unfold Machine.actIfDue
  split
  · exact h.act s hs
  · exact hs

theorem markDue (hs : P s) : P (markDue s) := h.due s _ hs

/-! ### Checks at a release -/

theorem armedCheck (r : Fn) (hs : P s) : P (armedCheck r s) := by
  unfold Machine.armedCheck
  split
  · extract_lets _ t
    have ht : P t := h.setArm none hs
    clear_value t
    split
    · exact h.decided _ _ ht
    · exact h.raise _ _ _ ht
  · exact hs

theorem autoSwapCheck (hs : P s) : P (autoSwapCheck s) := by
  unfold Machine.autoSwapCheck
  extract_lets usable
  split
  · exact h.decided _ _ hs
  · exact hs

theorem followDwell (r : Fn) (q : Nat) (hs : P s) : P (followDwell r q s) := by
  unfold Machine.followDwell
  extract_lets poor _ t _ dwell u
  have ht : P t := by
    unfold t
    split
    · exact hs
    · exact h.marks s _ hs rfl
  have hu : P u := h.marks t _ ht rfl
  clear_value u t
  split
  · split
    · exact ht
    · exact h.raise _ _ _ (h.marks t _ ht rfl)
  · split
    · exact h.decided _ _ hu
    · exact hu
  · exact h.marks t _ ht rfl

theorem roleChecks (r : Fn) (q : Nat) (hs : P s) : P (roleChecks r q s) := by
  unfold Machine.roleChecks
  split
  · exact hs
  extract_lets t u
  have ht : P t := h.armedCheck r hs
  have hu : P u := h.autoSwapCheck ht
  clear_value u t
  split
  · exact ht
  split
  · exact hu
  · exact h.followDwell r q hu

/-! ### A release -/

theorem placeUnits (us : List Formed) (hs : P s) : P (us.foldl placeUnit s) :=
  foldl_keeps (fun _ u hb => h.placeUnit u hb) us s hs

theorem assembleUnits (us : List Formed) (hs : P s) : P (us.foldl assembleUnit s) :=
  foldl_keeps (fun _ u hb => h.assembleUnit u hb) us s hs

theorem downstream (f : Frame) (fresh : Bool) (hs : P s) : P (downstream f fresh s) := by
  unfold Machine.downstream
  extract_lets a x b c d
  have ha : P a := h.trackerHead _ f hs
  have hx : P x.1 := h.formUnits f ha
  have hb : P b := h.liveSweep _ _ (h.leadRecords f hx)
  have hc : P c := h.settle (h.decideOnAir _ (h.settle hb))
  have hd : P d := h.assembleUnits _ (h.placeUnits _ hc)
  exact h.roleChecks _ _ (h.markDue (h.timeoutSweep _ hd))

theorem releaseFront (hs : P s) : P (releaseFront s) := by
  unfold Machine.releaseFront
  split
  · exact hs
  · extract_lets partner fresh f b c d _
    have hb : P b := by
      unfold b
      clear_value partner
      split
      · exact h.counters s _ _ hs fun _ => rfl
      · exact hs
    have hd : P d := h.merge b _ hb
    exact h.downstream _ _ (h.dropHeld _ hd)

theorem releaseMany (k : Nat) (hs : P s) : P (releaseMany k s) := by
  induction k generalizing s with
  | zero => exact hs
  | succ k ih => exact ih (h.releaseFront (h.actIfDue hs))

theorem releaseTest (hs : P s) : P (releaseTest s) := h.releaseMany _ hs

omit h in
theorem iterate_keeps {f : State → State} (hf : ∀ b, P b → P (f b)) (k : Nat) (hs : P s) : P (f^[k] s) := by
  induction k generalizing s with
  | zero => exact hs
  | succ k ih => exact ih (hf _ hs)

theorem releaseAll (hs : P s) : P (releaseAll s) :=
  Flow.iterate_keeps (fun _ hb => h.releaseFront hb) _ hs

/-! ### Entries -/

theorem enterWaiting (f : Frame) (hs : P s) : P (enterWaiting s f) := h.releaseTest (h.merge s _ hs)

theorem lateFlag (hs : P s) : P (s.modSticky fun k => { k with lateFrames := true }) :=
  h.sticky s _ hs fun _ => ⟨id, id, id, id, id, id, fun _ => rfl⟩

theorem mergeLateFrame (l : LinkId) (hs : P s) : P (mergeLateFrame l s) :=
  h.lateFlag (h.counters s _ _ hs fun _ => rfl)

theorem placeHeld (l : LinkId) (f : Frame) (hs : P s) : P (placeHeld l f s) := by
  unfold Machine.placeHeld
  split
  · exact h.mergeLateFrame l hs
  split
  · exact h.counters s _ _ hs fun _ => rfl
  extract_lets _ t
  have ht : P t := by
    unfold t
    split
    · split
      · exact h.counters _ _ _ (h.merge s _ hs) fun _ => rfl
      · exact hs
    · exact hs
  clear_value t
  exact h.releaseTest (h.merge t _ ht)

theorem partnerEntry (l : LinkId) (f : Frame) (hs : P s) : P (partnerEntry l f s) := by
  unfold Machine.partnerEntry
  extract_lets lead
  split
  · exact h.placeHeld l f hs
  · exact h.counters s _ _ hs fun _ => rfl

theorem fillAndEnter (e : Fn) (d : Nat) (f : Frame) (hs : P s) : P (fillAndEnter e d f s) :=
  foldl_keeps (fun _ f hb => h.enterWaiting f hb) _ s hs

theorem leadEntry (l : LinkId) (f : Frame) (hs : P s) : P (leadEntry l f s) := by
  unfold Machine.leadEntry
  extract_lets e
  clear_value e
  split
  · exact h.enterWaiting f hs
  split
  · exact h.fillAndEnter _ _ f hs
  split
  · exact h.mergeLateFrame l hs
  · exact h.placeHeld l f hs

theorem handOn (l : LinkId) (f : Frame) (hs : P s) : P (handOn l f s) := by
  unfold Machine.handOn
  split
  · exact h.leadEntry l f hs
  · split
    · exact h.partnerEntry l f hs
    · exact hs
  · split
    · exact h.scoutFrame f hs
    · exact hs
  · exact hs

/-! ### The departure of the lead -/

theorem missArm (hs : P s) : P (missArm s) := by
  unfold Machine.missArm
  split
  · exact hs
  · exact h.raise _ _ _ (h.setArm none hs)

theorem departAll (hs : P s) : P ((List.range 18).foldl departRoute s) :=
  foldl_keeps (fun _ n hb => h.departRoute n hb) _ s hs

theorem leadDeparture (hs : P s) : P (leadDeparture s) := by
  unfold Machine.leadDeparture
  extract_lets a b c d
  have ha : P a := h.clearTarget _ (h.releaseAll (h.actIfDue hs))
  have hb : P b := h.departAll ha
  have hc : P c := h.missArm (h.markDue hb)
  exact h.merge d _ (h.dropHeld _ hc)

end Flow

namespace Events

variable {P : State → Prop} (h : Events P) {s : State}
include h

theorem finishEvent (hs : P s) : P (finishEvent s) := by
  unfold Machine.finishEvent
  split
  · exact hs
  extract_lets _ t first u v
  have ht : P t := h.undecide s hs
  have hu : P u := h.free t _ ht
  have hv : P v := by
    unfold v
    split
    · split
      · exact h.act u hu
      · exact hu
    · exact ht
  clear_value v
  split
  · exact h.swapRoles _ hv
  · exact h.swapRoles _ hv
  · split
    · exact h.follow _ hv
    · exact hv

theorem finishFrame (hs : P s) : P (finishFrame s) := h.settle (h.finishEvent hs)

end Events

end Sys2Proof.Machine
end

