-- ==== Sys2Proof/Laws/Links.lean ====
section
/-! SUPPORT. What the port, the frame timer and the quality monitor do to a link entry: each change keeps
the entry coherent. -/

namespace Sys2Proof.Machine

/-! ### Quality levels -/

theorem entryLevel_ne_none (st : Settings) (q : Nat) : entryLevel st q ≠ .none := by
  unfold entryLevel
  split
  · simp
  · split <;> simp

theorem nextLevel_ne_none (st : Settings) {before : QLevel} (q : Nat) (h : before ≠ .none) :
    nextLevel st before q ≠ .none := by
  unfold nextLevel
  cases before with
  | none => exact absurd rfl h
  | good => exact entryLevel_ne_none st q
  | weak =>
    dsimp only
    split
    · simp
    · split <;> simp
  | poor =>
    dsimp only
    split
    · simp
    · split <;> simp

/-! ### The score (R24) -/

theorem score_bound {score q : Nat} (hs : score ≤ 2040) (hq : q ≤ 255) : score - score / 8 + q ≤ 2040 := by
  omega

/-! ### The timer -/

theorem trimOf_bounds (sum : Nat) : -1280 ≤ trimOf sum ∧ trimOf sum ≤ 1279 := by
  unfold trimOf
  omega

/-- What the frame timer's part of a taken frame changes. -/
structure Link.Timed (x y : Link) : Prop where
  sync : y.sync = x.sync
  role : y.role = x.role
  due : y.due.isSome
  lastFn : y.lastFn = x.lastFn
  score : y.score = x.score
  quality : y.quality = x.quality
  level : y.level = x.level
  trim : (-1280 ≤ x.trim ∧ x.trim ≤ 1279) → (-1280 ≤ y.trim ∧ y.trim ≤ 1279)
  phase : y.phase < 16
  window : (∀ w, x.window = some w → w.count ≤ 15) → ∀ w, y.window = some w → w.count ≤ 15

theorem Link.timed (t : Nat) (x : Link) : x.Timed (x.timeTaken t) := by
  unfold Link.timeTaken Link.measure
  split
  · split
    · exact ⟨rfl, rfl, rfl, rfl, rfl, rfl, rfl, id, Nat.mod_lt _ (by decide), fun _ w hw => by
        simp only [Link.setDue, Option.some.injEq] at hw
        simp [← hw, startWindow]⟩
    · extract_lets sum
      split
      · exact ⟨rfl, rfl, rfl, rfl, rfl, rfl, rfl, id, Nat.mod_lt _ (by decide), fun _ w hw => by
          simp only [Link.setDue, Option.some.injEq] at hw
          rw [← hw]
          dsimp only
          omega⟩
      · exact ⟨rfl, rfl, rfl, rfl, rfl, rfl, rfl, fun _ => trimOf_bounds sum, Nat.mod_lt _ (by decide),
          fun _ w hw => by
            simp only [Link.setDue, Option.some.injEq] at hw
            simp [← hw, startWindow]⟩
  · exact ⟨rfl, rfl, rfl, rfl, rfl, rfl, rfl, id, Nat.mod_lt _ (by decide), fun _ w hw => by
      simp only [Link.setDue, Option.some.injEq] at hw
      simp [← hw, startWindow]⟩

/-! ### Coherence -/

/-- The counters, the expected id and the followed id say nothing about coherence. -/
theorem Link.Coherent.of_eq {x y : Link} (h : x.Coherent) (hs : y.sync = x.sync) (hd : y.due = x.due)
    (hw : y.window = x.window) (hc : y.score = x.score) (hq : y.quality = x.quality)
    (hl : y.level = x.level) (hf : y.lastFn = x.lastFn ∨ (y.lastFn).isSome) (ht : y.trim = x.trim)
    (hp : y.phase = x.phase) : y.Coherent := by
  have hsync : y.synced = x.synced := by simp [Link.synced, hs]
  refine ⟨?_, fun hy => ?_, ?_, ?_, ?_, ?_, ?_, ?_⟩
  · rw [hsync, hd, hw, hc, hq, hl]; exact h.unsynced
  · have := h.synced (hsync ▸ hy)
    refine ⟨hd ▸ this.1, ?_, hl ▸ this.2.2⟩
    rcases hf with hf | hf
    · exact hf ▸ this.2.1
    · exact hf
  · rw [hs, hw]; exact h.coast
  · rw [hc]; exact h.score
  · rw [hq, hc]; exact h.quality
  · rw [ht]; exact h.trim
  · rw [hp]; exact h.phase
  · rw [hw]; exact h.window

/-- A link that has not synced, or that departs. -/
theorem Link.Coherent.idle {x y : Link} (h : x.Coherent) (hs : y.synced = false) (hd : y.due = none)
    (hw : y.window = none) (hc : y.score = 0) (hq : y.quality = 0) (hl : y.level = .none)
    (ht : y.trim = x.trim) (hp : y.phase = x.phase) : y.Coherent := by
  refine ⟨fun _ => ⟨hd, hw, hc, hq, hl⟩, fun hy => by simp [hs] at hy, fun _ => hw, by simp [hc], by simp [hc, hq],
    ht ▸ h.trim, hp ▸ h.phase, by simp [hw]⟩

/-- R8, R10, R24: a taken frame, with the monitor's update. -/
theorem Link.Coherent.taken {x : Link} (h : x.Coherent) (t : Nat) (f : Frame) (score : Nat) (level : QLevel)
    (hs : score ≤ 2040) (hl : level ≠ .none) :
    ({ (x.timeTaken t).take f with score := score, quality := score / 8, level := level } : Link).Coherent := by
  have ht := x.timed t
  refine ⟨fun hy => by simp [Link.synced, Link.take] at hy, fun _ => ⟨ht.due, rfl, hl⟩, (fun hy => by cases hy), hs, rfl,
    ht.trim h.trim, ht.phase, ht.window h.window⟩

/-- R17, R24: a miss, with the monitor's update. -/
theorem Link.Coherent.missed {x : Link} (h : x.Coherent) (hx : x.synced = true) (level : QLevel)
    (hl : level ≠ .none) :
    ({ (x.missed).updateScore 0 with level := level } : Link).Coherent := by
  refine ⟨fun hy => by simp [Link.synced, Link.updateScore, Link.missed] at hy, fun _ => ⟨(h.synced hx).1, rfl, hl⟩,
    fun _ => rfl, ?_, rfl, h.trim, h.phase, fun w hw => by cases hw⟩
  exact score_bound h.score (by decide)

/-- R17: the due time moves on at an expiry. -/
theorem Link.Coherent.advanceDue {x : Link} (h : x.Coherent) : x.advanceDue.Coherent := by
  unfold Link.advanceDue
  split
  · rename_i d hd
    have hsync : (x.setDue d).synced = x.synced := rfl
    have hx : x.synced = true := by
      by_contra hn
      have := h.unsynced (by simpa using hn)
      rw [this.1] at hd
      cases hd
    refine ⟨fun hy => ?_, fun _ => ⟨rfl, (h.synced hx).2⟩, h.coast, h.score, h.quality, h.trim,
      Nat.mod_lt _ (by decide), h.window⟩
    rw [hsync, hx] at hy
    cases hy
  · exact h

theorem Link.Coherent.reset (r : Role) : (Link.reset r).Coherent :=
  ⟨fun _ => ⟨rfl, rfl, rfl, rfl, rfl⟩, fun h => by simp [Link.synced, Link.reset] at h, fun _ => rfl, by simp [Link.reset], by simp [Link.reset],
    by simp [Link.reset], by simp [Link.reset], fun w hw => by cases hw⟩

end Sys2Proof.Machine
end

