-- ==== Sys2Proof/Laws/Ports.lean ====
section
/-! SUPPORT. What ARRIVAL and MISS can do to the state, said once: a property that the updates of `Ports`
keep is kept by every event of frame time. -/

namespace Sys2Proof.Machine

/-! ### Conjunctions, and properties of one field -/

theorem Engine.and {P Q : State → Prop} (h : Engine P) (k : Engine Q) : Engine fun s => P s ∧ Q s where
  routes s rs hs hk := ⟨h.routes s rs hs.1 hk, k.routes s rs hs.2 hk⟩
  grant s n lane hs h1 h2 h3 := ⟨h.grant s n lane hs.1 h1 h2 h3, k.grant s n lane hs.2 h1 h2 h3⟩
  refusal s x hs := ⟨h.refusal s x hs.1, k.refusal s x hs.2⟩
  write s g ps r cs hs := ⟨h.write s g ps r cs hs.1, k.write s g ps r cs hs.2⟩
  packets s x hs := ⟨h.packets s x hs.1, k.packets s x hs.2⟩
  ann s a hs hl := ⟨h.ann s a hs.1 hl, k.ann s a hs.2 hl⟩
  tracker s t f hs := ⟨h.tracker s t f hs.1, k.tracker s t f hs.2⟩
  sticky s f hs hf := ⟨h.sticky s f hs.1 hf, k.sticky s f hs.2 hf⟩
  raise s fn b hs := ⟨h.raise s fn b hs.1, k.raise s fn b hs.2⟩

theorem Parts.and {P Q : State → Prop} (h : Parts P) (k : Parts Q) : Parts fun s => P s ∧ Q s where
  toEngine := h.toEngine.and k.toEngine
  merge s m hs := ⟨h.merge s m hs.1, k.merge s m hs.2⟩
  marks s r hs hd := ⟨h.marks s r hs.1 hd, k.marks s r hs.2 hd⟩
  counters s l f hs hf := ⟨h.counters s l f hs.1 hf, k.counters s l f hs.2 hf⟩

theorem Flow.and {P Q : State → Prop} (h : Flow P) (k : Flow Q) : Flow fun s => P s ∧ Q s where
  toParts := h.toParts.and k.toParts
  act s hs := ⟨h.act s hs.1, k.act s hs.2⟩
  due s d hs := ⟨h.due s d hs.1, k.due s d hs.2⟩
  decided s d hs := ⟨h.decided s d hs.1, k.decided s d hs.2⟩

theorem Handovers.and {P Q : State → Prop} (h : Handovers P) (k : Handovers Q) :
    Handovers fun s => P s ∧ Q s where
  toParts := h.toParts.and k.toParts
  lead s l r hs hr := ⟨h.lead s l r hs.1 hr, k.lead s l r hs.2 hr⟩
  other s l r hs h1 h2 := ⟨h.other s l r hs.1 h1 h2, k.other s l r hs.2 h1 h2⟩

theorem Events.and {P Q : State → Prop} (h : Events P) (k : Events Q) : Events fun s => P s ∧ Q s where
  toFlow := h.toFlow.and k.toFlow
  lead s l r hs hr := ⟨h.lead s l r hs.1 hr, k.lead s l r hs.2 hr⟩
  other s l r hs h1 h2 := ⟨h.other s l r hs.1 h1 h2, k.other s l r hs.2 h1 h2⟩
  free s n hs := ⟨h.free s n hs.1, k.free s n hs.2⟩
  undecide s hs := ⟨h.undecide s hs.1, k.undecide s hs.2⟩

theorem Ports.and {P Q : State → Prop} (h : Ports P) (k : Ports Q) : Ports fun s => P s ∧ Q s where
  toEvents := h.toEvents.and k.toEvents
  port s l f hs h1 h2 := ⟨h.port s l f hs.1 h1 h2, k.port s l f hs.2 h1 h2⟩

/-- R115, R116: the action of a held APPLY, for a property that keeps apart from the reply it forms. -/
theorem Engine.actApply {P : State → Prop} (h : Engine P) (mgmt : ∀ s m, P s → m.settings = s.mgmt.settings →
      m.sticky = s.mgmt.sticky → P { s with mgmt := m })
    (reply : ∀ s rs, P s → P { s with trunk := { s.trunk with replies := rs } }) {s : State} (hs : P s) :
    P (actApply s) := by
  unfold Machine.actApply
  split
  · rename_i kind req rest _ _
    extract_lets found changed skipped _ a b _ c
    have ha : P a := h.applyStep kind (mgmt s _ hs rfl rfl)
    have hb : P b := h.settle (h.tellController _ ha)
    have hc : P c := mgmt b _ hb rfl rfl
    exact reply _ _ (mgmt c _ hc rfl rfl)
  · exact hs

/-- A property of the link entries is untouched by the blocks behind the merge stage. -/
theorem Engine.ofLinks (Q : Link → Link → Prop) : Engine fun s => Q s.linkA s.linkB where
  routes _ _ hs _ := hs
  grant _ _ _ hs _ _ _ := hs
  refusal _ _ hs := hs
  write _ _ _ _ _ hs := hs
  packets _ _ hs := hs
  ann _ _ hs _ := hs
  tracker _ t _ hs := by cases t <;> exact hs
  sticky _ _ hs _ := hs
  raise s fn b hs := by simpa using hs

/-- A property of a link's sync state is kept by every event but the changes the ports make. -/
theorem syncKept (l : LinkId) (v : SyncState) : Events fun s => (s.link l).sync = v where
  toEngine := by
    cases l
    · exact Engine.ofLinks fun x _ => x.sync = v
    · exact Engine.ofLinks fun _ x => x.sync = v
  merge s m hs := by cases l <;> exact hs
  marks s r hs _ := by cases l <;> exact hs
  counters s m f hs hf := by
    have hx : ∀ x, (f x).sync = x.sync := fun x => by
      have := congrArg Link.sync (hf x)
      exact this
    cases l <;> cases m <;> first | exact hs | exact (hx _).trans hs
  act s hs := by
    cases l
    · exact (Engine.ofLinks fun x _ => x.sync = v).actApply (fun _ _ h _ _ => h) (fun _ _ h => h) hs
    · exact (Engine.ofLinks fun _ x => x.sync = v).actApply (fun _ _ h _ _ => h) (fun _ _ h => h) hs
  due s d hs := by cases l <;> exact hs
  decided s d hs := by cases l <;> exact hs
  lead s m r hs _ := by cases l <;> cases m <;> exact hs
  other s m r hs _ _ := by cases l <;> cases m <;> exact hs
  free s n hs := by cases l <;> exact hs
  undecide s hs := by cases l <;> exact hs

theorem otherLink_ne (l : LinkId) : otherLink l ≠ l := by cases l <;> simp [otherLink]

/-! ### The quality monitor -/

/-- The level set on a changed entry. -/
theorem setLevel_modLink (l : LinkId) (f : Link → Link) (v : Link → QLevel) (s : State) :
    setLevel l (v (f (s.link l))) (s.modLink l f) =
      let t := s.modLink l fun x => { f x with level := v (f x) }
      if (f (s.link l)).level = v (f (s.link l)) then t
      else t.raise (.quality l (f (s.link l)).level (v (f (s.link l))) (f (s.link l)).quality) := by
  cases l <;> rfl

namespace Ports

variable {P : State → Prop} (h : Ports P) {s : State}
include h

/-- A change of the entry, then the level it leads to. -/
theorem setLevel (l : LinkId) (f : Link → Link) (v : Link → QLevel) (hs : P s)
    (hr : ∀ x, (f x).role = x.role)
    (hc : (s.link l).Coherent → ({ f (s.link l) with level := v (f (s.link l)) } : Link).Coherent) :
    P (setLevel l (v (f (s.link l))) (s.modLink l f)) := by
  rw [setLevel_modLink]
  extract_lets t
  have ht : P t := h.port s l (fun x => { f x with level := v (f x) }) hs hr hc
  clear_value t
  split
  · exact ht
  · exact h.raiseNow _ ht

/-- R10, R24, R25: an expected frame is taken. -/
theorem takenQuality (l : LinkId) (t : Nat) (f : Frame) (hq : f.q ≤ 255) (hx : (s.link l).synced = true)
    (hs : P s) : P (updateQuality l f.q (s.modLink l fun x => (x.timeTaken t).take f)) := by
  unfold updateQuality
  extract_lets u
  have hu : u = s.modLink l fun x => ((x.timeTaken t).take f).updateScore f.q := by
    cases l <;> rfl
  clear_value u
  subst hu
  have := h.setLevel l (fun x => ((x.timeTaken t).take f).updateScore f.q)
    (fun x => nextLevel s.mgmt.settings x.level x.quality) hs (fun x => (x.timed t).role) fun hc => by
      have ht := (s.link l).timed t
      refine hc.taken t f _ _ ?_ (nextLevel_ne_none _ _ ?_)
      · exact score_bound (by simpa [Link.take, ht.score] using hc.score) hq
      · simpa [Link.take, Link.updateScore, ht.level] using (hc.synced hx).2.2
  simpa using this

/-- R8, R23: the frame that enters LOCKED. -/
theorem enteredQuality (l : LinkId) (t : Nat) (f : Frame) (hq : f.q ≤ 255) (hs : P s) :
    P (enterQuality l f.q (s.modLink l fun x => (x.timeTaken t).take f)) := by
  unfold enterQuality
  rw [State.modLink_modLink]
  have := h.setLevel l (fun x => { (x.timeTaken t).take f with score := 8 * f.q, quality := f.q })
    (fun _ => entryLevel s.mgmt.settings f.q) hs (fun x => (x.timed t).role) fun hc => by
      have := hc.taken t f (8 * f.q) (entryLevel s.mgmt.settings f.q) (by omega) (entryLevel_ne_none _ _)
      simpa using this
  simpa [Function.comp_def] using this

/-- R17, R24, R25: a miss. -/
theorem missedQuality (l : LinkId) (hx : (s.link l).synced = true) (hs : P s) :
    P (updateQuality l 0 (s.modLink l Link.missed)) := by
  unfold updateQuality
  extract_lets u
  have hu : u = s.modLink l fun x => x.missed.updateScore 0 := by cases l <;> rfl
  clear_value u
  subst hu
  have := h.setLevel l (fun x => x.missed.updateScore 0)
    (fun x => nextLevel s.mgmt.settings x.level x.quality) hs (fun _ => rfl) fun hc => by
      refine hc.missed hx _ (nextLevel_ne_none _ _ ?_)
      simpa [Link.missed, Link.updateScore] using (hc.synced hx).2.2
  simpa using this

/-! ### Departures -/

theorem portDepart (l : LinkId) (v : SyncState) (hv : v ≠ .locked ∧ v ≠ .coast) (hs : P s) :
    P (portDepart l v s) := by
  unfold Machine.portDepart
  exact h.setLevel l _ (fun _ => .none) hs (fun _ => rfl) fun hc =>
    hc.idle (by simp [Link.synced, hv.1, hv.2]) rfl rfl rfl rfl rfl rfl rfl

theorem depart (l : LinkId) (v : SyncState) (hv : v ≠ .locked ∧ v ≠ .coast) (hs : P s) :
    P (depart l v s) := by
  unfold Machine.depart
  extract_lets t
  have ht : P t := h.portDepart l v hv hs
  clear_value t
  split
  · exact h.leadDeparture ht
  · exact h.dropHeld _ ht
  · exact h.clearTarget _ ht
  · exact ht

theorem goHunt (l : LinkId) (hs : P s) : P (goHunt l s) := by
  unfold Machine.goHunt
  split
  · exact h.depart l _ (by simp) hs
  · rename_i hx
    refine h.port s l _ hs (fun _ => rfl) fun hc => ?_
    have hu := hc.unsynced (by simpa using hx)
    exact hc.idle (by simp [Link.synced]) hu.1 hu.2.1 hu.2.2.1 hu.2.2.2.1 hu.2.2.2.2 rfl rfl

end Ports

/-- R12: the sync state a departure leaves. -/
theorem depart_sync (l : LinkId) (v : SyncState) (s : State) : ((depart l v s).link l).sync = v := by
  have h := syncKept l v
  unfold depart
  extract_lets t
  have ht : (t.link l).sync = v := by
    unfold t portDepart setLevel
    extract_lets old u
    have hu : (u.link l).sync = v := by simp [u]
    clear_value u
    split
    · exact hu
    · exact h.raiseNow _ hu
  clear_value t
  split
  · exact h.leadDeparture ht
  · exact h.dropHeld _ ht
  · exact h.clearTarget _ ht
  · exact ht

namespace Ports

variable {P : State → Prop} (h : Ports P) {s : State}
include h

theorem startConfirm (l : LinkId) (f : Frame) (hx : (s.link l).synced = false) (hs : P s) :
    P (startConfirm l f s) := by
  unfold Machine.startConfirm
  extract_lets old t
  have ht : P t := h.port s l _ hs (fun _ => rfl) fun hc => by
    have hu := hc.unsynced hx
    exact hc.idle (by simp [Link.synced]) hu.1 hu.2.1 hu.2.2.1 hu.2.2.2.1 hu.2.2.2.2 rfl rfl
  clear_value t
  split
  · split
    · exact h.emptyTracker _ _ (h.actIfDue ht)
    · exact h.emptyTracker _ _ ht
    · exact ht
    · exact ht
  · exact ht

theorem resync (l : LinkId) (f : Frame) (hs : P s) : P (resync l f s) := by
  refine h.startConfirm l f ?_ (h.depart l _ (by simp) hs)
  simp [Link.synced, depart_sync]

theorem confirmFrame (l : LinkId) (t : Nat) (f : Frame) (hq : f.q ≤ 255) (hx : (s.link l).synced = false)
    (hs : P s) : P (confirmFrame l t f s) := by
  unfold Machine.confirmFrame
  extract_lets x
  split
  · split
    · exact h.handOn l f (h.enteredQuality l t f hq hs)
    · refine h.port s l _ hs (fun _ => rfl) fun hc => ?_
      have hu := hc.unsynced hx
      exact hc.idle hx hu.1 hu.2.1 hu.2.2.1 hu.2.2.2.1 hu.2.2.2.2 rfl rfl
  · exact h.startConfirm l f hx hs

theorem takeFrame (l : LinkId) (t : Nat) (f : Frame) (hq : f.q ≤ 255) (hx : (s.link l).synced = true)
    (hs : P s) : P (takeFrame l t f s) := h.handOn l f (h.takenQuality l t f hq hx hs)

/-- A change of the counters, ids and the like, which say nothing of coherence. -/
theorem counter (l : LinkId) (f : Link → Link) (hs : P s) (hf : ∀ x, (f x).role = x.role ∧ (f x).sync = x.sync ∧
      (f x).due = x.due ∧ (f x).window = x.window ∧ (f x).score = x.score ∧ (f x).quality = x.quality ∧
      (f x).level = x.level ∧ (f x).lastFn = x.lastFn ∧ (f x).trim = x.trim ∧ (f x).phase = x.phase) :
    P (s.modLink l f) := by
  refine h.port s l f hs (fun x => (hf x).1) fun hc => ?_
  obtain ⟨-, h1, h2, h3, h4, h5, h6, h7, h8, h9⟩ := hf (s.link l)
  exact hc.of_eq h1 h2 h3 h4 h5 h6 (.inl h7) h8 h9

theorem checkCoast (l : LinkId) (hs : P s) : P (checkCoast l s) := by
  unfold Machine.checkCoast
  split
  · extract_lets t u
    have ht : P t := h.depart l _ (by simp) hs
    have hu : P u := h.counter l _ ht fun _ => ⟨rfl, rfl, rfl, rfl, rfl, rfl, rfl, rfl, rfl, rfl⟩
    exact h.raiseNow _ (h.sticky u _ hu fun _ => ⟨id, id, id, id, fun _ => rfl, id, id⟩)
  · exact hs

theorem declareMiss (l : LinkId) (hx : (s.link l).synced = true) (hs : P s) : P (declareMiss l s) :=
  h.checkCoast l (h.handOn l _ (h.missedQuality l hx hs))

theorem gapMisses (l : LinkId) (k : Nat) (hs : P s) : P (gapMisses l k s) := by
  induction k generalizing s with
  | zero => exact hs
  | succ k ih =>
    unfold Machine.gapMisses
    split
    · exact ih (h.declareMiss l ‹_› hs)
    · exact hs

theorem gapFrame (l : LinkId) (t d : Nat) (f : Frame) (hq : f.q ≤ 255) (hs : P s) :
    P (gapFrame l t d f s) := by
  unfold Machine.gapFrame
  extract_lets u
  have hu : P u := h.gapMisses l d hs
  clear_value u
  split
  · rename_i hx
    exact h.takeFrame l t f hq hx hu
  · rename_i hx
    exact h.startConfirm l f (by simpa using hx) hu

theorem lateFrame (l : LinkId) (hs : P s) : P (lateFrame l s) :=
  h.lateFlag (h.counter l _ hs fun _ => ⟨rfl, rfl, rfl, rfl, rfl, rfl, rfl, rfl, rfl, rfl⟩)

theorem syncedFrame (l : LinkId) (t : Nat) (f : Frame) (hq : f.q ≤ 255) (hx : (s.link l).synced = true)
    (hs : P s) : P (syncedFrame l t f s) := by
  unfold Machine.syncedFrame
  extract_lets x d
  split
  · exact h.resync l f hs
  split
  · exact h.takeFrame l t f hq hx hs
  split
  · exact h.gapFrame l t _ f hq hs
  split
  · exact h.resync l f (h.counter l _ hs fun _ => ⟨rfl, rfl, rfl, rfl, rfl, rfl, rfl, rfl, rfl, rfl⟩)
  · exact h.lateFrame l hs

theorem judgeArrival (l : LinkId) (t : Nat) (bs : List Byte) (ms : List Bool) (hs : P s) :
    P (judgeArrival l t bs ms s) := by
  have hq : (decodeFrame bs ms).q ≤ 255 := by
    have := (byteAt bs 10).isLt
    simp only [decodeFrame]
    omega
  unfold Machine.judgeArrival
  extract_lets x f
  split
  · exact hs
  split
  · exact h.counter l _ hs fun _ => ⟨rfl, rfl, rfl, rfl, rfl, rfl, rfl, rfl, rfl, rfl⟩
  split
  · exact h.counter l _ hs fun _ => ⟨rfl, rfl, rfl, rfl, rfl, rfl, rfl, rfl, rfl, rfl⟩
  split
  · rename_i hx
    exact h.startConfirm l f (by simp [Link.synced, show (s.link l).sync = _ from hx]) hs
  · rename_i hx
    exact h.confirmFrame l t f hq (by simp [Link.synced, show (s.link l).sync = _ from hx]) hs
  · rename_i hx
    exact h.syncedFrame l t f hq (by simp [Link.synced, show (s.link l).sync = _ from hx]) hs
  · rename_i hx
    exact h.syncedFrame l t f hq (by simp [Link.synced, show (s.link l).sync = _ from hx]) hs

theorem miss (l : LinkId) (hx : (s.link l).synced = true) (hs : P s) :
    P (Machine.finishFrame (Machine.declareMiss l (s.modLink l Link.advanceDue))) := by
  refine h.finishFrame (h.declareMiss l ?_ ?_)
  · have : (s.link l).advanceDue.synced = (s.link l).synced := by
      unfold Link.advanceDue
      split <;> rfl
    simpa [this] using hx
  · refine h.port s l _ hs (fun x => ?_) Link.Coherent.advanceDue
    unfold Link.advanceDue
    split <;> rfl

end Ports

end Sys2Proof.Machine
end

