-- ==== Sys2Proof/Laws/Commands.lean ====
section
/-! SUPPORT. What every command can do to the state, said once: a property that the updates of `Commands`
keep is kept by every command, and by the resets, STATUS, WRITE_SETTINGS and LEVEL_WATCH when it is kept
by what only they do. -/

namespace Sys2Proof.Machine

/-! ### While a request is in service -/

/-- No APPLY is held and the replies that wait are these. -/
def Serving (rs : List Reply) (s : State) : Prop := s.mgmt.held = none ∧ s.trunk.replies = rs

theorem actApply_idle {s : State} (h : s.mgmt.held = none) : actApply s = s := by
  unfold actApply
  rw [h]

theorem servingKept (rs : List Reply) : Ports (Serving rs) where
  routes _ _ hs _ := hs
  grant _ _ _ hs _ _ _ := hs
  refusal _ _ hs := hs
  write _ _ _ _ _ hs := hs
  packets _ _ hs := hs
  ann _ _ hs _ := hs
  tracker _ t _ hs := by cases t <;> exact hs
  sticky _ _ hs _ := hs
  raise s fn b hs := by simpa [Serving] using hs
  merge _ _ hs := hs
  marks _ _ hs _ := hs
  counters _ l _ hs _ := by cases l <;> exact hs
  act s hs := by rw [actApply_idle hs.1]; exact hs
  due _ _ hs := hs
  decided _ _ hs := hs
  lead _ l _ hs _ := by cases l <;> exact hs
  other _ l _ hs _ _ := by cases l <;> exact hs
  free _ _ hs := hs
  undecide _ hs := hs
  port _ l _ hs _ _ := by cases l <;> exact hs

/-! ### The updates -/

/-- The updates of which every command is made, but for what the resets, STATUS, WRITE_SETTINGS and
LEVEL_WATCH alone do. -/
structure Commands (P : State → Prop) : Prop extends Ports P where
  clock : ∀ s t, P s → P { s with clock := t }
  mgmt : ∀ s m, P s → m.requests = s.mgmt.requests → m.held = s.mgmt.held →
    m.settings = s.mgmt.settings → m.sticky = s.mgmt.sticky → P { s with mgmt := m }
  answer : ∀ s req last cells, P s → s.mgmt.held = none → s.trunk.replies.length ≤ 1 →
    P (answer req last cells s)
  accept : ∀ s k, P s → s.mgmt.requests ≠ [] → s.trunk.replies.length ≤ 1 →
    P { s with mgmt := { s.mgmt with held := some k, applyDue := false } }
  queueRequest : ∀ s req, P s → s.mgmt.requests.length < 4 →
    P { s with mgmt := { s.mgmt with requests := s.mgmt.requests ++ [req] } }
  trunk : ∀ s t, P s → t.replies.length ≤ s.trunk.replies.length →
    t.notices.length ≤ s.trunk.notices.length → P { s with trunk := t }
  written : ∀ s n f, n < 16 → P s → P (takeListening n f (s.modRoute n (Route.written f)))

/-- A property in service of a request. -/
abbrev InService (P : State → Prop) (rs : List Reply) (s : State) : Prop := P s ∧ Serving rs s

namespace Commands

variable {P : State → Prop} (h : Commands P) {s : State}
include h

theorem inService (rs : List Reply) : Ports (InService P rs) := h.toPorts.and (servingKept rs)

/-- A change of cursor, selection or the like while a request is in service. -/
theorem keepRecords {rs : List Reply} (m : Management) (hs : InService P rs s)
    (h1 : m.requests = s.mgmt.requests) (h2 : m.held = s.mgmt.held) (h3 : m.settings = s.mgmt.settings)
    (h4 : m.sticky = s.mgmt.sticky) : InService P rs { s with mgmt := m } :=
  ⟨h.mgmt s m hs.1 h1 h2 h3 h4, h2.trans hs.2.1, hs.2.2⟩

theorem dropSelection {rs : List Reply} (hs : InService P rs s) : InService P rs (dropSelection s) :=
  h.keepRecords _ hs rfl rfl rfl rfl

theorem setCursor {rs : List Reply} (t : Table) (i : Nat) (hs : InService P rs s) :
    InService P rs (setCursor t i s) := h.keepRecords _ hs rfl rfl rfl rfl

theorem answered {rs : List Reply} (hr : rs.length ≤ 1) (req : Request) (last : LastFlags)
    (cells : List (List Byte)) (hs : InService P rs s) : P (Machine.answer req last cells s) :=
  h.answer s req last cells hs.1 hs.2.1 (by rw [hs.2.2]; exact hr)

theorem reply {rs : List Reply} (hr : rs.length ≤ 1) (req : Request) (o : Outcome) (b : Bool)
    (cells : State → List (List Byte)) (hs : InService P rs s) : P (reply req o b cells s) := by
  unfold Machine.reply
  exact h.answered hr req _ _ ((h.inService rs).settle hs)

theorem replyAfter {rs : List Reply} (hr : rs.length ≤ 1) (s₀ : State) (req : Request) (o : Outcome)
    (cells : State → List (List Byte)) (hs : InService P rs s) : P (replyAfter s₀ req o cells s) :=
  h.reply hr req o _ cells hs

omit h in
/-- R165: a request row leaves the property, when what it does to a request in service does. -/
theorem serveIf (tag : Tag) (isOp : RequestOp → Bool) (body : Request → State → State) {t : State}
    (hb : ∀ req, s.mgmt.requests ≠ [] → s.trunk.replies.length ≤ 1 → isOp req.op →
      InService P s.trunk.replies s → P (body req s))
    (hs : P s) (ht : serveIf tag isOp body s = .next t) : P t := by
  unfold Machine.serveIf at ht
  split at ht
  · cases ht; exact hs
  · rename_i req rest hreq
    split at ht
    · rename_i hc
      simp only [canServe, Bool.and_eq_true, decide_eq_true_eq, Option.isNone_iff_eq_none] at hc
      cases ht
      exact hb req (by simp [hreq]) (by omega) hc.2 ⟨hs, hc.1.1.1, rfl⟩
    · cases ht; exact hs

omit h in
theorem serve (tag : Tag) (op : RequestOp) (body : Request → State → State) {t : State}
    (hb : ∀ req, s.mgmt.requests ≠ [] → s.trunk.replies.length ≤ 1 →
      InService P s.trunk.replies s → P (body req s))
    (hs : P s) (ht : Machine.serve tag op body s = .next t) : P t :=
  Commands.serveIf tag _ body (fun req h1 h2 _ h4 => hb req h1 h2 h4) hs ht

/-! ### Reading and selecting -/

theorem clearOverrun (t : Table) (i : Nat) (hs : P s) : P (clearOverrun t i s) := by
  unfold Machine.clearOverrun
  split
  · exact h.modRoute i _ hs fun _ _ => ⟨.inl rfl, id, id, .inl rfl, rfl⟩
  · exact hs

theorem readEntry {rs : List Reply} (hr : rs.length ≤ 1) (t : Table) (i : Nat) (req : Request)
    (hs : InService P rs s) : P (readEntry t i req s) := by
  unfold Machine.readEntry
  exact h.clearOverrun t i (h.answered hr req _ _ (h.setCursor t i hs))

theorem serveRead {rs : List Reply} (hr : rs.length ≤ 1) (table index : Byte) (req : Request)
    (hs : InService P rs s) : P (serveRead table index req s) := by
  unfold Machine.serveRead
  split
  · exact h.answered hr req _ _ hs
  · split
    · exact h.answered hr req _ _ hs
    · exact h.readEntry hr _ _ req hs

theorem serveWrite {rs : List Reply} (hr : rs.length ≤ 1) (table index : Byte) (req : Request)
    (hs : InService P rs s) : P (serveWrite table index req s) := by
  unfold Machine.serveWrite
  extract_lets t
  have ht : InService P rs t := h.dropSelection hs
  split
  · exact h.answered hr req _ _ ht
  · split
    · exact h.answered hr req _ _ ht
    · exact h.answered hr req _ _ (h.setCursor _ _ ht)

theorem selectionReply {rs : List Reply} (hr : rs.length ≤ 1) (req : Request) (o : Outcome) (b : Bool)
    (x : Selection) (hs : InService P rs s) : P (selectionReply req o b x s) :=
  h.answered hr req _ _ (h.keepRecords { s.mgmt with selection := x } hs rfl rfl rfl rfl)

theorem serveMarkFrom {rs : List Reply} (hr : rs.length ≤ 1) (r : Byte) (req : Request)
    (hs : InService P rs s) : P (serveMarkFrom r req s) := by
  unfold Machine.serveMarkFrom
  split
  · exact h.selectionReply hr req _ _ _ hs
  · exact h.selectionReply hr req _ _ _ hs

theorem serveMarkTo {rs : List Reply} (hr : rs.length ≤ 1) (r : Byte) (req : Request)
    (hs : InService P rs s) : P (serveMarkTo r req s) := by
  unfold Machine.serveMarkTo
  dsimp only
  split
  · exact h.selectionReply hr req _ _ _ hs
  split
  · exact h.selectionReply hr req _ _ _ hs
  · exact h.selectionReply hr req _ _ _ hs

theorem serveUnmark {rs : List Reply} (hr : rs.length ≤ 1) (r : Byte) (req : Request)
    (hs : InService P rs s) : P (serveUnmark r req s) := by
  unfold Machine.serveUnmark
  dsimp only
  repeat' split
  all_goals exact h.selectionReply hr req _ _ _ hs

theorem serveUnknown {rs : List Reply} (hr : rs.length ≤ 1) (req : Request) (hs : InService P rs s) :
    P (serveUnknown req s) := h.answered hr req _ _ (h.dropSelection hs)

end Commands

/-! ### WRITE_LINK -/

namespace Ports

variable {P : State → Prop} (h : Ports P) {s : State}
include h

theorem writeExpectedId (l : LinkId) (m : Id16) (hs : P s) : P (writeExpectedId l m s) := by
  unfold Machine.writeExpectedId
  extract_lets m' x t
  have ht : P t := h.counter l _ hs fun _ => ⟨rfl, rfl, rfl, rfl, rfl, rfl, rfl, rfl, rfl, rfl⟩
  clear_value t
  split
  · exact h.goHunt l ht
  · exact ht

theorem manualHandover (l : LinkId) (hs : P s) : P (manualHandover l s) := by
  unfold Machine.manualHandover
  split
  · exact h.follow _ hs
  · exact h.handover _ _ _ _ (by simp) hs
  · exact h.goHunt _ (h.handover _ _ _ _ (by simp) hs)
  · exact hs

theorem leavePartner (l : LinkId) (hs : P s) : P (leavePartner l s) := by
  unfold Machine.leavePartner
  split
  · exact h.dropHeld _ hs
  · exact hs

end Ports

/-! ### Roles through a change of role -/

/-- The blocks behind the merge stage, the ports and the held APPLY leave the roles as they are. -/
theorem rolesKept (l : LinkId) (v : Role) : Flow fun s => (s.link l).role = v where
  toEngine := by
    cases l
    · exact Engine.ofLinks fun x _ => x.role = v
    · exact Engine.ofLinks fun _ x => x.role = v
  merge s m hs := by cases l <;> exact hs
  marks s r hs _ := by cases l <;> exact hs
  counters s m f hs hf := by
    have hx : ∀ x, (f x).role = x.role := fun x => by
      have := congrArg Link.role (hf x)
      exact this
    cases l <;> cases m <;> first | exact hs | exact (hx _).trans hs
  act s hs := by
    cases l
    · exact (Engine.ofLinks fun x _ => x.role = v).actApply (fun _ _ h _ _ => h) (fun _ _ h => h) hs
    · exact (Engine.ofLinks fun _ x => x.role = v).actApply (fun _ _ h _ _ => h) (fun _ _ h => h) hs
  due s d hs := by cases l <;> exact hs
  decided s d hs := by cases l <;> exact hs

theorem modLink_role (l m : LinkId) (f : Link → Link) (hf : ∀ x, (f x).role = x.role) (s : State) :
    ((s.modLink m f).link l).role = (s.link l).role := by
  cases l <;> cases m <;> first | rfl | exact hf _

theorem setLevel_role (l m : LinkId) (v : QLevel) (s : State) :
    ((setLevel m v s).link l).role = (s.link l).role := by
  unfold setLevel
  dsimp only
  have := modLink_role l m (fun x => { x with level := v }) (fun _ => rfl) s
  split
  · exact this
  · exact (rolesKept l (s.link l).role).raiseNow _ this

theorem depart_role (l m : LinkId) (v : SyncState) (s : State) :
    ((depart m v s).link l).role = (s.link l).role := by
  have h := rolesKept l (s.link l).role
  unfold depart
  extract_lets t
  have ht : (t.link l).role = (s.link l).role := by
    unfold t portDepart
    rw [setLevel_role]
    exact modLink_role l m (fun x => { x with
      sync := v, confirmCount := 0, lastFn := none, due := none, window := none
      score := 0, quality := 0 }) (fun _ => rfl) s
  clear_value t
  split
  · exact h.leadDeparture ht
  · exact h.dropHeld _ ht
  · exact h.clearTarget _ ht
  · exact ht

theorem goHunt_role (l m : LinkId) (s : State) : ((goHunt m s).link l).role = (s.link l).role := by
  unfold goHunt
  split
  · exact depart_role l m _ s
  · exact modLink_role l m (fun x => { x with sync := .hunt, confirmCount := 0, lastFn := none })
      (fun _ => rfl) s

theorem leavePartner_role (l m : LinkId) (s : State) :
    ((leavePartner m s).link l).role = (s.link l).role := by
  unfold leavePartner
  split
  · exact (rolesKept l (s.link l).role).dropHeld _ rfl
  · rfl

theorem writeExpectedId_role (l m : LinkId) (x : Id16) (s : State) :
    ((writeExpectedId m x s).link l).role = (s.link l).role := by
  have hm := modLink_role l m (fun y => { y with expectedId := clampId x }) (fun _ => rfl) s
  unfold writeExpectedId
  dsimp only
  split
  · rw [goHunt_role]; exact hm
  · exact hm

theorem State.oneLead_eq {s u : State} (h : ∀ m, (u.link m).role = (s.link m).role) :
    u.oneLead = s.oneLead := by
  have ha : u.linkA.role = s.linkA.role := h .a
  have hb : u.linkB.role = s.linkB.role := h .b
  unfold State.oneLead
  rw [ha, hb]

theorem State.oneLead_leadLink {s : State} (h : s.oneLead) (l : LinkId) :
    (s.link l).role = .lead ↔ l = s.leadLink := by
  unfold State.oneLead at h
  unfold State.leadLink
  cases l <;> by_cases ha : s.linkA.role = .lead <;> simp_all [State.link]

/-- R171: the judgement lets no role be taken from the lead. -/
theorem judgeLink_ok {l : LinkId} {code : Byte} {s : State}
    (h : judgeLink l code s = .ok) : (s.link l).role = .lead → (roleOf code).getD .off = .lead := by
  intro hl
  unfold judgeLink at h
  split at h
  · cases h
  · rename_i r hr
    rw [if_pos hl] at h
    split at h
    · simpa [hr]
    · cases h

namespace Ports

variable {P : State → Prop} (h : Ports P) {s : State}
include h

/-- R49: a change of role of a link that does not hold LEAD. -/
theorem changeRole (l : LinkId) (r : Role) (hl : s.oneLead → (s.link l).role ≠ .lead) (hs : P s) :
    P (changeRole l r s) := by
  unfold Machine.changeRole
  cases r with
  | lead => exact hs
  | off =>
    refine h.clearMarks (h.other _ l _ (h.leavePartner l (h.goHunt l hs)) ?_ (by simp))
    rw [State.oneLead_eq (s := s) fun m => by rw [leavePartner_role, goHunt_role], leavePartner_role, goHunt_role]
    exact hl
  | scout =>
    refine h.emptyTracker _ _ (h.clearMarks (h.other _ l _ (h.leavePartner l hs) ?_ (by simp)))
    rw [State.oneLead_eq (s := s) fun m => by rw [leavePartner_role], leavePartner_role]
    exact hl
  | partner => exact h.clearMarks (h.other _ l _ hs hl (by simp))

theorem writeRole (l : LinkId) (r : Role) (hl : (s.link l).role = .lead → r = .lead) (hs : P s) :
    P (writeRole l r s) := by
  unfold Machine.writeRole
  split
  · exact hs
  · split
    · exact h.manualHandover l hs
    · rename_i hr
      exact h.changeRole l r (fun _ hx => hr (hl hx)) hs

theorem applyLink (l : LinkId) (f : LinkFields) (hl : (s.link l).role = .lead → (roleOf f.role).getD .off = .lead)
    (hs : P s) : P (applyLink l f s) := by
  refine h.finishEvent (h.writeRole l _ ?_ (h.writeExpectedId l _ hs))
  rw [writeExpectedId_role]
  exact hl

end Ports

namespace Commands

variable {P : State → Prop} (h : Commands P) {s : State}
include h

theorem serveWriteLink {rs : List Reply} (hr : rs.length ≤ 1) (l : LinkId) (f : LinkFields) (req : Request)
    (hs : InService P rs s) : P (serveWriteLink l f req s) := by
  unfold Machine.serveWriteLink
  extract_lets t outcome
  have ht : InService P rs t := h.setCursor _ _ (h.dropSelection hs)
  refine h.replyAfter hr s req _ _ ?_
  split
  · rename_i ho
    exact (h.inService rs).applyLink l f (judgeLink_ok (show judgeLink l f.role t = .ok from ho)) ht
  · exact ht

/-! ### WRITE_ROUTE -/

end Commands

theorem Engine.routeConsequence {P : State → Prop} (h : Engine P) {s : State} (n : Nat) (f : RouteFields)
    (r : Route) (hs : P s) : P (routeConsequence n f r s).1 := by
  unfold Machine.routeConsequence
  extract_lets watch t
  have ht : P t := by
    unfold t
    split
    · exact h.cutQueue n hs
    · exact hs
  clear_value t
  have hr := h.resolvePair [] n ht
  split
  · dsimp only
    exact h.vacateRoute n hs
  split
  · split
    · exact hr
    · dsimp only
      exact ht
  split
  · dsimp only
    exact h.suspendRoute _ n ht
  split
  · exact hr
  · dsimp only
    exact ht

theorem servingWritten {rs : List Reply} {s : State} (n : Nat) (f : RouteFields) (hs : Serving rs s) :
    Serving rs (takeListening n f (s.modRoute n (Route.written f))) := by
  unfold takeListening
  split
  · exact hs
  · exact hs

namespace Commands

variable {P : State → Prop} (h : Commands P) {s : State}
include h

theorem applyRoute {rs : List Reply} (n : Nat) (f : RouteFields) (hn : n < 16) (hs : InService P rs s) :
    InService P rs (applyRoute n f s) := by
  have k := h.inService rs
  unfold Machine.applyRoute
  extract_lets x
  have hx : InService P rs x.1 :=
    k.routeConsequence n f _ ⟨h.written s n f hn hs.1, servingWritten n f hs.2⟩
  exact k.tellController _ (k.closeStep _ _ _ hx)

theorem serveWriteRoute {rs : List Reply} (hr : rs.length ≤ 1) (n : Nat) (hn : n < 16) (f : RouteFields)
    (req : Request) (hs : InService P rs s) : P (serveWriteRoute n f req s) := by
  unfold Machine.serveWriteRoute
  extract_lets t
  have ht : InService P rs t := h.setCursor _ _ (h.dropSelection hs)
  clear_value t
  split
  · exact h.replyAfter hr s req _ _ ht
  · exact h.replyAfter hr s req _ _ (h.applyRoute n f hn ht)

/-! ### WRITE_SETTINGS -/

theorem serveWriteSettings (hset : ∀ s st, P s → P { s with mgmt := { s.mgmt with settings := st } })
    {rs : List Reply} (hr : rs.length ≤ 1) (f : SettingsFields) (req : Request) (hs : InService P rs s) :
    P (serveWriteSettings f req s) := by
  have k := h.inService rs
  unfold Machine.serveWriteSettings
  extract_lets t
  have ht : InService P rs t := h.setCursor _ _ (h.dropSelection hs)
  clear_value t
  split
  · exact h.replyAfter hr s req _ _ ht
  · rename_i new _
    refine h.replyAfter hr s req _ _ ?_
    unfold applySettings
    extract_lets old _ a b
    have ha : InService P rs a := by
      have hv : InService P rs { t with mgmt := { t.mgmt with settings := new } } :=
        ⟨hset t new ht.1, ht.2⟩
      unfold a restartDwell
      split
      · exact k.marks _ _ hv rfl
      · exact hv
    have hb : InService P rs b := by
      unfold b
      split
      · exact k.finishEvent (k.releaseTest ha)
      · exact ha
    clear_value b
    split
    · exact k.dueEval hb
    · exact hb

/-! ### APPLY -/

theorem refuseApply {rs : List Reply} (hr : rs.length ≤ 1) (req : Request) (o : Outcome)
    (hs : InService P rs s) : P (refuseApply req o s) := h.answered hr req _ _ (h.dropSelection hs)

theorem serveApply {rs : List Reply} (hr : rs.length ≤ 1) (action : Byte) (req : Request)
    (hq : s.mgmt.requests ≠ []) (hs : InService P rs s) : P (serveApply action req s) := by
  unfold Machine.serveApply
  split
  · exact h.refuseApply hr req _ hs
  split
  · exact h.refuseApply hr req _ hs
  · rename_i kind _
    split
    · exact h.refuseApply hr req _ hs
    · extract_lets _ t
      have ht : P t := h.accept s kind hs.1 hq (by rw [hs.2.2]; exact hr)
      clear_value t
      split
      · exact ht
      · exact h.act t ht

theorem serveApplyOf {rs : List Reply} (hr : rs.length ≤ 1) (req : Request)
    (hq : s.mgmt.requests ≠ []) (hs : InService P rs s) : P (serveApplyOf req s) := by
  unfold Machine.serveApplyOf
  split
  · exact h.serveApply hr _ req hq hs
  · exact hs.1

/-! ### ARM, FOLLOW, CANCEL, LEVEL -/

theorem serveArm {rs : List Reply} (hr : rs.length ≤ 1) (n : Fn) (req : Request) (hs : InService P rs s) :
    P (serveArm n req s) := by
  unfold Machine.serveArm
  extract_lets t
  have ht : InService P rs t := h.dropSelection hs
  clear_value t
  split
  · exact h.replyAfter hr s req _ _ ht
  split
  · exact h.replyAfter hr s req _ _ ((h.inService rs).setArm _ ht)
  · exact h.replyAfter hr s req _ _ ht

theorem serveFollow {rs : List Reply} (hr : rs.length ≤ 1) (force : Bool) (req : Request)
    (hs : InService P rs s) : P (serveFollow force req s) := by
  unfold Machine.serveFollow
  extract_lets t
  have ht : InService P rs t := h.dropSelection hs
  clear_value t
  split
  · exact h.replyAfter hr s req _ _ ht
  split
  · exact h.replyAfter hr s req _ _ ((h.inService rs).follow _ ht)
  · exact h.replyAfter hr s req _ _ ht

end Commands

theorem Engine.dismiss {P : State → Prop} (h : Engine P) {s : State} (cluster cls : Nat) (hs : P s) :
    P (dismiss cluster cls s) := by
  unfold Machine.dismiss
  split
  · exact h.modLive _ _ hs
  · exact hs

theorem Ports.levelRoles {P : State → Prop} (h : Ports P) {s : State} (hs : P s) : P (levelRoles s) := by
  unfold Machine.levelRoles
  extract_lets l
  split
  · exact h.setArm none hs
  · exact h.roleNotice _ _ (h.changeRole l _
      (fun ho hl => otherLink_ne _ ((State.oneLead_leadLink ho l).mp hl)) hs)

theorem Engine.levelController {P : State → Prop} (h : Engine P) {s : State} (hs : P s) :
    P (levelController s) := by
  unfold Machine.levelController
  extract_lets aired a b c d
  have ha : P a := h.removeAll _ _ hs
  have hb : P b := h.unbindRoutes _ ha
  have hc : P c := h.setHeld _ (h.modAnn _ hb (.inl rfl))
  have hd : P d := h.rereadBottom hc
  clear_value d
  split
  · exact h.announceProgram hd
  · exact hd

theorem Engine.cutListening {P : State → Prop} (h : Engine P) {s : State} (hs : P s) :
    P (cutListening s) := by
  unfold Machine.cutListening
  split
  · exact h.cutQueue _ hs
  · exact hs

theorem Ports.enterWatch {P : State → Prop} (h : Ports P) (hw : ∀ s a, P s → P { s with ann := a })
    {s : State} (hs : P s) : P (enterWatch s) := by
  unfold Machine.enterWatch
  extract_lets a b c
  have ha : P a := h.levelRoles hs
  have hb : P b := h.suspendAll _ _ ha
  have hc : P c := h.closeStep _ _ _ (h.levelController (h.cutListening hb))
  exact h.dueEval (hw c _ hc)

namespace Commands

variable {P : State → Prop} (h : Commands P) {s : State}
include h

theorem serveCancel {rs : List Reply} (hr : rs.length ≤ 1) (req : Request) (hs : InService P rs s) :
    P (serveCancel req s) := by
  have k := h.inService rs
  unfold Machine.serveCancel
  extract_lets t
  have ht : InService P rs t := h.dropSelection hs
  clear_value t
  split
  · exact h.replyAfter hr s req _ _ ht
  · exact h.replyAfter hr s req _ _ (k.removeWhere _ _ (k.dismiss _ _ ht))

/-- R150, R152: LEVEL with a code other than 1. -/
theorem serveLevel {rs : List Reply} (hr : rs.length ≤ 1) (code : Byte) (hc : code ≠ 1) (req : Request)
    (hs : InService P rs s) : P (serveLevel code req s) := by
  have k := h.inService rs
  unfold Machine.serveLevel
  extract_lets t
  have ht : InService P rs t := h.dropSelection hs
  clear_value t
  split
  · refine h.replyAfter hr s req _ _ ?_
    split
    · exact k.wake _ _ ht
    · exact ht
  · exact h.replyAfter hr s req _ _ ht

/-- R150: LEVEL with a code other than 0. -/
theorem serveLevelWatch (hw : ∀ s a, P s → P { s with ann := a }) {rs : List Reply} (hr : rs.length ≤ 1)
    (code : Byte) (hc : code ≠ 0) (req : Request) (hs : InService P rs s) :
    P (Machine.serveLevel code req s) := by
  have k := h.inService rs
  unfold Machine.serveLevel
  extract_lets t
  have ht : InService P rs t := h.dropSelection hs
  clear_value t
  split
  · exact absurd ‹_› hc
  split
  · refine h.replyAfter hr s req _ _ ?_
    split
    · exact k.enterWatch (fun s a hs => ⟨hw s a hs.1, hs.2⟩) ht
    · exact ht
  · exact h.replyAfter hr s req _ _ ht

/-! ### Trunk -/

theorem loseRequest (hs : P s) : P (loseRequest s) :=
  h.sticky s _ hs fun _ => ⟨id, fun _ => rfl, id, id, id, id, id⟩

theorem judgeCell (cell : List Byte) (hs : P s) : P (judgeCell cell s) := by
  unfold Machine.judgeCell
  split
  · exact h.loseRequest hs
  split
  · exact h.loseRequest hs
  · unfold admitRequest
    split
    · exact h.queueRequest s _ hs ‹_›
    · exact h.loseRequest hs

theorem startNotice (x : Notice) (hs : P s) : P (startNotice x s) := h.trunk s _ hs (by simp) (by simp)

theorem startChosen (hs : P s) : P (startChosen s) := by
  unfold Machine.startChosen
  split
  · rename_i r rest hr
    unfold startReply
    exact h.trunk s _ hs (by simp [hr]) (by simp)
  · exact h.startNotice _ hs
  · rename_i n _ _ _
    unfold startRoute
    split
    · exact hs
    · rename_i i rest hq
      refine h.trunk _ _ (h.modRoute n _ hs fun r hr => ?_) (by simp) (by simp)
      have hrn : r.queue = i :: rest := by rw [← State.route_of_getElem? hr]; exact hq
      refine ⟨.inl rfl, id, fun hf => ?_, .inl rfl, rfl⟩
      have hx : ∀ b, (itemsOf b ({ i with started := i.started + 1 } :: rest)).length =
          (itemsOf b (i :: rest)).length := by
        intro b
        simp only [itemsOf, List.filter_cons]
        by_cases hb : i.isUnit = b
        · have : Item.isUnit { i with started := i.started + 1 } = b := hb
          simp [hb, this]
        · have : Item.isUnit { i with started := i.started + 1 } ≠ b := hb
          simp [hb, this]
      rw [hrn] at hf
      exact ⟨by rw [hx]; exact hf.units, by rw [hx]; exact hf.groups, hf.begun⟩
  · exact hs

theorem startCell (hs : P s) : P (startCell s) := by
  unfold Machine.startCell
  split
  · exact h.startNotice _ hs
  · exact h.startChosen hs

theorem finishOrigin (o : Origin) (hs : P s) : P (finishOrigin o s) := by
  unfold Machine.finishOrigin
  split
  · refine h.trunk s _ hs ?_ (by simp)
    unfold finishReply
    dsimp only
    split
    · split <;> simp_all
    · simp_all
  · exact h.trunk s _ hs (by simp) (by simp)
  · rename_i n
    refine h.modRoute n _ hs fun r _ => ⟨.inl rfl, id, fun hf => ?_, .inl rfl, rfl⟩
    unfold finishItem
    dsimp only
    split
    · rename_i i rest hq
      split
      · exact hf
      · rw [hq] at hf
        have hs2 : List.Sublist rest (i :: rest) := List.sublist_cons_self _ _
        exact ⟨(hs2.filter _).length_le.trans hf.units, (hs2.filter _).length_le.trans hf.groups,
          fun j hj => hf.begun j (List.mem_of_mem_tail hj)⟩
    · exact .nil
  · exact hs

end Commands

/-! ### Every command -/

/-- The commands that do what no other does: the resets, STATUS, WRITE_SETTINGS, LEVEL_WATCH. Each needs
the property to be kept by that. -/
def KeptBySpecial (P : State → Prop) (s : State) : Instr → Prop
  | .powerOnReset => ∀ t, execPowerOnReset s = .next t → P t
  | .pinReset => ∀ t, execPinReset s = .next t → P t
  | .reset _ => P (trunkReset s)
  | .status _ => ∀ u, P u → P (u.modSticky fun _ => .clear)
  | .writeSettings _ _ => ∀ u st, P u → P { u with mgmt := { u.mgmt with settings := st } }
  | .levelWatch _ => ∀ u a, P u → P { u with ann := a }
  | _ => True

theorem Commands.exec {P : State → Prop} (h : Commands P) {s t : State} (c : Instr)
    (hc : KeptBySpecial P s c) (hs : P s) (ht : Machine.exec c s = .next t) : P t := by
  cases c with
  | powerOnReset => exact hc t ht
  | pinReset => exact hc t ht
  | wakeInput =>
    simp only [Machine.exec, execWakeInput] at ht
    split at ht
    · cases ht; exact hs
    · cases ht; exact h.wake _ _ hs
  | holdAsserted => cases ht; exact h.trunk s _ hs (by simp) (by simp)
  | holdDeasserted => cases ht; exact h.trunk s _ hs (by simp) (by simp)
  | arrival l time bs ms =>
    simp only [Machine.exec, execArrival] at ht
    split at ht
    · cases ht; exact h.finishFrame (h.judgeArrival l _ bs ms (h.clock s _ hs))
    · cases ht
  | miss l =>
    simp only [Machine.exec, execMiss] at ht
    split at ht
    · cases ht; exact hs
    · split at ht
      · rename_i hx
        cases ht
        exact h.miss l (by cases l <;> exact hx) (h.clock s _ hs)
      · cases ht; exact hs
  | upstreamArrival cell =>
    simp only [Machine.exec, execUpstreamArrival] at ht
    split at ht
    · cases ht; exact h.judgeCell cell hs
    · cases ht
  | cellBrokenOff => cases ht; exact h.loseRequest hs
  | cellStart =>
    simp only [Machine.exec, execCellStart] at ht
    split at ht
    · cases ht; exact h.startCell hs
    · cases ht; exact hs
  | cellFinish =>
    simp only [Machine.exec, execCellFinish] at ht
    split at ht
    · cases ht; exact hs
    · cases ht; exact h.finishOrigin _ (h.trunk s _ hs (by simp) (by simp))
  | status tag =>
    refine Commands.serve tag _ _ (fun req _ hr hi => ?_) hs ht
    exact hc _ (h.answered hr req _ _ hi)
  | read tag table index =>
    exact Commands.serve tag _ _ (fun req _ hr hi => h.serveRead hr table index req hi) hs ht
  | step tag => exact Commands.serve tag _ _ (fun req _ hr hi => h.readEntry hr _ _ req hi) hs ht
  | write tag table index =>
    exact Commands.serve tag _ _ (fun req _ hr hi => h.serveWrite hr table index req hi) hs ht
  | writeLink tag l f =>
    exact Commands.serve tag _ _ (fun req _ hr hi => h.serveWriteLink hr l f req hi) hs ht
  | writeRoute tag n f =>
    exact Commands.serve tag _ _ (fun req _ hr hi => h.serveWriteRoute hr n n.isLt f req hi) hs ht
  | writeSettings tag f =>
    exact Commands.serve tag _ _ (fun req _ hr hi => h.serveWriteSettings hc hr f req hi) hs ht
  | markFrom tag r => exact Commands.serve tag _ _ (fun req _ hr hi => h.serveMarkFrom hr r req hi) hs ht
  | markTo tag r => exact Commands.serve tag _ _ (fun req _ hr hi => h.serveMarkTo hr r req hi) hs ht
  | unmark tag r => exact Commands.serve tag _ _ (fun req _ hr hi => h.serveUnmark hr r req hi) hs ht
  | applyRelease tag =>
    exact Commands.serveIf tag _ _ (fun req hq hr _ hi => h.serveApplyOf hr req hq hi) hs ht
  | applySuspend tag =>
    exact Commands.serveIf tag _ _ (fun req hq hr _ hi => h.serveApplyOf hr req hq hi) hs ht
  | applyEngage tag =>
    exact Commands.serveIf tag _ _ (fun req hq hr _ hi => h.serveApplyOf hr req hq hi) hs ht
  | applyAction => cases ht; exact h.actIfDue hs
  | arm tag n => exact Commands.serve tag _ _ (fun req _ hr hi => h.serveArm hr n req hi) hs ht
  | disarm tag =>
    rw [Machine.exec, execDisarm] at ht
    refine Commands.serve tag _ _ (fun req _ hr hi => ?_) hs ht
    exact h.replyAfter hr _ req _ _ ((h.inService _).setArm none (h.dropSelection hi))
  | follow tag force =>
    exact Commands.serve tag _ _ (fun req _ hr hi => h.serveFollow hr force req hi) hs ht
  | cancel tag => exact Commands.serve tag _ _ (fun req _ hr hi => h.serveCancel hr req hi) hs ht
  | levelWatch tag =>
    refine Commands.serveIf tag _ _ (fun req _ hr hop hi => ?_) hs ht
    unfold serveLevelOf
    split
    · rename_i code hcode
      refine h.serveLevelWatch hc hr code ?_ req hi
      simpa [hcode, isLevelNot] using hop
    · exact hi.1
  | levelRun tag =>
    refine Commands.serveIf tag _ _ (fun req _ hr hop hi => ?_) hs ht
    unfold serveLevelOf
    split
    · rename_i code hcode
      refine h.serveLevel hr code ?_ req hi
      simpa [hcode, isLevelNot] using hop
    · exact hi.1
  | reset tag =>
    refine Commands.serve tag _ _ (fun req _ hr hi => ?_) hs ht
    exact h.raise _ _ _ (h.answer _ _ _ _ hc rfl (by rw [show (trunkReset s).trunk.replies = s.trunk.replies from rfl]; exact hr))
  | unknownRequest tag code =>
    exact Commands.serve tag _ _ (fun req _ hr hi => h.serveUnknown hr req hi) hs ht
  | resetReleased => cases ht; exact h.trunk s _ hs (by simp) (by simp)

end Sys2Proof.Machine
end

