-- ==== Sys2Proof/Laws/PageMemory.lean ====
section
/-! SUPPORT. The page memory: its canonical form is kept by every operation, and a read gives what was
written. -/

namespace Sys2Proof.Machine

/-- The canonical form, one cell at a time. -/
theorem cellsWf_cons {a : Nat} {c : Cell} {rest : List (Nat × Cell)} :
    cellsWf ((a, c) :: rest) = true ↔
      (∀ e ∈ rest, a < e.1) ∧ c ≠ blankCell ∧ cellsWf rest = true := by
  simp [cellsWf]; tauto

/-- A write lists nothing but the cell written and what was listed. -/
theorem mem_of_mem_writeCell : ∀ (m : List (Nat × Cell)) (a : Nat) (c : Cell) (e : Nat × Cell),
    e ∈ writeCell m a c → e = (a, c) ∨ e ∈ m
  | [], a, c, e, h => by unfold writeCell at h; split at h <;> simp_all
  | (b,d)::rest, a, c, e, h => by
    unfold writeCell at h
    split at h
    · split at h
      · exact .inr h
      · rcases List.mem_cons.mp h with h | h
        · exact .inl h
        · exact .inr h
    · split at h
      · split at h
        · exact .inr (.tail _ h)
        · rcases List.mem_cons.mp h with h | h
          · exact .inl h
          · exact .inr (.tail _ h)
      · rcases List.mem_cons.mp h with h | h
        · exact .inr (h ▸ .head _)
        · rcases mem_of_mem_writeCell rest a c e h with h | h
          · exact .inl h
          · exact .inr (.tail _ h)

/-- A write keeps the canonical form. -/
theorem writeCell_wf : ∀ (m : List (Nat × Cell)) (a : Nat) (c : Cell),
    cellsWf m = true → cellsWf (writeCell m a c) = true
  | [], a, c, _ => by unfold writeCell; split <;> simp_all [cellsWf]
  | (b,d)::rest, a, c, h => by
    have hw := cellsWf_cons.mp h
    unfold writeCell
    split
    · split
      · exact h
      · rename_i hab hc
        refine cellsWf_cons.mpr ⟨fun e he => ?_, hc, h⟩
        rcases List.mem_cons.mp he with he | he
        · rw [he]; exact hab
        · exact hab.trans (hw.1 e he)
    · split
      · rename_i hab
        subst hab
        split
        · exact hw.2.2
        · rename_i hc; exact cellsWf_cons.mpr ⟨hw.1, hc, hw.2.2⟩
      · rename_i h1 h2
        refine cellsWf_cons.mpr ⟨fun e he => ?_, hw.2.1, writeCell_wf rest a c hw.2.2⟩
        rcases mem_of_mem_writeCell rest a c e he with he | he
        · rw [he]; simp only; omega
        · exact hw.1 e he

/-- The write of a release keeps the canonical form. -/
theorem writeLane_wf (g : Geometry) (pages : List Nat) (r : Fn) (cells : List Cell)
    (m : List (Nat × Cell)) (h : cellsWf m = true) :
    cellsWf (writeLane g pages r cells m) = true := by
  unfold writeLane
  exact foldl_keeps (P := fun m => cellsWf m = true) (fun b k hb => writeCell_wf b _ _ hb) _ m h

/-- The page memory of the reset state has the canonical form. -/
theorem reset_cells_wf : cellsWf State.reset.store.cells = true := rfl

/-- An address below every listed one reads as blank. -/
theorem readCell_of_lt : ∀ (m : List (Nat × Cell)) (a : Nat), (∀ e ∈ m, a < e.1) → readCell m a = blankCell
  | [], _, _ => rfl
  | (b, d) :: rest, a, h => by
    have hb : a < b := h (b, d) (.head _)
    simp only [readCell]
    rw [if_neg (by omega)]
    exact readCell_of_lt rest a fun e he => h e (.tail _ he)

/-- Read after write: the cell written reads as written, every other as before. -/
theorem readCell_writeCell : ∀ (m : List (Nat × Cell)) (a : Nat) (c : Cell), cellsWf m = true →
    ∀ x, readCell (writeCell m a c) x = if x = a then c else readCell m x
  | [], a, c, _, x => by
    unfold writeCell
    split
    · rename_i hc; subst hc; simp [readCell]
    · simp [readCell]
  | (b, d) :: rest, a, c, h, x => by
    have hw := cellsWf_cons.mp h
    unfold writeCell
    split
    · rename_i hab
      split
      · rename_i hc
        subst hc
        split
        · rename_i hx
          subst hx
          exact readCell_of_lt _ _ fun e he => by
            rcases List.mem_cons.mp he with he | he
            · rw [he]; exact hab
            · exact hab.trans (hw.1 e he)
        · rfl
      · rfl
    · split
      · rename_i hab
        subst hab
        split
        · rename_i hc
          subst hc
          by_cases hx : x = a
          · subst hx; rw [if_pos rfl]; exact readCell_of_lt _ _ fun e he => hw.1 e he
          · simp [readCell, hx]
        · by_cases hx : x = a <;> simp [readCell, hx]
      · rename_i h1 h2
        simp only [readCell]
        rw [readCell_writeCell rest a c hw.2.2 x]
        by_cases hx : x = b
        · subst hx; rw [if_pos rfl, if_pos rfl, if_neg (fun e => h2 e.symm)]
        · simp [hx]

end Sys2Proof.Machine
end

