-- ==== Sys2Proof/Laws/PerInstr.lean ====
section
/-! SUPPORT. A statement about every row as syntax: a well-formed request row is what some 16-byte request
body asks (10.7). -/

namespace Sys2Proof.Laws.RowCode

open Sys2Proof Sys2Proof.Machine

/-- The request a row takes; none for a row that is no request. -/
def requestOfRow : Instr → Option RequestOp
  | .powerOnReset => none
  | .pinReset => none
  | .wakeInput => none
  | .holdAsserted => none
  | .holdDeasserted => none
  | .arrival _ _ _ _ => none
  | .miss _ => none
  | .upstreamArrival _ => none
  | .cellBrokenOff => none
  | .cellStart => none
  | .cellFinish => none
  | .status _ => some .status
  | .read _ table index => some (.read table index)
  | .step _ => some .step
  | .write _ table index => some (.write table index)
  | .writeLink _ link fields => some (.writeLink link fields)
  | .writeRoute _ route fields => some (.writeRoute route fields)
  | .writeSettings _ fields => some (.writeSettings fields)
  | .markFrom _ route => some (.markFrom route)
  | .markTo _ route => some (.markTo route)
  | .unmark _ route => some (.unmark route)
  | .applyRelease _ => some (.apply 0)
  | .applySuspend _ => some (.apply 1)
  | .applyEngage _ => some (.apply 2)
  | .applyAction => none
  | .arm _ fn => some (.arm fn)
  | .disarm _ => some .disarm
  | .follow _ force => some (.follow force)
  | .cancel _ => some .cancel
  | .levelWatch _ => some (.level 1)
  | .levelRun _ => some (.level 0)
  | .reset _ => some .reset
  | .unknownRequest _ code => some (.unknown code)
  | .resetReleased => none

/-- A well-formed request row is coded by a request body, whose first byte is its request code. -/
def Statement (i : Instr) : Prop :=
  i.wf = true → ∀ op, requestOfRow i = some op →
    ∃ body : List Byte, body.length = 16 ∧ requestOf body = op ∧ byteAt body 0 = op.code

/-- A row that is no request. -/
theorem of_none {i : Instr} (h : requestOfRow i = none) : Statement i := by
  intro _ op ho
  rw [h] at ho
  cases ho

/-- A body that codes a row's request. -/
theorem of_body {i : Instr} {op : RequestOp} (h : requestOfRow i = some op) (body : List Byte)
    (hl : body.length = 16) (hb : i.wf = true → requestOf body = op) (hc : byteAt body 0 = op.code) :
    Statement i := by
  intro hw x hx
  rw [h] at hx
  cases hx
  exact ⟨body, hl, hb hw, hc⟩

/-- The code of an unknown request names none. -/
theorem requestOf_unknown (code : Byte) (rest : List Byte) (h : knownCode code = false) :
    requestOf (code :: rest) = .unknown code := by
  have hc : ¬ (1 ≤ code.toNat ∧ code.toNat ≤ 14) := by simpa [knownCode] using h
  unfold requestOf byteAt
  simp only [List.getD_cons_zero]
  split <;> first | omega | rfl

/-- A WRITE of what is not writable keeps its table and index. -/
theorem requestOf_write (table index : Byte) (rest : List Byte) (h : writableEntry table index = false) :
    requestOf (4 :: table :: index :: rest) = .write table index := by
  simp only [writableEntry, Bool.or_eq_false_iff, Bool.and_eq_false_iff, beq_eq_false_iff_ne,
    decide_eq_false_iff_not, ne_eq] at h
  show writeOf (4 :: table :: index :: rest) = _
  unfold writeOf byteAt
  simp only [List.getD_cons_succ, List.getD_cons_zero]
  rw [if_neg (by rintro ⟨rfl, rfl⟩; simp at h), if_neg (by rintro ⟨rfl, rfl⟩; simp at h),
    dif_neg (by rintro ⟨rfl, hi⟩; simp at h; omega), if_neg (by rintro ⟨rfl, rfl⟩; simp at h)]

/-- Four addresses read back from the bytes that carry them. -/
theorem addresses_read (a b c d : BitVec 10) (head : List Byte) (h : head.length = 11) :
    let bits : BitVec 40 := a ++ b ++ c ++ d
    addressFieldsOf (head ++ [32, 24, 16, 8, 0].map fun i => bits.extractLsb' i 8) = [a, b, c, d] := by
  intro bits
  have hb : ∀ k, byteAt (head ++ [32, 24, 16, 8, 0].map fun i => bits.extractLsb' i 8) (11 + k)
      = ([32, 24, 16, 8, 0].map fun i => bits.extractLsb' i 8).getD k 0 := by
    intro k
    simp [byteAt, List.getD_eq_getElem?_getD, List.getElem?_append_right, h]
  have h0 := hb 0
  have h1 := hb 1
  have h2 := hb 2
  have h3 := hb 3
  have h4 := hb 4
  simp only [Nat.add_zero, Nat.reduceAdd] at h0 h1 h2 h3 h4
  unfold addressFieldsOf
  rw [h0, h1, h2, h3, h4]
  have whole : (bits.extractLsb' 32 8 ++ bits.extractLsb' 24 8 ++ bits.extractLsb' 16 8
      ++ bits.extractLsb' 8 8 ++ bits.extractLsb' 0 8 : BitVec 40) = bits := by
    ext i hi
    simp only [BitVec.getElem_append, BitVec.getElem_extractLsb']
    split
    · simp [BitVec.getLsbD_eq_getElem, hi]
    · split
      · rw [show 8 + (i - 8) = i by omega, BitVec.getLsbD_eq_getElem hi]
      · split
        · rw [show 16 + (i - 8 - 8) = i by omega, BitVec.getLsbD_eq_getElem hi]
        · split
          · rw [show 24 + (i - 8 - 8 - 8) = i by omega, BitVec.getLsbD_eq_getElem hi]
          · rw [show 32 + (i - 8 - 8 - 8 - 8) = i by omega, BitVec.getLsbD_eq_getElem hi]
  simp only [List.map_cons, List.map_nil, List.getD_cons_zero, List.getD_cons_succ]
  rw [whole]
  simp only [List.cons.injEq, and_true]
  refine ⟨?_, ?_, ?_, ?_⟩ <;> ext i hi <;>
    simp only [bits, BitVec.getElem_extractLsb', BitVec.getLsbD_append]
  · rw [if_neg (by omega), if_neg (by omega), if_neg (by omega), show 30 + i - 10 - 10 - 10 = i by omega,
      BitVec.getLsbD_eq_getElem hi]
  · rw [if_neg (by omega), if_neg (by omega), if_pos (by omega), show 20 + i - 10 - 10 = i by omega,
      BitVec.getLsbD_eq_getElem hi]
  · rw [if_neg (by omega), if_pos (by omega), show 10 + i - 10 = i by omega, BitVec.getLsbD_eq_getElem hi]
  · rw [if_pos (by omega), show 0 + i = i by omega, BitVec.getLsbD_eq_getElem hi]

/-- The two bytes of a two-byte field. -/
theorem word_read (w : BitVec 16) : w.extractLsb' 8 8 ++ w.extractLsb' 0 8 = w := by
  ext i hi
  simp only [BitVec.getElem_append, BitVec.getElem_extractLsb']
  split
  · simp [BitVec.getLsbD_eq_getElem, hi]
  · rw [show 8 + (i - 8) = i by omega, BitVec.getLsbD_eq_getElem hi]

theorem powerOnReset : Statement .powerOnReset := of_none rfl

theorem pinReset : Statement .pinReset := of_none rfl

theorem wakeInput : Statement .wakeInput := of_none rfl

theorem holdAsserted : Statement .holdAsserted := of_none rfl

theorem holdDeasserted : Statement .holdDeasserted := of_none rfl

theorem arrival (link : LinkId) (time : Nat) (frame : List Byte) (marks : List Bool) : Statement (.arrival link time frame marks) := of_none rfl

theorem miss (link : LinkId) : Statement (.miss link) := of_none rfl

theorem upstreamArrival (cell : List Byte) : Statement (.upstreamArrival cell) := of_none rfl

theorem cellBrokenOff : Statement .cellBrokenOff := of_none rfl

theorem cellStart : Statement .cellStart := of_none rfl

theorem cellFinish : Statement .cellFinish := of_none rfl

theorem status (tag : Tag) : Statement (.status tag) :=
  of_body rfl ([1] ++ List.replicate 15 0) rfl (fun _ => rfl) rfl

theorem read (tag : Tag) (table : Byte) (index : Byte) : Statement (.read tag table index) :=
  of_body rfl ([2, table, index] ++ List.replicate 13 0) rfl (fun _ => rfl) rfl

theorem step (tag : Tag) : Statement (.step tag) :=
  of_body rfl ([3] ++ List.replicate 15 0) rfl (fun _ => rfl) rfl

theorem write (tag : Tag) (table : Byte) (index : Byte) : Statement (.write tag table index) :=
  of_body rfl (4 :: table :: index :: List.replicate 13 0) rfl
    (fun h => requestOf_write table index _ (by simpa [Instr.wf] using h)) rfl

theorem writeLink (tag : Tag) (link : LinkId) (fields : LinkFields) : Statement (.writeLink tag link fields) := by
  refine of_body rfl ([4, 1, if link = .a then 0 else 1, fields.role, fields.expectedId.extractLsb' 8 8,
    fields.expectedId.extractLsb' 0 8] ++ List.replicate 10 0) rfl (fun _ => ?_) rfl
  have h : ∀ l, RequestOp.writeLink l
      { role := fields.role
        expectedId := fields.expectedId.extractLsb' 8 8 ++ fields.expectedId.extractLsb' 0 8 }
      = .writeLink l fields := by
    intro l
    rw [word_read]
  cases link
  · exact h .a
  · exact h .b

theorem writeRoute (tag : Tag) (route : Fin 16) (fields : RouteFields) : Statement (.writeRoute tag route fields) := by
  intro hw
  have hl : fields.addrs.length = 4 := by simpa [Instr.wf] using hw
  obtain ⟨program, component, channel, listening, pin, damage, addrCount, addrs⟩ := fields
  match addrs, hl with
  | [a, b, c, d], _ =>
    let bits : BitVec 40 := a ++ b ++ c ++ d
    let flags : Byte := (if listening then 1 else 0) ||| (if pin then 2 else 0)
    let head : List Byte := [4, 6, BitVec.ofNat 8 route.val, program.extractLsb' 8 8, program.extractLsb' 0 8,
      component, channel, flags, damage.extractLsb' 8 8, damage.extractLsb' 0 8, addrCount]
    refine of_body rfl (head ++ [32, 24, 16, 8, 0].map fun i => bits.extractLsb' i 8) rfl (fun _ => ?_) rfl hw
    have hr : (BitVec.ofNat 8 route.val).toNat = route.val := by
      simp only [BitVec.toNat_ofNat]
      have := route.isLt
      omega
    show writeOf (head ++ _) = _
    unfold writeOf
    simp only [show byteAt (head ++ [32, 24, 16, 8, 0].map fun i => bits.extractLsb' i 8) 1 = 6 from rfl,
      show byteAt (head ++ [32, 24, 16, 8, 0].map fun i => bits.extractLsb' i 8) 2 = BitVec.ofNat 8 route.val from rfl]
    rw [if_neg (fun h => absurd h.1 (by decide)), if_neg (fun h => absurd h.1 (by decide)),
      dif_pos ⟨trivial, by rw [hr]; exact route.isLt⟩]
    congr 1
    · exact Fin.ext hr
    · have hf : flags.getLsbD 0 = listening ∧ flags.getLsbD 1 = pin := by
        cases listening <;> cases pin <;> decide
      have ha := addresses_read a b c d head rfl
      show RouteFields.mk (program.extractLsb' 8 8 ++ program.extractLsb' 0 8) component channel
        (flags.getLsbD 0) (flags.getLsbD 1) (damage.extractLsb' 8 8 ++ damage.extractLsb' 0 8) addrCount
        (addressFieldsOf _) = _
      rw [word_read, word_read, hf.1, hf.2]
      exact congrArg _ ha

theorem writeSettings (tag : Tag) (fields : SettingsFields) : Statement (.writeSettings tag fields) := by
  obtain ⟨warn, drop, hysteresis, window, autoSwap, follow, dwell, announce, wake, coast, assembly, live⟩ := fields
  refine of_body rfl ([4, 9, 0, warn, drop, hysteresis ++ window, autoSwap ++ follow ++ 0#4, dwell, announce, wake,
    coast.extractLsb' 8 8, coast.extractLsb' 0 8, assembly.extractLsb' 8 8, assembly.extractLsb' 0 8,
    live.extractLsb' 8 8, live.extractLsb' 0 8]) rfl (fun _ => ?_) rfl
  show RequestOp.writeSettings
    { warn := warn, drop := drop, hysteresis := (hysteresis ++ window).extractLsb' 2 6
      window := (hysteresis ++ window).extractLsb' 0 2
      autoSwap := (autoSwap ++ follow ++ 0#4 : BitVec 8).extractLsb' 6 2
      follow := (autoSwap ++ follow ++ 0#4 : BitVec 8).extractLsb' 4 2
      dwell := dwell, announce := announce, wake := wake
      coast := coast.extractLsb' 8 8 ++ coast.extractLsb' 0 8
      assembly := assembly.extractLsb' 8 8 ++ assembly.extractLsb' 0 8
      liveRefresh := live.extractLsb' 8 8 ++ live.extractLsb' 0 8 } = _
  rw [word_read, word_read, word_read]
  congr 2
  all_goals
    ext i hi
    simp only [BitVec.getElem_extractLsb', BitVec.getLsbD_append]
  · rw [if_neg (by omega), show 2 + i - 2 = i by omega, BitVec.getLsbD_eq_getElem hi]
  · rw [if_pos (by omega), show 0 + i = i by omega, BitVec.getLsbD_eq_getElem hi]
  · rw [if_neg (by omega), if_neg (by omega), show 6 + i - 4 - 2 = i by omega, BitVec.getLsbD_eq_getElem hi]
  · rw [if_neg (by omega), if_pos (by omega), show 4 + i - 4 = i by omega, BitVec.getLsbD_eq_getElem hi]

theorem markFrom (tag : Tag) (route : Byte) : Statement (.markFrom tag route) :=
  of_body rfl ([5, route] ++ List.replicate 14 0) rfl (fun _ => rfl) rfl

theorem markTo (tag : Tag) (route : Byte) : Statement (.markTo tag route) :=
  of_body rfl ([6, route] ++ List.replicate 14 0) rfl (fun _ => rfl) rfl

theorem unmark (tag : Tag) (route : Byte) : Statement (.unmark tag route) :=
  of_body rfl ([7, route] ++ List.replicate 14 0) rfl (fun _ => rfl) rfl

theorem applyRelease (tag : Tag) : Statement (.applyRelease tag) :=
  of_body rfl ([8, 0] ++ List.replicate 14 0) rfl (fun _ => rfl) rfl

theorem applySuspend (tag : Tag) : Statement (.applySuspend tag) :=
  of_body rfl ([8, 1] ++ List.replicate 14 0) rfl (fun _ => rfl) rfl

theorem applyEngage (tag : Tag) : Statement (.applyEngage tag) :=
  of_body rfl ([8, 2] ++ List.replicate 14 0) rfl (fun _ => rfl) rfl

theorem applyAction : Statement .applyAction := of_none rfl

theorem arm (tag : Tag) (fn : Fn) : Statement (.arm tag fn) := by
  refine of_body rfl ([9, (0#4 ++ fn).extractLsb' 8 8, (0#4 ++ fn).extractLsb' 0 8] ++ List.replicate 13 0) rfl
    (fun _ => ?_) rfl
  show RequestOp.arm ((((0#4 ++ fn : BitVec 16).extractLsb' 8 8 ++ (0#4 ++ fn : BitVec 16).extractLsb' 0 8
    : BitVec 16)).extractLsb' 0 12) = .arm fn
  rw [word_read (0#4 ++ fn)]
  congr 1
  ext i hi
  simp only [BitVec.getElem_extractLsb', BitVec.getLsbD_append]
  rw [if_pos (by omega), show 0 + i = i by omega, BitVec.getLsbD_eq_getElem hi]

theorem disarm (tag : Tag) : Statement (.disarm tag) :=
  of_body rfl ([10] ++ List.replicate 15 0) rfl (fun _ => rfl) rfl

theorem follow (tag : Tag) (force : Bool) : Statement (.follow tag force) :=
  of_body rfl ([11, if force then 1 else 0] ++ List.replicate 14 0) rfl (fun _ => by cases force <;> rfl) rfl

theorem cancel (tag : Tag) : Statement (.cancel tag) :=
  of_body rfl ([12] ++ List.replicate 15 0) rfl (fun _ => rfl) rfl

theorem levelWatch (tag : Tag) : Statement (.levelWatch tag) :=
  of_body rfl ([13, 1] ++ List.replicate 14 0) rfl (fun _ => rfl) rfl

theorem levelRun (tag : Tag) : Statement (.levelRun tag) :=
  of_body rfl ([13, 0] ++ List.replicate 14 0) rfl (fun _ => rfl) rfl

theorem reset (tag : Tag) : Statement (.reset tag) :=
  of_body rfl ([14] ++ List.replicate 15 0) rfl (fun _ => rfl) rfl

theorem unknownRequest (tag : Tag) (code : Byte) : Statement (.unknownRequest tag code) :=
  of_body rfl (code :: List.replicate 15 0) rfl
    (fun h => requestOf_unknown code _ (by simpa [Instr.wf] using h)) rfl

theorem resetReleased : Statement .resetReleased := of_none rfl

end Sys2Proof.Laws.RowCode
end

