-- ==== Sys2Proof/Laws/Requests.lean ====
section
/-! SUPPORT. Taking and answering requests: what a served row is, and what an answer does. -/

namespace Sys2Proof.Machine

/-- A row whose request is the one that may be taken runs its body. -/
theorem serve_of_serves {s : State} {tag : Tag} {op : RequestOp} {body : Request → State → State}
    (h : s.Serves { tag := tag, op := op }) :
    serve tag op body s = .next (body { tag := tag, op := op } s) := by
  obtain ⟨hq, hh, hr⟩ := h
  unfold serve serveIf
  cases hs : s.mgmt.requests with
  | nil => simp [hs] at hq
  | cons a rest =>
    simp only [hs, List.head?_cons, Option.some.injEq] at hq
    subst hq
    simp [canServe, hh, hr]

/-- The same for a row that takes more than one content. -/
theorem serveIf_of_serves {s : State} {req : Request} {isOp : RequestOp → Bool}
    {body : Request → State → State} (h : s.Serves req) (ho : isOp req.op = true) :
    serveIf req.tag isOp body s = .next (body req s) := by
  obtain ⟨hq, hh, hr⟩ := h
  unfold serveIf
  cases hs : s.mgmt.requests with
  | nil => simp [hs] at hq
  | cons a rest =>
    simp only [hs, List.head?_cons, Option.some.injEq] at hq
    subst hq
    simp [canServe, hh, hr, ho]

/-- With no evaluation due, the end of a step is nothing. -/
theorem settle_of_quiescent {s : State} (h : s.quiescent) : settle s = s := by simp [settle, h.2]

/-- With no handover decided, the end of an event is nothing. -/
theorem finishEvent_of_quiescent {s : State} (h : s.quiescent) : finishEvent s = s := by
  simp [finishEvent, h.1]

section Answer

variable (req : Request) (last : LastFlags) (cells : List (List Byte)) (s : State)

@[simp] theorem answer_requests : (answer req last cells s).mgmt.requests = s.mgmt.requests.drop 1 := rfl
@[simp] theorem answer_last : (answer req last cells s).mgmt.last = last := rfl
@[simp] theorem answer_held : (answer req last cells s).mgmt.held = s.mgmt.held := rfl
@[simp] theorem answer_settings : (answer req last cells s).mgmt.settings = s.mgmt.settings := rfl
@[simp] theorem answer_sticky : (answer req last cells s).mgmt.sticky = s.mgmt.sticky := rfl
@[simp] theorem answer_notices : (answer req last cells s).trunk.notices = s.trunk.notices := rfl
@[simp] theorem answer_replies_length :
    (answer req last cells s).trunk.replies.length = s.trunk.replies.length + 1 := by simp [answer]
@[simp] theorem answer_routes : (answer req last cells s).routes = s.routes := rfl
@[simp] theorem answer_ann : (answer req last cells s).ann = s.ann := rfl
@[simp] theorem answer_linkA : (answer req last cells s).linkA = s.linkA := rfl
@[simp] theorem answer_linkB : (answer req last cells s).linkB = s.linkB := rfl
@[simp] theorem answer_merge : (answer req last cells s).merge = s.merge := rfl
@[simp] theorem answer_roles : (answer req last cells s).roles = s.roles := rfl
@[simp] theorem answer_leadTracker : (answer req last cells s).leadTracker = s.leadTracker := rfl
@[simp] theorem answer_scoutTracker : (answer req last cells s).scoutTracker = s.scoutTracker := rfl
@[simp] theorem answer_store : (answer req last cells s).store = s.store := rfl
@[simp] theorem answer_packets : (answer req last cells s).packets = s.packets := rfl

end Answer

end Sys2Proof.Machine
end

