-- ==== Sys2Proof/Tests/Slice0.lean ====
section
/-! SUPPORT. Tests: ill-formed commands, the checks and worked examples of spec/, and for every statement
with hypotheses a state and operands that meet them. -/

namespace Sys2Proof.Tests

-- One kernel evaluation at a time: several at once hold too many threads.
set_option Elab.async false

open Sys2Proof.Machine

/-! ### Helpers -/

/-- A byte or word as bytes, most significant first. -/
def two (x : BitVec 16) : List Byte := [x.extractLsb' 8 8, x.extractLsb' 0 8]

/-- A frame header (10.2) with a good check: map version 0, countdown 0. -/
def headerBytes (mux fn : BitVec 16) (q : Byte) : List Byte :=
  let h := [0xB4, 0x6E, 0x1D, 0x93] ++ two mux ++ two fn ++ [0, 0, q, 0, 0, 0]
  h ++ two (crc16 h)

/-- A frame with that header and zeros behind it. -/
def frameOf (mux fn : BitVec 16) (q : Byte) : List Byte := headerBytes mux fn q ++ List.replicate 11616 0

/-- No cell erased. -/
def clean : List Bool := List.replicate 720 false

/-- The sizes of an arrival. -/
theorem arrival_sizes (mux fn : BitVec 16) (q : Byte) :
    (frameOf mux fn q).length = frameBytes ∧ clean.length = frameCells := by
  have h : (headerBytes mux fn q).length = 16 := rfl
  refine ⟨?_, List.length_replicate⟩
  simp only [frameOf, List.length_append, List.length_replicate, h, frameBytes]

/-- An upstream REQUEST cell (10.5) with this tag and body, and a good check. -/
def requestCell (tag : Byte) (body : List Byte) : List Byte :=
  let t : BitVec 16 := tag.setWidth 16 <<< 6
  let b := body ++ List.replicate (16 - body.length) 0
  0 :: two t ++ [crc8 (0 :: two t ++ b)] ++ b

/-- The outcome is a next state that passes the test. -/
def nextIs (p : State → Bool) : Host.Outcome State Fault Refusal → Bool
  | .next s => p s
  | .fault _ => false
  | .refused _ => false

/-- An outcome that passes a test is a next state. -/
theorem isNext {p : State → Bool} {o : Host.Outcome State Fault Refusal} (h : nextIs p o = true) :
    ∃ t, o = .next t := by
  cases o with
  | next s => exact ⟨s, rfl⟩
  | fault r => cases h
  | refused r => cases h

/-- s with one request in the queue, tag 7. -/
def asked (s : State) (op : RequestOp) : State :=
  { s with mgmt := { s.mgmt with requests := [{ tag := 7, op := op }] } }

/-- s with link entry x on link l. -/
def withLink (s : State) (l : LinkId) (x : Link) : State := s.setLink l x

/-- A link LOCKED on a multiplex, its last FN and its due time given. -/
def lockedLink (role : Role) (mux : Id16) (last : Fn) (due : Nat) : Link :=
  { Link.reset role with
    followedId := mux, sync := .locked, lastFn := some last, due := some due
    window := some { first := due - 768000, latest := due - 768000, count := 0, sum := 0 }
    score := 1600, quality := 200, level := .good
    lastHeader := some { mapVersion := 5, countdown := 0, nextVersion := 0 } }

/-! ### Ill-formed commands, and the rows without bits -/

theorem test_arrival_short_frame : (Instr.arrival .a 0 [] clean).wf = false := by decide
theorem test_arrival_short_marks :
    (Instr.arrival .a 0 (frameOf 1 1 1) []).wf = false := by
  simp only [Instr.wf, (arrival_sizes 1 1 1).1]; decide
theorem test_arrival_refused :
    exec (.arrival .a 0 [0xB4, 0x6E] clean) State.reset = .fault .malformedFrame := rfl
theorem test_upstream_short_cell : (Instr.upstreamArrival [0, 0, 0]).wf = false := by decide
theorem test_upstream_refused :
    exec (.upstreamArrival [0, 0, 0]) State.reset = .fault .malformedCell := rfl
theorem test_write_of_writable : (Instr.write 7 6 15).wf = false ∧ (Instr.write 7 6 16).wf = true := by decide
theorem test_route_three_addresses :
    (Instr.writeRoute 7 0
      { program := 1, component := 0, channel := 1, listening := false, pin := false, damage := 0
        addrCount := 0, addrs := [1, 2, 3] }).wf = false := by decide
theorem test_unknown_of_known : (Instr.unknownRequest 7 14).wf = false ∧ (Instr.unknownRequest 7 15).wf = true := by
  decide
theorem test_no_word_spells : decodeTableWord 8 0 = none ∧ State.reset.withFetchWord 8 0 = State.reset := by
  decide +kernel

/-! ### Checks (R181; the usual check values of the two codes over "123456789") -/

theorem test_crc16 : crc16 [0x31, 0x32, 0x33, 0x34, 0x35, 0x36, 0x37, 0x38, 0x39] = 0x29B1 := by decide +kernel
theorem test_crc8 : crc8 [0x31, 0x32, 0x33, 0x34, 0x35, 0x36, 0x37, 0x38, 0x39] = 0xF4 := by decide +kernel

/-! ### Worked examples of spec 01 -/

/-- 1.6: the skip terms of x = 517. -/
theorem test_fast_window_skips :
    (List.range 16).map (skipTerm 5) = [0, 0, 0, 1, 0, 0, 1, 0, 0, 1, 0, 0, 1, 0, 0, 1] := by decide

/-- 1.6: x, c, f and the periods of the slow window. -/
theorem test_slow_window :
    let x := { Link.reset .lead with trim := trimOf 12287963 }
    x.trim = -37 ∧ x.period 0 = 767997 ∧ x.period 1 = 767998
      ∧ ((List.range 16).map x.period).sum = 12287963 := by decide

/-- 1.6: the clamped window. -/
theorem test_clamped_window :
    let x := { Link.reset .lead with trim := trimOf 12290000 }
    x.trim = 1279 ∧ x.period 0 = 768079 ∧ x.period 15 = 768080 := by decide

/-- 1.6: a miss with trim: x = 517, j = 3, due 1,000,000. -/
theorem test_miss_with_trim :
    nextIs (fun t => t.linkA.due == some 1768033 && t.linkA.phase == 4 && t.clock == 1096000
        && t.linkA.lastFn == some 8 && t.linkA.sync == .coast)
      (exec (.miss .a) (withLink State.reset .a
        { lockedLink .lead 0x4A21 7 1000000 with trim := 517, phase := 3 })) = true := by decide +kernel

/-- 1.7: the fading link, q = 40 from S = 960: update 3 makes it WEAK, update 18 POOR. -/
theorem test_fading_link :
    let after := fun (n : Nat) => (updateQuality .a 40)^[n] (withLink State.reset .a
      { lockedLink .lead 0x4A21 7 1000000 with score := 960, quality := 120 })
    [2, 3, 17, 18].map (fun n => ((after n).linkA.score, (after n).linkA.quality, (after n).linkA.level))
      = [(810, 101, .good), (749, 93, .weak), (389, 48, .weak), (381, 47, .poor)] := by decide +kernel

/-- 1.8: the frame with FN 1005 after the misses up to FN 1002. -/
theorem test_gap_of_two :
    nextIs (fun t => t.linkA.score == 899 && t.linkA.quality == 112 && t.linkA.sync == .locked
        && t.linkA.due == some 13158000 && t.linkA.phase == 11 && t.linkA.lastFn == some 1005)
      (exec (.arrival .a 12390000 (frameOf 0x4A21 1005 180) clean) (withLink State.reset .a
        { lockedLink .lead 0x4A21 1002 12304000 with
          sync := .coast, window := none, phase := 10, score := 1072, quality := 134 })) = true := by
  decide +kernel

/-! ### Worked examples of specs 03 to 09 -/

/-- 3.6: A's 20 misses take its score from 1600 to 113, POOR at the eleventh. -/
theorem test_tunnel :
    let after := fun (n : Nat) => (Link.afterMiss Settings.defaults)^[n] (lockedLink .lead 0x4A21 2999 0)
    (after 10).level = .weak ∧ (after 11).score = 371 ∧ (after 11).level = .poor ∧ (after 20).score = 113 := by
  decide +kernel

/-- 4.8: page needs. -/
theorem test_page_needs :
    [(360, 8), (300, 8), (60, 4), (360, 16), (60, 8)].map
      (fun x => pageNeed { start := 0, size := x.1, depth := x.2 }) = [45, 38, 4, 90, 8] := by decide

/-- 4.7: the slots of release 1000 for D = 4, and of cell 3 at release 2. -/
theorem test_slots :
    (List.range 6).map (fun k => slotOf 1000 k 4) = [0, 3, 2, 1, 0, 3] ∧ slotOf 2 3 4 = 3
      ∧ logicalFn 2 4 = 4095 := by decide

/-- 5.5: the damage limit is the last erased count that is only DAMAGED. -/
theorem test_unit_kinds : [0, 1, 72, 73].map (unitKind 72) = [.full, .damaged, .damaged, .lost] := by decide

/-- s with one request in the queue and no reply. -/
def marking (tag : Tag) (op : RequestOp) (s : State) : State :=
  { s with
    mgmt := { s.mgmt with requests := [{ tag := tag, op := op }] }
    trunk := { s.trunk with replies := [] } }

/-- The next state, or the state it had. -/
def after (o : Host.Outcome State Fault Refusal) (s : State) : State :=
  match o with
  | .next t => t
  | .fault _ => s
  | .refused _ => s

/-- 5.9: MARK-FROM 2, MARK-TO 7, UNMARK 5, then UNMARK 9 is refused RANGE. -/
theorem test_suspending_a_block :
    let s := marking 11 (.markFrom 2) State.reset
    let s := after (exec (.markFrom 11 2) s) s
    let s := marking 12 (.markTo 7) s
    let s := after (exec (.markTo 12 7) s) s
    let s := marking 13 (.unmark 5) s
    let s := after (exec (.unmark 13 5) s) s
    let s := marking 14 (.unmark 9) s
    nextIs (fun t => t.mgmt.last.outcome == .range && t.mgmt.selection ==
      { phase := .toSet, first := some 2, last := some 7, unmarked := [5] }) (exec (.unmark 14 9) s) = true := by
  decide +kernel

/-- A queued GAP unit, whose only cell is its opener. -/
def gapItem (channel : Nat) : Item :=
  { channel := channel, started := 0
    content := .ofUnit
      { number := 5, logical := 5, kind := .gap, erased := 3, source := 8, sourceChanged := false
        runStart := false, body := [] } }

/-- A queued group of 20 bytes. -/
def groupItem (channel : Nat) : Item :=
  { channel := channel, started := 0
    content := .ofGroup { address := 3, number := 5, runStart := false, bytes := List.replicate 20 0 } }

/-- 8.8: routes 0, 3 and 5 have items and the pointer is at 3. -/
def arbitrating : State :=
  let s := (State.reset.modRoute 0 fun r => { r with queue := [gapItem 1] }).modRoute 3 fun r =>
    { r with queue := [gapItem 4] }
  let s := s.modRoute 5 fun r => { r with queue := [groupItem 6] }
  { s with trunk := { s.trunk with notices := [], pointer := some 3 } }

theorem test_round_robin : nextRoute arbitrating = some 5
    ∧ nextRoute { arbitrating with trunk := { arbitrating.trunk with pointer := some 5 } } = some 0
    ∧ nextRoute { arbitrating with trunk := { arbitrating.trunk with pointer := some 0 } } = some 3 := by
  decide +kernel

/-- 8.8, slots 1 and 7: the opener of the group, then its first body cell on the same channel. -/
theorem test_group_cells : (groupItem 6).cellCount = 3
    ∧ nextIs (fun t => t.trunk.pointer == some 5 && (t.trunk.line.map LineCell.origin) == some (.route 5)
        && ((t.route 5).queue.map Item.started) == [1]) (exec .cellStart arbitrating) = true := by
  decide +kernel

/-- 9.9: the STATUS with tag 1 comes in and is answered in two cells. -/
theorem test_status_comes_in :
    let s := after (exec (.upstreamArrival (requestCell 1 [1])) State.reset) State.reset
    s.mgmt.requests = [{ tag := 1, op := .status }]
      ∧ nextIs (fun t => t.mgmt.requests == []
          && (t.trunk.replies.map fun r => (r.tag, r.cells.length)) == [(1, 2)]) (exec (.status 1) s) = true := by
  decide +kernel

/-- 9.9: with two replies queued a READ waits; with four requests queued the next one is lost. -/
theorem test_requests_through_a_hold :
    let r : Reply := { tag := 1, cells := [[], []], started := 0 }
    let s := { State.reset with trunk := { State.reset.trunk with replies := [r, r] } }
    let w := asked s (.read 6 0)
    let full := { s with mgmt := { s.mgmt with requests := List.replicate 4 { tag := 3, op := .step } } }
    nextIs (fun t => t == w) (exec (.read 7 6 0) w) = true
      ∧ nextIs (fun t => t.mgmt.requests.length == 4 && t.mgmt.sticky.requestLost)
          (exec (.upstreamArrival (requestCell 7 [3])) full) = true := by
  decide +kernel

/-- The page memory: read after write, and the canonical form (4.2; log 2). -/
theorem test_page_memory :
    let c : Cell := { bytes := List.replicate 16 7, erased := true }
    let m := writeCell (writeCell [] 70 c) 5 c
    readCell m 5 = c ∧ readCell m 6 = blankCell ∧ m.map Prod.fst = [5, 70] ∧ writeCell m 70 blankCell = [(5, c)] := by
  decide +kernel

/-! ### Witnesses: the part as a whole and frame intake (spec 01) -/

/-- A part at work: A LEAD and LOCKED, B PARTNER and LOCKED, a map of one lane, host route 0 listening and
RUNNING with one page and a group of 20 bytes in its queue, an open assembly, a live announcement. -/
def running : State :=
  let lane : Lane := { id := 5, geometry := { start := 0, size := 60, depth := 1 }, form := .packet }
  let program : Program := { id := 0x2101, label := [], primary := 5, companions := [], cluster := 4 }
  let s := withLink (withLink State.reset .a (lockedLink .lead 0x4A21 100 768000)) .b
    (lockedLink .partner 0x4A21 100 768000)
  let s := s.modRoute 0 fun r =>
    { r with
      program := 0x2101, listening := true, state := .running, bound := some lane, run := true
      pages := [0], geometry := some lane.geometry, fill := 1, tallies := [0], queue := [groupItem 1] }
  { s with
    leadTracker :=
      { map := some { version := 5, lanes := [lane], programs := [program], alternates := [] }
        collection := none, target := none, lastFn := some 100 }
    merge := { s.merge with releasePoint := some 100, lastRelease := some (100, 200) }
    store := { cells := [(3, { bytes := List.replicate 16 7, erased := false })], refusals := 0 }
    packets :=
      { table := s.packets.table.set 0 (some
          { route := 0, address := 3, continuity := 1, declared := 100, bytes := List.replicate 59 0
            lastProgress := 100 })
        order := [0] }
    ann :=
      { s.ann with
        live := s.ann.live.set 0 (some
          { cluster := 4, cls := 1, lane := 5, lastSeen := 90, dismissed := false, quiet := false
            noted := .none })
        stack := [{ cls := none, cluster := 4, lane := some 5, start := some 50 }], onAir := some 0 }
    pending := [.miss .a] }

theorem running_steps : ∃ t, step running = .next t :=
  isNext (p := fun t => t.linkA.sync == .coast) (by decide +kernel)

/-- The step of `running` is no empty one: it makes a release. -/
theorem running_releases :
    nextIs (fun t => t.merge.waiting.length == 1 && t.linkA.consecutive == 1) (step running) = true := by
  decide +kernel

theorem witness_StepTakesFront :
    running.pending = .miss .a :: [] ∧ State.reset.pending = [] ∧ ∃ t, exec (.miss .a) running = .next t :=
  ⟨rfl, rfl, isNext (p := fun _ => true) (by decide +kernel)⟩

theorem serves_asked (s : State) (op : RequestOp) (hh : s.mgmt.held = none) (hr : s.trunk.replies.length < 2) :
    (asked s op).Serves { tag := 7, op := op } := ⟨rfl, hh, hr⟩

theorem witness_TrunkReset : (asked running .reset).Serves { tag := 7, op := .reset } :=
  serves_asked _ _ rfl (by decide)

theorem witness_ArrivalDiscarded_off : State.reset.quiescent ∧ (State.reset.link .b).role = .off :=
  ⟨⟨rfl, rfl⟩, rfl⟩

/-- Each way a frame can be invalid. -/
theorem witness_ArrivalDiscarded_invalid :
    (State.reset.link .a).role ≠ .off ∧
    ((0 :: (frameOf 1 1 1).tail).take 4 ≠ [0xB4, 0x6E, 0x1D, 0x93]) ∧
    (let f := (frameOf 1 1 1).set 15 0; wordAt f 14 ≠ crc16 (f.take 14)) ∧
    wordAt (frameOf 0x0000 1 1) 4 = 0x0000 ∧ wordAt (frameOf 0xFFFF 1 1) 4 = 0xFFFF := by decide +kernel

theorem witness_ArrivalDiscarded_foreign :
    let s := withLink State.reset .a { Link.reset .lead with expectedId := 0x1111 }
    s.quiescent ∧ (s.link .a).role ≠ .off ∧ frameValid (frameOf 0x2222 1 1) = true ∧ (s.link .a).expectedId ≠ 0
      ∧ wordAt (frameOf 0x2222 1 1) 4 ≠ (s.link .a).expectedId :=
  ⟨⟨rfl, rfl⟩, by decide +kernel⟩

/-- A locked link hears a frame of any multiplex while it expects none. -/
theorem running_hears (mux fn : BitVec 16) (h : frameValid (frameOf mux fn 9) = true) :
    (running.link .a).Hears (frameOf mux fn 9) := ⟨by decide, h, .inl rfl⟩

/-- FNs 100 and 94 are the nearest and the farthest late ones when 101 is expected. -/
theorem witness_ArrivalDiscarded_late : running.quiescent ∧ (running.link .a).synced = true ∧
    ∀ fn ∈ [(100 : BitVec 16), 94],
      (running.link .a).Hears (frameOf 0x4A21 fn 9) ∧
      (running.link .a).followedId = (decodeFrame (frameOf 0x4A21 fn 9) clean).mux ∧
      4089 ≤ fnDist (running.link .a).expected (decodeFrame (frameOf 0x4A21 fn 9) clean).fn := by
  refine ⟨⟨rfl, rfl⟩, rfl, fun fn hf => ?_⟩
  rcases List.mem_pair.mp hf with rfl | rfl
  · exact ⟨running_hears _ _ (by decide +kernel), by decide +kernel⟩
  · exact ⟨running_hears _ _ (by decide +kernel), by decide +kernel⟩

/-- A link in CONFIRM after n frames, the last of them FN 41. -/
def confirming (n : Nat) : State :=
  withLink State.reset .a
    { Link.reset .lead with followedId := 0x4A21, sync := .confirm, confirmCount := n, lastFn := some 41 }

theorem confirming_hears (n : Nat) (mux fn : BitVec 16) (h : frameValid (frameOf mux fn 9) = true) :
    ((confirming n).link .a).Hears (frameOf mux fn 9) := ⟨Role.noConfusion, h, .inl rfl⟩

theorem witness_ConfirmationCounts :
    State.reset.quiescent ∧ (State.reset.link .a).Hears (frameOf 0x4A21 42 9) ∧
    (State.reset.link .a).sync = .hunt ∧ (State.reset.link .a).followedId = 0 ∧
    (∀ n, (confirming n).quiescent) ∧
    ((confirming 1).link .a).Hears (frameOf 0x4A21 42 9) ∧ ((confirming 1).link .a).sync = .confirm ∧
    ((confirming 1).link .a).followedId = (decodeFrame (frameOf 0x4A21 42 9) clean).mux ∧
    ((confirming 1).link .a).lastFn.map (· + 1) = some (decodeFrame (frameOf 0x4A21 42 9) clean).fn ∧
    ((confirming 1).link .a).confirmCount < 2 ∧
    ((confirming 2).link .a).Hears (frameOf 0x4A21 43 9) ∧
    ((confirming 2).link .a).lastFn.map (· + 1) ≠ some (decodeFrame (frameOf 0x4A21 43 9) clean).fn :=
  ⟨⟨rfl, rfl⟩, ⟨by decide, by decide +kernel, .inl rfl⟩, rfl, rfl, fun _ => ⟨rfl, rfl⟩,
    confirming_hears _ _ _ (by decide +kernel), rfl, by decide +kernel, by decide +kernel, by decide +kernel,
    confirming_hears _ _ _ (by decide +kernel), by decide +kernel⟩

theorem witness_ThirdFrameLocks :
    ((confirming 2).link .a).Hears (frameOf 0x4A21 42 9) ∧ ((confirming 2).link .a).sync = .confirm ∧
    ((confirming 2).link .a).followedId = (decodeFrame (frameOf 0x4A21 42 9) clean).mux ∧
    ((confirming 2).link .a).lastFn.map (· + 1) = some (decodeFrame (frameOf 0x4A21 42 9) clean).fn ∧
    ((confirming 2).link .a).confirmCount = 2 :=
  ⟨confirming_hears _ _ _ (by decide +kernel), by decide +kernel⟩

/-- The expected frame 101, and frame 108, 7 FNs ahead. -/
theorem witness_FrameTaken :
    ∀ fn ∈ [(101 : BitVec 16), 108],
      let x := running.link .a
      let f := decodeFrame (frameOf 0x4A21 fn 9) clean
      x.Hears (frameOf 0x4A21 fn 9) ∧ x.synced = true ∧ x.followedId = f.mux ∧ fnDist x.expected f.fn ≤ 7 ∧
      (1 ≤ fnDist x.expected f.fn → x.consecutive + fnDist x.expected f.fn < running.mgmt.settings.coast) := by
  intro fn hf
  rcases List.mem_pair.mp hf with rfl | rfl
  · exact ⟨running_hears _ _ (by decide +kernel), by decide +kernel⟩
  · exact ⟨running_hears _ _ (by decide +kernel), by decide +kernel⟩

/-- A frame of another multiplex, and frames 109 and 93 at distances 8 and 4088. -/
theorem witness_FarFrameResyncs :
    let x := running.link .a
    x.synced = true ∧
    (x.Hears (frameOf 0x1111 101 9) ∧ x.followedId ≠ (decodeFrame (frameOf 0x1111 101 9) clean).mux) ∧
    ∀ fn ∈ [(109 : BitVec 16), 93],
      x.Hears (frameOf 0x4A21 fn 9) ∧
      (8 ≤ fnDist x.expected (decodeFrame (frameOf 0x4A21 fn 9) clean).fn ∧
        fnDist x.expected (decodeFrame (frameOf 0x4A21 fn 9) clean).fn ≤ 4088) := by
  refine ⟨rfl, ⟨running_hears _ _ (by decide +kernel), by decide +kernel⟩, fun fn hf => ?_⟩
  rcases List.mem_pair.mp hf with rfl | rfl
  · exact ⟨running_hears _ _ (by decide +kernel), by decide +kernel⟩
  · exact ⟨running_hears _ _ (by decide +kernel), by decide +kernel⟩

/-- No due time; 248 misses and a coast limit of 250; 249 misses. -/
theorem witness_TimerExpiry :
    let fading := fun (n : Nat) => { lockedLink .lead 0x4A21 7 1000 with sync := .coast, consecutive := n }
    (State.reset.link .a).due = none ∧
    (fading 248).due = some 1000 ∧ (fading 248).synced = true ∧
    (fading 248).consecutive + 1 < Settings.defaults.coast ∧
    (fading 249).synced = true ∧ Settings.defaults.coast ≤ (fading 249).consecutive + 1 := by decide

theorem witness_TrimPeriods :
    ∀ t ∈ [(-1280 : Int), -37, 0, 517, 1279],
      let x := { Link.reset .lead with trim := t }
      (-1280 ≤ x.trim) ∧ x.trim ≤ 1279 := by decide

/-- 1.6, the fast window: the sixteenth interval completes a sum of 12,288,517. -/
theorem witness_WindowInstallsTrim :
    let w : Window := { first := 0, latest := 11520000, count := 15, sum := 11520000 }
    let x := { lockedLink .lead 0x4A21 7 12288000 with window := some w }
    x.sync = .locked ∧ x.window = some w ∧ w.count = 15 ∧ (x.timeTaken 12288517).trim = 517 := by
  decide +kernel

/-- A locked link of `lockedLink` is coherent. -/
theorem locked_coherent (role : Role) (mux : Id16) (last : Fn) (due : Nat) :
    (lockedLink role mux last due).Coherent where
  unsynced h := by cases h
  synced _ := ⟨rfl, rfl, QLevel.noConfusion⟩
  coast h := by cases h
  score := show 1600 ≤ 2040 by omega
  quality := show 200 = 1600 / 8 by omega
  trim := show (-1280 : Int) ≤ 0 ∧ (0 : Int) ≤ 1279 by omega
  phase := show 0 < 16 by decide
  window w h := by
    have : w.count = 0 := by rw [← Option.some.inj h]
    rw [this]; exact Nat.zero_le _

theorem witness_LinksStayCoherent : running.linksCoherent ∧ ∃ t, step running = .next t :=
  ⟨⟨locked_coherent _ _ _ _, locked_coherent _ _ _ _⟩, running_steps⟩

/-! ### Witnesses: the multiplex map (spec 02) -/

theorem witness_ScoutStaysApart :
    let s := withLink running .b (lockedLink .scout 0x5555 100 768000)
    (s.link .b).role = .scout ∧ s.quiescent := ⟨rfl, rfl, rfl⟩

/-- The map of `running`. -/
def oneMap : MuxMap :=
  { version := 5, lanes := [{ id := 5, geometry := { start := 0, size := 60, depth := 1 }, form := .packet }]
    programs := [{ id := 0x2101, label := [], primary := 5, companions := [], cluster := 4 }], alternates := [] }

/-- A collection of version 6, marked complete or not. -/
def sixth (complete : Bool) : Collection := { version := 6, records := [], summary := none, complete := complete }

/-- `running` with this lead tracker. -/
def tracking (map : Option MuxMap) (c : Option Collection) (target : Option SwitchTarget) : State :=
  { running with leadTracker := { map := map, collection := c, target := target, lastFn := some 100 } }

/-- A released frame of FN 101 with this map version and countdown. -/
def released (version countdown : Nat) : Frame :=
  { substituteFrame 101 0x4A21 { mapVersion := version, countdown := countdown, nextVersion := 6 } with
    real := true }

/-- A target at another FN; one at this FN with its map complete, incomplete and with no collection; a
countdown of 0 and of 31; no target. -/
theorem witness_SwitchAndCountdown :
    let g : SwitchTarget := { fn := 101, version := 6 }
    let s := fun (c : Option Collection) => tracking (some oneMap) c (some g)
    ((tracking (some oneMap) none (some { fn := 105, version := 6 })).tracker .lead).target =
      some { fn := 105, version := 6 } ∧ (105 : Fn) ≠ (released 5 0).fn ∧
    ((s (some (sixth true))).tracker .lead).target = some g ∧ g.fn = (released 6 0).fn ∧
    ((s (some (sixth true))).tracker .lead).collection = some (sixth true) ∧
    (sixth true).complete = true ∧ (sixth true).version = g.version ∧
    (∀ c, ((s (some (sixth false))).tracker .lead).collection = some c →
      ¬ (c.complete = true ∧ c.version = g.version)) ∧
    (∀ c, ((s none).tracker .lead).collection = some c → ¬ (c.complete = true ∧ c.version = g.version)) ∧
    ((s none).tracker .lead).map = some oneMap ∧
    (released 6 0).header.countdown = 0 ∧ (released 6 31).header.countdown ≠ 0 ∧
    ((tracking (some oneMap) none none).tracker .lead).target = none :=
  ⟨rfl, by decide, rfl, rfl, rfl, rfl, rfl, fun _ h => by cases h; simp [sixth], fun _ h => (by cases h),
    rfl, rfl, by decide, rfl⟩

theorem witness_VersionCheck :
    let m := fun (s : State) => (s.tracker .lead).map
    let c := fun (s : State) => (s.tracker .lead).collection
    m (tracking (some oneMap) none none) = some oneMap ∧ oneMap.version = (released 5 0).header.mapVersion ∧
    oneMap.version ≠ (released 6 0).header.mapVersion ∧
    c (tracking (some oneMap) (some (sixth true)) none) = some (sixth true) ∧ (sixth true).complete = true ∧
    (sixth true).version = (released 6 0).header.mapVersion ∧
    (∀ x, c (tracking (some oneMap) (some (sixth false)) none) = some x →
      ¬ (x.complete = true ∧ x.version = (released 6 0).header.mapVersion)) ∧
    m (tracking none (some (sixth true)) none) = none ∧
    ((tracking none (some (sixth true)) none).tracker .lead).target = none ∧
    ((tracking none (some (sixth true)) (some { fn := 105, version := 6 })).tracker .lead).target ≠ none :=
  ⟨rfl, rfl, by decide, rfl, rfl, rfl, fun _ h => by cases h; simp [sixth], rfl, rfl, by decide⟩

/-- The map of `running` is sound. -/
theorem oneMap_sound : oneMap.Sound where
  version := by decide
  laneOrder := by decide
  laneIds := by decide
  laneCells := by decide
  laneDepths := by decide
  lanesApart := List.pairwise_singleton _ _
  programIds := by decide
  programLanes := by decide
  alternateIds := by decide
  alternateLists := by decide
  limits := by decide

theorem witness_MapsStaySound : running.mapsSound ∧ ∃ t, step running = .next t := by
  refine ⟨⟨⟨fun m h => ?_, fun c h => ?_, fun c h => ?_⟩, ⟨fun m h => ?_, fun c h => ?_, fun c h => ?_⟩⟩,
    running_steps⟩
  · exact Option.some.inj h ▸ oneMap_sound
  all_goals cases h

/-! ### Witnesses: roles, merging and handover (spec 03) -/

theorem witness_BetweenCommands : running.oneLead ∧ running.quiescent ∧ ∃ t, step running = .next t :=
  ⟨by simp [State.oneLead, running, withLink, State.setLink, State.modRoute, lockedLink, Link.reset], ⟨rfl, rfl⟩,
    running_steps⟩

/-- `running` with these frames held, all of Link B. -/
def holding (fns : List Fn) : State :=
  { running with
    merge := { running.merge with held := fns.map fun n => { link := .b, frame := substituteFrame n 0x4A21 ⟨5, 0, 0⟩ } } }

/-- The release point is 100: frame 100 is late, frame 101 may be held already, the buffer may hold 3 or 4. -/
theorem witness_PartnerHold :
    let f : Fn → Frame := fun n => substituteFrame n 0x4A21 ⟨5, 0, 0⟩
    let late := fun (s : State) (n : Fn) => ∃ rp, s.merge.releasePoint = some rp ∧ fnAfter rp (f n).fn = false
    let held := fun (s : State) (n : Fn) => ∃ h ∈ s.merge.held, h.frame.fn = (f n).fn
    (∀ xs, (holding xs).merge.waiting = []) ∧ (holding [101, 102, 103, 105]).merge.held.length ≤ 4 ∧
    late (holding []) 100 ∧ ¬ late (holding [101]) 101 ∧ held (holding [101]) 101 ∧
    ¬ late (holding [101, 102, 103]) 104 ∧ ¬ held (holding [101, 102, 103]) 104 ∧
    (holding [101, 102, 103]).merge.held.length < 4 ∧
    ¬ late (holding [101, 102, 103, 105]) 104 ∧ ¬ held (holding [101, 102, 103, 105]) 104 ∧
    ∃ x rest, (holding [101, 102, 103, 105]).merge.held = x :: rest ∧ rest.length = 3 := by
  have hl : ∀ xs n, (∃ rp, (holding xs).merge.releasePoint = some rp ∧
      fnAfter rp (substituteFrame n 0x4A21 ⟨5, 0, 0⟩).fn = false) ↔ fnAfter 100 n = false :=
    fun xs n => ⟨fun ⟨rp, h, hf⟩ => Option.some.inj h ▸ hf, fun h => ⟨100, rfl, h⟩⟩
  simp only [hl]
  refine ⟨fun _ => rfl, by decide, by decide, by decide, by decide, by decide, by decide, by decide, by decide,
    by decide, ?_⟩
  exact ⟨_, _, rfl, rfl⟩

/-- A lead frame without its records, and a partner frame that holds them. -/
theorem witness_MergedFrame :
    let n := substituteFrame 101 0x4A21 ⟨5, 0, 0⟩
    let p := { decodeFrame (frameOf 0x4A21 101 9) clean with q := 9 }
    n.cells.length = 720 ∧ p.cells.length = 720 ∧
    (∀ r, n.records.getD 0 none = some r → recordOk r = false) ∧
    (∃ r, p.records.getD 0 none = some r ∧ recordOk r = true) ∧
    ((n.cells.getD 3 blankCell).erased = true ∧ (p.cells.getD 3 blankCell).erased = false) ∧
    n.real = false ∧ p.real = true :=
  ⟨List.length_replicate, by decide +kernel, fun _ h => (by cases h), ⟨_, rfl, by decide +kernel⟩, by decide +kernel, rfl, rfl⟩

/-- A front frame 101 with its partner frame held, and with none. -/
theorem witness_ReleaseSetsPoint :
    let n := substituteFrame 101 0x4A21 ⟨5, 0, 0⟩
    let s := fun (xs : List Fn) => { holding xs with merge := { (holding xs).merge with waiting := [n] } }
    (∀ xs, (s xs).merge.waiting = n :: [] ∧ (s xs).mgmt.applyDue = false) ∧
    ((s [101, 102]).merge.held.find? fun h => h.frame.fn = n.fn).isSome = true ∧
    ((s [102]).merge.held.find? fun h => h.frame.fn = n.fn) = none :=
  ⟨fun _ => ⟨rfl, rfl⟩, by decide +kernel, by decide +kernel⟩

theorem witness_ReleaseCount :
    let f : Fn → Frame := fun n => substituteFrame n 0x4A21 ⟨5, 0, 0⟩
    [f 101, f 102, f 103].getLast? = some (f 103) ∧ releaseCount 2 [f 101, f 102, f 103] [] = 1
      ∧ (∀ n, 0 < 1 → [f 101, f 102, f 103][1 - 1]? = some n → n = f 101) :=
  ⟨rfl, by decide +kernel, fun _ _ h => (Option.some.inj h).symm⟩

/-- The coded fields of a LINK write. -/
def linkWrite (role : Byte) : LinkFields := { role := role, expectedId := 0 }

theorem running_oneLead : running.oneLead := witness_BetweenCommands.1

/-- Role code 4, the lead link written codes 1 and 3, the other link written in WATCH, and the role kept. -/
theorem witness_LinkWriteKeepsRole :
    let s := fun (l : LinkId) (r : Byte) => asked running (.writeLink l (linkWrite r))
    let w : State := { running with ann := { running.ann with level := .watch } }
    (∀ l r, (s l r).quiescent ∧ (s l r).oneLead ∧
      (s l r).Serves { tag := 7, op := .writeLink l (linkWrite r) }) ∧
    4 ≤ (linkWrite 4).role.toNat ∧
    ((s .a 1).link .a).role = .lead ∧ 1 ≤ (linkWrite 1).role.toNat ∧ (linkWrite 3).role.toNat ≤ 3 ∧
    (w.quiescent ∧ w.oneLead) ∧ (w.link .b).role ≠ .lead ∧ w.ann.level = .watch ∧
    (linkWrite 2).role.toNat ≤ 2 ∧
    (linkWrite 1).role.toNat = ((s .b 1).link .b).role.code ∧ (s .b 1).ann.level = .run ∧
    KeepsId (linkWrite 1) ((s .b 1).link .b) :=
  ⟨fun _ _ => ⟨⟨rfl, rfl⟩, running_oneLead, serves_asked _ _ rfl (by decide)⟩, by decide, rfl, by decide,
    by decide, ⟨⟨rfl, rfl⟩, running_oneLead⟩, by decide, rfl, by decide, rfl, rfl, rfl, by decide, .inl rfl⟩

/-- The partner of `running` becomes SCOUT. -/
theorem witness_LinkRoleChanges :
    let f := linkWrite 2
    let s := asked running (.writeLink .b f)
    s.quiescent ∧ s.oneLead ∧ s.Serves { tag := 7, op := .writeLink .b f } ∧ KeepsId f (s.link .b) ∧
    roleOf f.role = some .scout ∧ Role.scout ≠ .lead ∧ (s.link .b).role ≠ .lead ∧
    Role.scout ≠ (s.link .b).role ∧ s.ann.level = .run :=
  ⟨⟨rfl, rfl⟩, running_oneLead, serves_asked _ _ rfl (by decide), ⟨rfl, by decide, .inl rfl⟩, rfl,
    by decide, by decide, by decide, rfl⟩

/-- The partner of `running`, its last FN 7 frames past the release point. -/
theorem witness_SeamlessSwap :
    let f := linkWrite 0
    let s := asked (withLink running .b (lockedLink .partner 0x4A21 107 768000)) (.writeLink .b f)
    s.quiescent ∧ s.oneLead ∧ s.Serves { tag := 7, op := .writeLink .b f } ∧ KeepsId f (s.link .b) ∧
    f.role = 0 ∧ s.ann.level = .run ∧ (s.link .b).role = .partner ∧
    (s.link (otherLink .b)).synced = true ∧ (s.link .b).synced = true ∧
    (s.link .b).followedId = (s.link (otherLink .b)).followedId ∧
    s.merge.releasePoint = some 100 ∧ (s.link .b).lastFn = some 107 ∧ s.leadTracker.map = some oneMap ∧
    (s.link .b).lastHeader = some ⟨5, 0, 0⟩ ∧ oneMap.version = 5 ∧ fnDist 100 107 ≤ 7 :=
  ⟨⟨rfl, rfl⟩, running_oneLead, serves_asked _ _ rfl (by decide), ⟨rfl, by decide, .inl rfl⟩, rfl, rfl, rfl,
    rfl, rfl, rfl, rfl, rfl, rfl, rfl, rfl, by decide⟩

/-- An OFF link, and a partner for each reason that makes a BREAK. -/
theorem witness_BreakHandover :
    let f := linkWrite 0
    let s := fun (x : Link) => asked (withLink running .b x) (.writeLink .b f)
    let p := lockedLink .partner 0x4A21 107 768000
    (∀ x, x.role ≠ .lead → (s x).quiescent ∧ (s x).oneLead ∧
      (s x).Serves { tag := 7, op := .writeLink .b f }) ∧
    KeepsId f ((s (Link.reset .off)).link .b) ∧ f.role = 0 ∧ (s p).ann.level = .run ∧
    ((s (Link.reset .off)).link .b).role = .off ∧ ((s p).link .b).role = .partner ∧
    ((s (Link.reset .partner)).link .b).synced = false ∧
    ((s { p with followedId := 0x5555 }).link .b).followedId ≠ ((s p).link .a).followedId ∧
    State.reset.merge.releasePoint = none ∧ (State.reset.link .a).synced = false ∧
    State.reset.leadTracker.map = none :=
  ⟨fun x h => ⟨⟨rfl, rfl⟩, ⟨fun _ => h, fun _ => rfl⟩, serves_asked _ _ rfl Nat.zero_lt_two⟩,
    ⟨rfl, by decide, .inl rfl⟩, rfl, rfl, rfl, rfl, rfl, by decide, rfl, rfl, rfl⟩

/-- `running` with a scout LOCKED and GOOD on a multiplex whose map holds the listening program. -/
def scouting : State :=
  { withLink running .b (lockedLink .scout 0x5555 50 768000) with
    scoutTracker := { map := some oneMap, collection := none, target := none, lastFn := some 50 } }

/-- At most one route of `running` listens. -/
theorem running_oneListener : running.oneListener := by
  have h : ∀ n, (running.route n).listening = true → n = 0 := by
    intro n hn
    by_cases hb : n < 18
    · exact (by decide +kernel : ∀ n < 18, (running.route n).listening = true → n = 0) n hb hn
    · have hr : running.route n = Route.reset n :=
        List.getD_eq_default _ _ (by
          have : running.routes.length = 18 := by decide +kernel
          omega)
      rw [hr] at hn; cases hn
  exact fun m n hm hn => (h m hm).trans (h n hn).symm

theorem scouting_oneLead : scouting.oneLead := ⟨fun _ => Role.noConfusion, fun _ => rfl⟩

theorem witness_CandidateCheck :
    running.oneLead ∧ running.oneListener ∧ (∀ l, (running.link l).role ≠ .scout) ∧
    scouting.oneLead ∧ scouting.oneListener ∧ (scouting.link .b).role = .scout ∧
    (scouting.route 0).listening = true ∧ (followCandidate true scouting).isSome = true :=
  ⟨running_oneLead, running_oneListener, fun l => by cases l <;> decide, scouting_oneLead, running_oneListener, rfl,
    rfl, by decide +kernel⟩

/-- FOLLOW in WATCH, without a candidate, and forced with one. -/
theorem witness_FollowRequest :
    let s := fun (x : State) (force : Bool) => asked x (.follow force)
    let w : State := { running with ann := { running.ann with level := .watch } }
    (w.quiescent ∧ w.oneLead ∧ (s w false).Serves { tag := 7, op := .follow false } ∧ w.ann.level = .watch) ∧
    ((s running false).quiescent ∧ (s running false).oneLead ∧ (s running false).ann.level = .run ∧
      followCandidate false (s running false) = none) ∧
    ((s scouting true).quiescent ∧ (s scouting true).oneLead ∧ (s scouting true).ann.level = .run ∧
      (s scouting true).Serves { tag := 7, op := .follow true } ∧
      (followCandidate true (s scouting true)).isSome = true) :=
  ⟨⟨⟨rfl, rfl⟩, running_oneLead, serves_asked _ _ rfl (by decide), rfl⟩,
    ⟨⟨rfl, rfl⟩, running_oneLead, rfl, by decide +kernel⟩,
    ⟨⟨rfl, rfl⟩, scouting_oneLead, rfl, serves_asked _ _ rfl (by decide), by decide +kernel⟩⟩

/-- `running` with this arm record and a lead of this quality level. -/
def armed (arm : Option Fn) (level : QLevel) (partner : Link) : State :=
  { withLink (withLink running .a { lockedLink .lead 0x4A21 100 768000 with level := level }) .b partner with
    roles := { running.roles with arm := arm } }

theorem witness_ReleaseChecks :
    let p := lockedLink .partner 0x4A21 100 768000
    let ready := fun (s : State) => (s.link .b).role = .partner ∧ (s.link .b).sync = .locked ∧
      (s.link .b).followedId = (s.link .a).followedId
    (∀ arm level, (armed arm level p).oneLead ∧ (armed arm level p).roles.decision = none ∧
      (armed arm level p).leadLink = .a ∧ ready (armed arm level p)) ∧
    (armed (some 101) .good p).roles.arm = some 101 ∧
    ¬ ready (armed (some 101) .good (Link.reset .partner)) ∧
    (armed none .poor p).roles.arm ≠ some 101 ∧ (armed none .poor p).mgmt.settings.autoSwap = true ∧
    ((armed none .poor p).link .a).level = .poor ∧ ((armed none .poor p).link .b).level = .good ∧
    ((armed none .weak p).link .a).level ≠ .poor :=
  ⟨fun _ _ => ⟨⟨fun _ => Role.noConfusion, fun _ => rfl⟩, rfl, rfl, rfl, rfl, rfl⟩, rfl,
    fun h => SyncState.noConfusion h.2.1, by decide, rfl, rfl, rfl, by decide⟩

/-- WATCH, no release point, and the distances 0, 2048, 1 and 2047 from release point 100. -/
theorem witness_ArmRequests :
    let s := fun (n : Fn) => asked running (.arm n)
    let w : State := { running with ann := { running.ann with level := .watch } }
    (∀ n, (s n).quiescent ∧ (s n).Serves { tag := 7, op := .arm n } ∧ (s n).ann.level = .run ∧
      (s n).merge.releasePoint = some 100) ∧
    ((asked w (.arm 5)).Serves { tag := 7, op := .arm 5 } ∧ w.ann.level = .watch) ∧
    State.reset.merge.releasePoint = none ∧
    fnDist 100 100 = 0 ∧ fnDist 100 2148 = 2048 ∧ fnDist 100 101 = 1 ∧ fnDist 100 2147 = 2047 ∧
    (asked running .disarm).Serves { tag := 7, op := .disarm } :=
  ⟨fun _ => ⟨⟨rfl, rfl⟩, serves_asked _ _ rfl (by decide), rfl, rfl⟩, ⟨serves_asked _ _ rfl (by decide), rfl⟩,
    rfl, by decide, by decide, by decide, by decide, serves_asked _ _ rfl (by decide)⟩

/-! ### Witnesses: the lane store, routes and selection (specs 04 and 05) -/

theorem witness_MemoryStaysCanonical : cellsWf running.store.cells = true ∧ ∃ t, step running = .next t :=
  ⟨by decide +kernel, running_steps⟩

/-- The lane of `running`. -/
def oneLane : Lane := { id := 5, geometry := { start := 0, size := 60, depth := 1 }, form := .packet }

theorem running_pool : running.PoolShared where
  routes := by decide +kernel
  apart := ⟨by decide +kernel, by decide +kernel⟩
  need r h := by
    have hr : r = running.route 0 ∨ (r.state = .vacant ∧ r.pages = []) := by
      revert r; decide +kernel
    unfold Route.HoldsNeed
    rcases hr with rfl | ⟨hs, hp⟩
    · rw [if_pos (.inr rfl)]; exact ⟨oneLane, rfl, rfl, by decide +kernel⟩
    · rw [if_neg (by simp [hs])]; exact hp

theorem witness_PoolStaysShared : running.PoolShared ∧ ∃ t, step running = .next t :=
  ⟨running_pool, running_steps⟩

/-- `running` with route 1 STARVED for a lane, and route 2 holding `taken` pages. -/
def starving (lane : Lane) (taken : Nat) : State :=
  (running.modRoute 1 fun r => { r with program := 0x2102, state := .starved, bound := some lane }).modRoute 2
    fun r => { r with pages := (List.range taken).map (· + 1) }

/-- The largest need; pages enough for route 1, and one too few. -/
theorem witness_PoolAllocation :
    let big : Lane := { oneLane with geometry := { start := 0, size := 720, depth := 16 } }
    (1 ≤ big.geometry.size ∧ big.geometry.size ≤ 720 ∧ big.geometry.depth ∈ [1, 2, 4, 8, 16] ∧ pageNeed big.geometry = 180) ∧
    (∀ taken, 1 < (starving big taken).routes.length ∧ ((starving big taken).route 1).state = .starved ∧
      ((starving big taken).route 1).bound = some big) ∧
    pageNeed big.geometry ≤ (starving big 0).freePages.length ∧
    (starving big 204).freePages.length < pageNeed big.geometry := by
  refine ⟨by decide, fun taken => ⟨?_, rfl, rfl⟩, by decide +kernel, by decide +kernel⟩
  simp only [starving, State.modRoute, List.length_modify]; decide +kernel

/-- A lane of depth 16 with S = 720, on 180 pages. -/
theorem witness_LogicalFrameGathers :
    let g : Geometry := { start := 0, size := 720, depth := 16 }
    cellsWf running.store.cells = true ∧ (List.range 180).Nodup ∧ (List.range 180).length = pageNeed g ∧
    g.depth ∈ [1, 2, 4, 8, 16] :=
  ⟨by decide +kernel, List.nodup_range, List.length_range, by decide⟩

/-- Route 0 of `running` with a lane of this depth, this fill count and this tally. -/
def filled (depth fill tally : Nat) (state : RouteState) : State :=
  running.modRoute 0 fun r =>
    { r with
      geometry := some { start := 0, size := 60, depth := depth }, fill := fill, state := state
      bound := some { oneLane with geometry := { start := 0, size := 60, depth := depth } }
      tallies := List.replicate depth tally, damage := 5 }

/-- A first completion (fill 3 of 4) that is FULL, one DAMAGED at the damage limit, one LOST above it, and a
route FILLING in a run that completes nothing. -/
theorem witness_UnitsFormed :
    let f := { decodeFrame (frameOf 0x4A21 101 9) clean with q := 9 }
    let g : Geometry := { start := 0, size := 60, depth := 4 }
    let e := fun (s : State) => (nextTallies g f.fn f.cells (s.route 0).tallies).getD
      ((f.fn - BitVec.ofNat 12 3).toNat % 4) 0
    (∀ fill tally st, (filled 4 fill tally st).routes.length = 18 ∧ ((filled 4 fill tally st).route 0).pages ≠ [] ∧
      ((filled 4 fill tally st).route 0).geometry = some g ∧ ((filled 4 fill tally st).route 0).run = true) ∧
    g.depth ≤ ((filled 4 3 0 .filling).route 0).fill + 1 ∧ e (filled 4 3 0 .filling) = 0 ∧
    e (filled 4 3 5 .filling) = ((filled 4 3 5 .filling).route 0).damage ∧
    ((filled 4 3 6 .filling).route 0).damage < e (filled 4 3 6 .filling) ∧
    ((filled 4 2 0 .filling).route 0).fill + 1 < g.depth ∧ ((filled 4 2 0 .filling).route 0).state = .filling := by
  refine ⟨fun _ _ _ => ⟨?_, List.cons_ne_nil _ _, rfl, rfl⟩, by decide +kernel⟩
  simp only [filled, State.modRoute, List.length_modify]; decide +kernel

/-- A queue of one unit; of two, the first of which has begun; of four groups. -/
theorem witness_FullQueueDisplaces :
    let begun : Item := { gapItem 1 with started := 1 }
    QueueFits [begun] ∧ (itemsOf true [begun]).length < 2 ∧
    QueueFits [begun, gapItem 1] ∧ (itemsOf true [begun, gapItem 1]).length = 2 ∧
    QueueFits (List.replicate 4 (groupItem 1)) ∧ (itemsOf false (List.replicate 4 (groupItem 1))).length = 4 :=
  ⟨⟨by decide, by decide, by decide⟩, by decide, ⟨by decide, by decide, by decide⟩, by decide,
    ⟨by decide, by decide, by decide⟩, by decide⟩

theorem witness_QueuesStayFit : running.QueuesFit ∧ ∃ t, step running = .next t := by
  refine ⟨⟨by decide, by decide, fun h => (by cases h), by decide, fun r h => ?_⟩, running_steps⟩
  have hr : r.queue = [groupItem 1] ∨ r.queue = [] := by revert r; decide +kernel
  rcases hr with h | h <;> rw [h] <;> exact ⟨by decide, by decide, by decide⟩

/-- `running` with this selection record. -/
def selected (phase : Phase) (first last : Option Nat) (unmarked : List Nat) : State :=
  { running with
    mgmt := { running.mgmt with
      selection := { phase := phase, first := first, last := last, unmarked := unmarked } } }

theorem selected_serves (phase : Phase) (a b : Option Nat) (u : List Nat) (op : RequestOp) :
    (asked (selected phase a b u) op).Serves { tag := 7, op := op } := serves_asked _ _ rfl Nat.zero_lt_two

/-- Every request may be served in every phase (`selected_serves`); the routes that meet each test, at the
ends of the range 2..7 and of the routes, with three and four unmarked routes. -/
theorem witness_SelectionSequence :
    (∀ op, (asked running op).Serves { tag := 7, op := op }) ∧
    (16 ≤ (16 : Byte).toNat ∧ (15 : Byte).toNat ≤ 15) ∧
    running.mgmt.selection.phase = .idle ∧ (selected .fromSet (some 2) none []).mgmt.selection.phase ≠ .idle ∧
    ((selected .fromSet (some 2) none []).mgmt.selection.first = some 2 ∧ 2 ≤ (2 : Byte).toNat ∧
      (1 : Byte).toNat < 2) ∧
    ((selected .toSet (some 2) (some 7) []).mgmt.selection.phase = .toSet ∧
      ((1 : Byte).toNat < 2 ∨ 7 < (1 : Byte).toNat) ∧ ((8 : Byte).toNat < 2 ∨ 7 < (8 : Byte).toNat) ∧
      2 ≤ (2 : Byte).toNat ∧ (7 : Byte).toNat ≤ 7 ∧ (5 : Byte).toNat ∈ [5]) ∧
    ((7 : Byte).toNat ∉ [3, 4, 5] ∧ [3, 4, 5].length < 4 ∧ (7 : Byte).toNat ∉ [2, 3, 4, 5] ∧
      4 ≤ [2, 3, 4, 5].length) :=
  ⟨fun _ => serves_asked _ _ rfl (by decide), by decide, rfl, by decide, by decide, by decide, by decide⟩

/-- An unknown action, an ENGAGE in WATCH, and each known action with the lead locked and not. -/
theorem witness_ApplyTaken :
    let s := selected .toSet (some 2) (some 7) []
    let w : State := { s with ann := { s.ann with level := .watch } }
    let u := withLink s .a (Link.reset .lead)
    (∀ a, (asked s (.apply a)).Serves { tag := 7, op := .apply a } ∧
      (asked s (.apply a)).mgmt.selection.phase = .toSet) ∧
    (asked w (.apply 2)).Serves { tag := 7, op := .apply 2 } ∧ w.ann.level = .watch ∧ 3 ≤ (3 : Byte).toNat ∧
    applyOf 0 = some .release ∧ applyOf 1 = some .suspend ∧ applyOf 2 = some .engage ∧ s.ann.level = .run ∧
    (s.link s.leadLink).synced = true ∧ (u.link u.leadLink).synced = false :=
  ⟨fun _ => ⟨selected_serves _ _ _ _ _, rfl⟩, serves_asked _ _ rfl (by decide), rfl, by decide, rfl, rfl, rfl, rfl,
    by decide, by decide⟩

/-- A held APPLY of each kind that is due, over the listening route, pinned or not, and one not due. -/
theorem witness_ApplyActs :
    let s := fun (kind : ApplyKind) (pin : Bool) =>
      let x := (selected .toSet (some 0) (some 15) []).modRoute 0 fun r => { r with pin := pin }
      { x with mgmt := { x.mgmt with
          held := some kind, applyDue := true, requests := [{ tag := 7, op := .apply 0 }] } }
    running.mgmt.applyDue = false ∧
    ∀ kind pin, (s kind pin).routes.length = 18 ∧ (s kind pin).mgmt.applyDue = true ∧
      (s kind pin).mgmt.held = some kind ∧ (s kind pin).mgmt.requests = [{ tag := 7, op := .apply 0 }] ∧
      (s kind pin).Marked 0 ∧ ((s kind pin).route 0).pin = pin := by
  refine ⟨rfl, fun kind pin => ⟨?_, rfl, rfl, rfl, ?_, rfl⟩⟩
  · simp only [selected, State.modRoute, List.length_modify]; decide +kernel
  · exact ⟨0, 15, rfl, rfl, by omega, by omega, by omega, List.not_mem_nil, RouteState.noConfusion⟩

/-- The coded fields of a ROUTE write. -/
def routeWrite (program : Id16) (channel : Byte) (listening : Bool) : RouteFields :=
  { program := program, component := 0, channel := channel, listening := listening, pin := false
    damage := 72, addrCount := 0, addrs := [0, 0, 0, 0] }

theorem running_routes : running.routes.length = 18 := by decide +kernel

/-- Channel 1 is in use by route 0 of `running`; channel 2 is not; an emptying write; a route that keeps its
binding; one that changes it while the map is EMPTY; one that is SUSPENDED. -/
theorem witness_RouteWrite :
    let s := fun (x : State) (n : Fin 16) (f : RouteFields) => asked x (.writeRoute n f)
    let p := routeWrite 0x2101 1 true
    (∀ n f, (s running n f).quiescent ∧ (s running n f).routes.length = 18 ∧
      (s running n f).Serves { tag := 7, op := .writeRoute n f }) ∧
    (p.program ≠ 0 ∧ ∃ m < 16, m ≠ (1 : Fin 16).val ∧ (running.route m).state ≠ .vacant ∧
      (running.route m).channel = some 1) ∧
    (∀ m < 16, m ≠ (1 : Fin 16).val → (running.route m).state ≠ .vacant → (running.route m).channel ≠ some 2) ∧
    (routeWrite 0 1 false).program = 0 ∧
    ((running.route 0).program = p.program ∧ (running.route 0).component = 0 ∧ (running.route 0).channel = some 1 ∧
      (running.route 0).state ≠ .starved ∧ running.ann.level = .run ∧
      ∀ m < 16, m ≠ (0 : Fin 16).val → (running.route m).state = .vacant) ∧
    (State.reset.leadTracker.map = none ∧ (State.reset.route 0).state ≠ .suspended ∧
      (State.reset.route 0).program ≠ p.program) ∧
    ((running.modRoute 0 fun r => { r with state := .suspended, reason := some .request }).route 0).state =
      .suspended := by
  refine ⟨fun _ _ => ⟨⟨rfl, rfl⟩, running_routes, serves_asked _ _ rfl (by decide)⟩, ?_, by decide +kernel, rfl, ?_,
    by decide +kernel, rfl⟩
  · exact ⟨by decide, 0, by omega, by decide, by decide, by decide⟩
  · exact ⟨rfl, rfl, rfl, by decide, rfl, by decide +kernel⟩

/-- Route 0 of `running` keeps its lane; without a map it has none; route 1 is VACANT. -/
theorem witness_LeadMapReachesRoutes :
    running.PoolShared ∧ (running.route 1).state = .vacant ∧ (running.route 0).state ≠ .vacant ∧
    (running.route 0).state ≠ .suspended ∧ lookupLane running 0 = some oneLane ∧
    (running.route 0).pages ≠ [] ∧ (running.route 0).geometry = some oneLane.geometry ∧
    lookupLane { running with leadTracker := State.reset.leadTracker } 0 = none ∧
    (starving oneLane 0).route 1 = { State.reset.route 1 with
      program := 0x2102, state := .starved, bound := some oneLane } :=
  ⟨running_pool, rfl, by decide, by decide, by decide +kernel, by decide, rfl, by decide +kernel, rfl⟩

/-! ### Witnesses: packet lanes and announcements (specs 06 and 07) -/

/-- A unit of release 101. -/
def unit101 : StreamUnit :=
  { number := 101, logical := 101, kind := .full, erased := 0, source := 8, sourceChanged := false
    runStart := false, body := [] }

/-- A packet head of address a. -/
def head (a continuity useful : Nat) (last : Bool) : PacketHead :=
  { cells := 4, continuity := continuity, first := true, last := last, address := a, useful := useful }

/-- Data of the given length that starts with this group length. -/
def dataOf (declared useful : Nat) : List Byte :=
  (two (BitVec.ofNat 16 declared) ++ List.replicate 59 0).take useful

/-- Address 9 is not open on route 0 and record 1 is the first free one; group lengths 3, 4, 4096 and 4097; a
pool with blocks, and one that a long queued group has taken. -/
theorem witness_FirstPacketOpens :
    let full := running.modRoute 0 fun r =>
      { r with queue := List.replicate 8 { groupItem 1 with
          content := .ofGroup { address := 3, number := 5, runStart := false, bytes := List.replicate 4096 0 } } }
    findAssembly running 0 9 = none ∧ findAssembly full 0 9 = none ∧
    (∀ d ∈ [3, 4, 4096, 4097], (dataOf d 59).length = (head 9 0 59 false).useful ∧
      (wordAt (dataOf d 59) 0).toNat = d) ∧
    (head 9 0 59 false).last = false ∧ running.packets.table.getD 1 none = none ∧
    (∀ j < 1, running.packets.table.getD j none ≠ none) ∧
    blocksFor 59 ≤ running.freeBlocks ∧ full.freeBlocks < blocksFor 59 := by
  refine ⟨by decide +kernel, by decide +kernel, by decide +kernel, rfl, by decide +kernel, by decide +kernel,
    by decide +kernel, ?_⟩
  decide +kernel

/-- Address 3 is open on route 0 in record 0, with 59 of 100 bytes and continuity 1: a broken continuity, 42
bytes (one too many), 41 bytes with and without the last flag, 40 bytes with it. -/
theorem witness_ContinuationFiles :
    let a : Assembly :=
      { route := 0, address := 3, continuity := 1, declared := 100, bytes := List.replicate 59 0
        lastProgress := 100 }
    (∀ c n b, findAssembly running 0 (head 3 c n b).address = some 0) ∧
    running.packets.table.getD 0 none = some a ∧ a.route = 0 ∧ 0 < running.packets.table.length ∧
    (head 3 2 10 false).continuity ≠ a.continuity ∧ (head 3 1 42 false).continuity = a.continuity ∧
    a.declared < a.bytes.length + 42 ∧ a.bytes.length + 41 = a.declared ∧ a.bytes.length + 40 < a.declared ∧
    blocksFor (a.bytes.length + 41) ≤ running.freeBlocks + blocksFor a.bytes.length ∧
    (running.route 0).listening = true ∧ (running.route 0).held = false ∧
    (dataOf 0 41).length = (head 3 1 41 true).useful := by
  refine ⟨fun _ _ _ => (by decide +kernel : findAssembly running 0 3 = some 0), by decide +kernel⟩

theorem witness_BlocksStayInPool : running.blocksFit ∧ ∃ t, step running = .next t :=
  ⟨(by decide +kernel : running.packets.blocks + running.queueBlocks ≤ poolBlocks), running_steps⟩

theorem running_stack : running.StackRises where
  depth := by decide
  bottom e h := by cases h; rfl
  rising := List.pairwise_singleton _ _
  listening := by decide +kernel

theorem witness_StackStaysRising : running.oneListener ∧ running.StackRises ∧ ∃ t, step running = .next t :=
  ⟨running_oneListener, running_stack, running_steps⟩

/-- The key (4, 1) is live in entry 0 with lane 5; (4, 0) is not live, and entry 1 is the first free one. -/
theorem witness_LiveTable :
    (∃ e, findLive running 4 1 = some (0, e) ∧ e.lane = 5 ∧ running.ann.live.getD 0 none = some e) ∧
    findLive running 4 0 = none ∧ running.ann.live.length = 16 ∧ running.ann.live.getD 1 none = none ∧
    (∀ j < 1, running.ann.live.getD j none ≠ none) ∧
    (let entries := List.replicate 16 (running.ann.live.getD 0 none)
     let full : State := { running with ann := { running.ann with live := entries } }
     findLive full 4 0 = none ∧ ∀ i < 16, full.ann.live.getD i none ≠ none) ∧
    ¬ running.mgmt.settings.liveRefresh < fnDist 90 165 ∧ running.mgmt.settings.liveRefresh < fnDist 90 166 :=
  ⟨⟨_, rfl, rfl, rfl⟩, by decide +kernel⟩

/-- The stack of `running` is its PROGRAM entry, and its live announcement is a candidate. -/
theorem witness_CandidateIsHighest :
    (∃ e, running.ann.stack.head? = some e ∧ running.ann.stack.getLast? = some e) ∧
    (∀ x ∈ running.ann.live, ∀ e, x = some e → e.cls < 8) ∧ (candidate running).isSome = true := by
  refine ⟨⟨_, rfl, rfl⟩, fun x h e hx => ?_, by decide +kernel⟩
  have h' : ∀ x ∈ running.ann.live, x.all (fun e => e.cls < 8) = true := by decide +kernel
  simpa [hx] using h' x h

/-- `running` with the announcement of class 1 pushed. -/
def announcing : State :=
  { running with ann := { running.ann with stack := running.ann.stack ++
      [{ cls := some 1, cluster := 4, lane := some 5, start := some 95 }] } }

theorem witness_CancelRequest :
    (asked running .cancel).quiescent ∧ (asked running .cancel).Serves { tag := 7, op := .cancel } ∧
    (∀ e, (asked running .cancel).ann.stack.getLast? = some e → e.cls = none) ∧
    (asked announcing .cancel).quiescent ∧ (asked announcing .cancel).Serves { tag := 7, op := .cancel } ∧
    (asked announcing .cancel).StackRises ∧ (asked announcing .cancel).ann.level = .run ∧
    ∃ e, (asked announcing .cancel).ann.stack.getLast? = some e ∧ e.cls = some 1 :=
  ⟨⟨rfl, rfl⟩, serves_asked _ _ rfl (by decide), fun e h => (by cases h; rfl), ⟨rfl, rfl⟩,
    serves_asked _ _ rfl (by decide),
    { depth := by decide, bottom := fun e h => (by cases h; rfl), rising := (by decide +kernel),
      listening := (by decide +kernel) },
    rfl, _, rfl, rfl⟩

/-- `running` in WATCH, its listening route SUSPENDED by the level. -/
def watching : State :=
  (running.modRoute 0 fun r => { r with state := .suspended, reason := some .level, pages := [] }).modAnn fun a =>
    { a with level := .watch }

theorem watching_routes : watching.routes.length = 18 := by decide +kernel

/-- Codes 2 and 1, in WATCH and in RUN with a partner. -/
theorem witness_LevelWatchRequest :
    (∀ c, (asked running (.level c)).quiescent ∧ (asked running (.level c)).oneLead ∧
      (asked running (.level c)).Serves { tag := 7, op := .level c }) ∧
    2 ≤ (2 : Byte).toNat ∧ running.ann.level = .run ∧ watching.ann.level = .watch ∧
    (asked watching (.level 1)).Serves { tag := 7, op := .level 1 } ∧ watching.oneLead ∧ watching.quiescent ∧
    (running.link (otherLink running.leadLink)).role ≠ .off ∧
    ((running.route 0).state ≠ .vacant ∧ (running.route 0).pin = false ∧
      (running.route 0).reason ≠ some .request) ∧
    (let r := (running.modRoute 0 fun r => { r with pin := true }).route 0
     r.pin = true ∧ r.state ≠ .starved) :=
  ⟨fun _ => ⟨⟨rfl, rfl⟩, running_oneLead, serves_asked _ _ rfl Nat.zero_lt_two⟩, by decide, rfl, rfl,
    serves_asked _ _ rfl (by decide), ⟨fun _ => Role.noConfusion, fun _ => rfl⟩, ⟨rfl, rfl⟩, by decide,
    ⟨by decide, rfl, by decide⟩, rfl, by decide⟩

theorem witness_WakeCommands :
    running.ann.level = .run ∧ watching.ann.level = .watch ∧ watching.routes.length = 18 ∧
    (∀ c, (asked watching (.level c)).quiescent ∧ (asked watching (.level c)).routes.length = 18 ∧
      (asked watching (.level c)).Serves { tag := 7, op := .level c }) ∧
    2 ≤ (2 : Byte).toNat ∧ (watching.route 0).reason = some .level ∧ (watching.route 1).reason ≠ some .level :=
  ⟨rfl, rfl, watching_routes, fun _ => ⟨⟨rfl, rfl⟩, watching_routes, serves_asked _ _ rfl Nat.zero_lt_two⟩,
    by decide, rfl, by decide⟩

/-! ### Witnesses: the trunk and management (specs 08 and 09) -/

/-- A good cell with 3 and with 4 requests waiting, a broken check, and another channel. -/
theorem witness_UpstreamCells :
    let cell := requestCell 7 [1]
    let other := 8 :: cell.tail
    cell.length = 20 ∧ other.length = 20 ∧ byteAt cell 3 = crc8 (cell.take 3 ++ cell.drop 4) ∧
    (byteAt cell 0).toNat / 8 = 0 ∧ (byteAt other 0).toNat / 8 ≠ 0 ∧
    byteAt other 3 ≠ crc8 (other.take 3 ++ other.drop 4) ∧
    (List.replicate 3 (⟨7, .step⟩ : Request)).length < 4 ∧ 4 ≤ (List.replicate 4 (⟨7, .step⟩ : Request)).length := by
  decide +kernel

/-- A reply, a notice, a route, and nothing to send; then a busy line. -/
theorem witness_CellStarts :
    let s : State := { arbitrating with trunk := { arbitrating.trunk with
        replies := [{ tag := 7, cells := [[], []], started := 1 }] } }
    (s.trunk.line = none ∧ s.trunk.hold = false ∧ s.trunk.resetHeld = false) ∧ s.trunk.replies.length = 1 ∧
    (State.reset.trunk.replies = [] ∧ State.reset.trunk.notices.length = 1) ∧
    (arbitrating.trunk.replies = [] ∧ arbitrating.trunk.notices = [] ∧ nextRoute arbitrating = some 5 ∧
      (arbitrating.route 5).queue = [groupItem 6]) ∧
    nextRoute State.reset = none ∧
    (let busy : State := { s with trunk := { s.trunk with hold := true } }
     ¬ (busy.trunk.line = none ∧ busy.trunk.hold = false ∧ busy.trunk.resetHeld = false)) := by
  decide +kernel

/-- A cell of each origin on the line. -/
theorem witness_CellFinishes :
    let on := fun (s : State) (o : Origin) =>
      { s with trunk := { s.trunk with line := some { bytes := [], origin := o } } }
    let r : Reply := { tag := 7, cells := [[], []], started := 1 }
    State.reset.trunk.line = none ∧
    (on { running with trunk := { running.trunk with replies := [r] } } .reply).trunk.replies = [r] ∧
    (on running .notice).trunk.line = some { bytes := [], origin := .notice } ∧
    ((on arbitrating (.route 5)).route 5).queue = [groupItem 6] ∧
    (on running .nowhere).trunk.line = some { bytes := [], origin := .nowhere } :=
  ⟨rfl, rfl, rfl, rfl, rfl⟩

theorem witness_StatusRequest : (asked running .status).Serves { tag := 7, op := .status } :=
  serves_asked _ _ rfl (by decide)

/-- Table codes 0, 11, 10 and 6; indices 17 and 18 of the ROUTE table. -/
theorem witness_ReadsAndSteps :
    (∀ t i, (asked running (.read t i)).Serves { tag := 7, op := .read t i }) ∧
    ((0 : Byte).toNat = 0 ∧ 11 ≤ (11 : Byte).toNat ∧ tableOf 10 = some .pool) ∧
    (tableOf 6 = some .route ∧ Table.route.size ≤ (18 : Byte).toNat ∧ (17 : Byte).toNat < Table.route.size) ∧
    (asked running .step).Serves { tag := 7, op := .step } :=
  ⟨fun _ _ => serves_asked _ _ rfl Nat.zero_lt_two, by decide, by decide, serves_asked _ _ rfl (by decide)⟩

/-- Table codes 0 and 11; indices 17 (an announcement route) and 18 of the ROUTE table; code 15. -/
theorem witness_RefusedRequests :
    (∀ t i, (asked running (.write t i)).Serves { tag := 7, op := .write t i }) ∧
    ((0 : Byte).toNat = 0 ∧ 11 ≤ (11 : Byte).toNat) ∧
    (tableOf 6 = some .route ∧ Table.route.size ≤ (18 : Byte).toNat ∧ (17 : Byte).toNat < Table.route.size) ∧
    (asked running (.unknown 15)).Serves { tag := 7, op := .unknown 15 } :=
  ⟨fun _ _ => serves_asked _ _ rfl Nat.zero_lt_two, by decide, by decide, serves_asked _ _ rfl (by decide)⟩

/-- The coded fields of a SETTINGS write with these levels, follow code and window. -/
def settingsWrite (warn drop : Byte) (autoSwap follow window : BitVec 2) : SettingsFields :=
  { warn := warn, drop := drop, hysteresis := 16, window := window, autoSwap := autoSwap, follow := follow
    dwell := 25, announce := 3, wake := 3, coast := 250, assembly := 50, liveRefresh := 75 }

/-- Each bad value alone; a drop level one below the warn level; a window of 0; the classes kept. -/
theorem witness_SettingsWrite :
    (∀ f, (asked running (.writeSettings f)).quiescent ∧
      (asked running (.writeSettings f)).Serves { tag := 7, op := .writeSettings f }) ∧
    2 ≤ (settingsWrite 96 48 2 1 2).autoSwap.toNat ∧ (settingsWrite 96 48 1 3 2).follow = 3 ∧
    (settingsWrite 48 48 1 1 2).warn.toNat ≤ (settingsWrite 48 48 1 1 2).drop.toNat ∧
    (let f := settingsWrite 49 48 1 2 0
     ¬ (2 ≤ f.autoSwap.toNat ∨ f.follow = 3 ∨ f.warn.toNat ≤ f.drop.toNat) ∧ f.window.toNat = 0 ∧
       running.mgmt.settings.window ≠ 0 ∧ f.announce ||| 1 = running.mgmt.settings.announce ∧
       f.wake = running.mgmt.settings.wake) :=
  ⟨fun _ => ⟨⟨rfl, rfl⟩, serves_asked _ _ rfl Nat.zero_lt_two⟩, by decide, by decide, by decide, by decide⟩

/-- A command that is none of those named, in RUN, with every sticky flag set. -/
theorem witness_OnlyTheseEvents :
    (∀ tag, Instr.miss .a ≠ .status tag) ∧ (∀ tag, Instr.miss .a ≠ .reset tag) ∧ Instr.miss .a ≠ .powerOnReset ∧
    Instr.miss .a ≠ .pinReset ∧ (∀ tag f, Instr.miss .a ≠ .writeSettings tag f) ∧
    (∀ tag, Instr.miss .a ≠ .levelWatch tag) ∧ running.ann.level = .run ∧ ∃ t, exec (.miss .a) running = .next t :=
  ⟨fun _ => Instr.noConfusion, fun _ => Instr.noConfusion, Instr.noConfusion, Instr.noConfusion,
    fun _ _ => Instr.noConfusion, fun _ => Instr.noConfusion, rfl, witness_StepTakesFront.2.2⟩

/-! ### Witnesses: further clauses of statements above -/

/-- A link in HUNT or CONFIRM whose followed multiplex is not the frame's, as lead, scout and partner. -/
theorem witness_ConfirmationCounts_multiplex :
    let f := decodeFrame (frameOf 0x4A21 42 9) clean
    let x := fun (r : Role) => { Link.reset r with followedId := 0x1111 }
    let s := fun (r : Role) => withLink running .b (x r)
    (∀ r, r ≠ .off → (x r).Hears (frameOf 0x4A21 42 9)) ∧
    (∀ r, (x r).sync = .hunt ∧ { x r with sync := .confirm }.sync = .confirm ∧ (x r).followedId ≠ 0 ∧
      (x r).followedId ≠ f.mux) ∧
    (∀ r, r ≠ .lead → (s r).quiescent ∧ (s r).oneLead ∧ ((s r).link .b).role = r) ∧
    (let t := withLink running .a (x .lead)
     t.quiescent ∧ t.oneLead ∧ (t.link .a).role = .lead ∧ (t.tracker .lead).map = some oneMap) :=
  ⟨fun _ h => ⟨h, by decide +kernel, .inl rfl⟩, fun _ => ⟨rfl, rfl, (by decide : (0x1111 : Id16) ≠ 0),
      (by decide +kernel : (0x1111 : Id16) ≠ (decodeFrame (frameOf 0x4A21 42 9) clean).mux)⟩,
    fun _ h => ⟨⟨rfl, rfl⟩, ⟨fun _ => h, fun _ => rfl⟩, rfl⟩, ⟨rfl, rfl⟩, running_oneLead, rfl, rfl⟩

/-- Gaps of 1 and 7 at a coast limit of 250: the first miss ends the coast, or the seventh does. -/
theorem witness_FrameTaken_coast :
    ∀ p ∈ [((102 : BitVec 16), 249), (108, 243)],
      let x := { lockedLink .lead 0x4A21 100 768000 with consecutive := p.2 }
      let f := decodeFrame (frameOf 0x4A21 p.1 9) clean
      let d := fnDist x.expected f.fn
      x.synced = true ∧ frameValid (frameOf 0x4A21 p.1 9) = true ∧ x.followedId = f.mux ∧ 1 ≤ d ∧ d ≤ 7 ∧
      Settings.defaults.coast ≤ x.consecutive + d := by decide +kernel

/-- A lead with no frame waiting, an arm still set, and route 0 RUNNING on a page. -/
theorem witness_TimerExpiry_departure :
    let s := armed (some 105) .good (Link.reset .partner)
    (releaseAll (actIfDue s)).roles.arm = some 105 ∧ ((releaseAll (actIfDue s)).route 0).pages ≠ [] ∧
    ((releaseAll (actIfDue s)).route 0).state = .running := by decide +kernel

/-- Two substitutes of FN 101, met with a target at FN 105. -/
theorem witness_SwitchAndCountdown_substitute :
    let f := { released 5 0 with real := false }
    let g := { released 6 31 with real := false }
    f.real = false ∧ g.real = false ∧ g.fn = f.fn ∧ (released 5 0).real = true ∧
    ((tracking (some oneMap) none (some { fn := 105, version := 6 })).tracker .lead).target =
      some { fn := 105, version := 6 } ∧ (105 : Fn) ≠ f.fn := by decide

/-- A record with a good check. -/
def record (bs : List Byte) : List Byte :=
  let b := bs ++ List.replicate (23 - bs.length) 0
  b ++ [crc8 b]

/-- The LANE record of lane 5 at index 0 of version 6, its next marker set or not. -/
def laneRecord (next : Byte) : List Byte := record [1, 6 ||| next, 0, 5, 0, 0, 0, 60, 1, 1]

/-- A SUMMARY of version 6 with one record, and the map sum given. -/
def summaryRecord (sum : Nat) : List Byte := record ([4, 6, 0, 1] ++ two (BitVec.ofNat 16 sum))

/-- A collection of version 6 that holds the LANE record and lacks its summary. -/
def oneRecord : Collection := { version := 6, records := [(0, laneRecord 0)], summary := none, complete := false }

/-- Each sort of record; a record that is filed, without the next marker and with it, and one that is not; one
held already, the same and another; a filing that leaves the collection incomplete, rejected and complete. -/
theorem witness_VersionCheck_records :
    let lane := laneRecord 0
    let sum := mapSum [lane]
    recordOk (lane.set 23 0) = false ∧
    (recordOk (record [9]) = true ∧ sortRecord (record [9]) = .ignored) ∧
    (recordOk (record [5]) = true ∧ sortRecord (record [5]) = .live) ∧
    (recordOk lane = true ∧ sortRecord lane = .filed 0 ∧ recordNext lane = false ∧
      recordVersion lane = (released 6 0).header.mapVersion) ∧
    (recordOk (laneRecord 0x80) = true ∧ recordNext (laneRecord 0x80) = true ∧
      (released 5 31).header.countdown ≠ 0 ∧
      recordVersion (laneRecord 0x80) = (released 5 31).header.nextVersion) ∧
    recordVersion lane ≠ (released 5 0).header.mapVersion ∧
    ((tracking none none none).tracker .lead).map = none ∧ ((tracking none none none).tracker .lead).target = none ∧
    heldRecord oneRecord (some 0) = some lane ∧ record [2, 6, 0] ≠ lane ∧
    judge (withRecord { oneRecord with records := [] } (some 0) lane) = .collecting ∧
    (sortRecord (summaryRecord sum) = .summary ∧ heldRecord oneRecord none = none) ∧
    judge (withRecord oneRecord none (summaryRecord sum)) = .complete ∧
    judge (withRecord oneRecord none (summaryRecord (sum + 1))) = .rejected .sum none := by decide +kernel

/-- Collections with an index at N, with index 0 missing, with a wrong sum, and with two lanes of one id. -/
theorem witness_VersionCheck_judged :
    let lane := laneRecord 0
    let other := record [1, 6, 1, 5, 1, 0, 0, 60, 1, 1]
    let c := fun (rs : List (Nat × List Byte)) (sum : Nat) =>
      { oneRecord with records := rs, summary := some (summaryRecord sum) }
    summaryCount (summaryRecord 5) = 1 ∧
    judge (c [(0, lane), (1, lane)] 5) = .rejected .excessIndex (some 1) ∧
    judge (c [] 5) = .collecting ∧ judge (c [(0, lane)] 5) = .rejected .sum none ∧
    judge { c [(0, lane), (1, other)] 0 with
      summary := some (record ([4, 6, 0, 2] ++ two (BitVec.ofNat 16 (mapSum [lane, other])))) } =
      .rejected .laneId none := by decide +kernel

/-- A partner frame of the lead's multiplex and of another, with the lead LOCKED. -/
theorem witness_PartnerHold_admission :
    let lead := running.link running.leadLink
    let f : Id16 → Frame := fun m => substituteFrame 101 m ⟨5, 0, 0⟩
    lead.sync = .locked ∧ (f 0x4A21).mux = lead.followedId ∧ (f 0x5555).mux ≠ lead.followedId := by
  decide +kernel

/-- `running` with these lead frames waiting and no APPLY held. -/
def waitingFor (fns : List Fn) : State :=
  { running with merge :=
    { running.merge with waiting := fns.map fun n => substituteFrame n 0x4A21 ⟨5, 0, 0⟩ } }

/-- Nothing is released, and one frame is; no newest frame, a frame 1 and 8 after it, one at the release point
and one after it that is in the queue. -/
theorem witness_ReleaseCount_entries :
    let k := fun (s : State) => releaseCount s.mgmt.settings.window s.merge.waiting s.merge.held
    k (waitingFor [101]) = 0 ∧ k (waitingFor [101, 102, 103]) = 1 ∧
    (State.reset.merge.waiting = [] ∧ State.reset.merge.releasePoint = none) ∧
    (waitingFor [101, 102]).merge.waiting.getLast?.map Frame.fn = some 102 ∧
    (1 ≤ fnDist 102 103 ∧ fnDist 102 110 ≤ 8) ∧ (waitingFor [101, 102]).merge.releasePoint = some 100 ∧
    (fnAfter 102 101 = false ∧ fnAfter 100 101 = true) ∧ (fnAfter 102 100 = false ∧ fnAfter 100 100 = false) := by
  decide +kernel

/-- `scouting` with a POOR lead whose map names the scout's multiplex, under this follow policy. -/
def fading (policy : FollowPolicy) (advised : Bool) : State :=
  let m := { oneMap with alternates := [{ id := 0x2101, others := [0x5555] }] }
  let s := withLink scouting .a { lockedLink .lead 0x4A21 100 768000 with level := .poor }
  { s with
    leadTracker := { s.leadTracker with map := some m }
    roles := { s.roles with advised := advised, dwell := 24 }
    mgmt := { s.mgmt with settings := { s.mgmt.settings with follow := policy } } }

/-- Each policy with a candidate beside a POOR lead, and a lead that is not POOR; there is no partner. -/
theorem witness_ReleaseChecks_dwell :
    (∀ p a, (fading p a).oneLead ∧ (fading p a).roles.decision = none ∧ (fading p a).roles.arm = none ∧
      ((fading p a).link (fading p a).leadLink).level = .poor ∧
      ((fading p a).link (otherLink (fading p a).leadLink)).role ≠ .partner ∧
      (fading p a).mgmt.settings.follow = p ∧ (fading p a).roles.advised = a) ∧
    followCandidate false (fading .advise false) = some (.b, 0x2101) ∧
    (followCandidate false (fading .auto false)).isSome = true ∧
    (fading .auto false).mgmt.settings.dwell ≤ (fading .auto false).roles.dwell + 1 ∧
    ((armed none .good (Link.reset .off)).link .a).level ≠ .poor :=
  ⟨fun _ _ => ⟨⟨fun _ => Role.noConfusion, fun _ => rfl⟩, rfl, rfl, rfl, Role.noConfusion, rfl, rfl⟩,
    by decide +kernel⟩

/-- `running` with the announcement of class 1 on the stack and on route 16, which forms units, and this source on
air. -/
def carrying (source : Nat) : State :=
  let s := announcing.modRoute 16 fun r =>
    { r with
      binding := some { lane := 5, cls := 1 }, state := .running, bound := some oneLane, run := true
      pages := [1], geometry := some oneLane.geometry, fill := 1, tallies := [0] }
  s.modAnn fun a => { a with onAir := some source }

/-- A unit of route n, of the given form. -/
def formedBy (n : Nat) (form : Form) : Formed := { route := n, form := form, item := unit101 }

/-- Units of another route, of the listening route and of route 16, with either of these on air, the listening
route held and not, and with no listening route. -/
theorem witness_FullQueueDisplaces_places :
    (formedBy 3 .packet).form = .packet ∧ (formedBy 3 .stream).form = .stream ∧
    running.listening = some 0 ∧ State.reset.listening = none ∧
    (carrying 0).ann.onAir = some 0 ∧ ((carrying 0).route 0).held = false ∧
    (carrying 16).ann.onAir = some 16 ∧ (carrying 16).listening = some 0 ∧
    (((carrying 0).modRoute 0 fun r => { r with held := true }).route 0).held = true := by decide +kernel

/-- A write in WATCH while no class wakes: a route that is not SUSPENDED, and one SUSPENDED by level and by
request; channel 2 in place of channel 1. -/
theorem witness_RouteWrite_watch :
    let w := fun (s : State) => { s with
      ann := { s.ann with level := .watch }
      mgmt := { s.mgmt with settings := { s.mgmt.settings with wake := 0 } } }
    let f := routeWrite 0x2101 2 true
    let s := fun (x : State) => asked (w x) (.writeRoute 0 f)
    let suspended := fun (why : SuspendReason) => running.modRoute 0 fun r =>
      { r with state := .suspended, reason := some why }
    (s running).quiescent ∧ (s running).routes.length = 18 ∧ (s running).mgmt.settings.wake = 0 ∧
    (s running).ann.level = .watch ∧ f.program ≠ 0 ∧ f.pin = false ∧ { f with pin := true }.pin = true ∧
    ((s running).route 0).state ≠ .suspended ∧ ((s running).route 0).channel ≠ some 2 ∧
    (∀ m < 16, m ≠ 0 → (running.route m).state = .vacant) ∧
    ((s (suspended .level)).route 0).reason = some .level ∧
    ((s (suspended .request)).route 0).reason = some .request ∧
    ((s (suspended .level)).route 0).state = .suspended := by
  refine ⟨⟨rfl, rfl⟩, ?_⟩
  decide +kernel

/-- The packet lane of route 0 has become a stream lane, and its assembly is open. -/
theorem witness_LeadMapReachesRoutes_form :
    let lane := { oneLane with form := .stream }
    let s := { running with leadTracker :=
      { running.leadTracker with map := some { oneMap with lanes := [lane] } } }
    lookupLane s 0 = some lane ∧ (s.route 0).bound = some oneLane ∧ oneLane.form = .packet ∧
    lane.form = .stream ∧ (s.route 0).state = .running ∧
    ∃ a, s.packets.table.getD 0 none = some a ∧ a.route = 0 := by
  refine ⟨by decide +kernel, rfl, rfl, rfl, rfl, _, rfl, rfl⟩

/-- Eight open assemblies, the oldest in record 3. -/
def crowded : State :=
  { running with packets :=
    { table := (List.range 8).map fun i => some
        { route := 0, address := 10 + i, continuity := 1, declared := 100, bytes := List.replicate 59 0
          lastProgress := 100 }
      order := [3, 0, 1, 2, 4, 5, 6, 7] } }

/-- Address 3 is open in record 0; address 9 meets a full table; a group of one packet, whole and too short. -/
theorem witness_FirstPacketOpens_others :
    (findAssembly running 0 (head 3 0 59 false).address = some 0 ∧
      findAssembly (running.afterAbort 0 0 .restart) 0 3 = none) ∧
    (findAssembly crowded 0 9 = none ∧ (∀ j < 8, crowded.packets.table.getD j none ≠ none) ∧
      crowded.packets.order.head? = some 3 ∧ 2 ≤ (head 9 0 59 false).useful ∧
      (wordAt (dataOf 100 59) 0).toNat = 100) ∧
    (findAssembly running 0 9 = none ∧ (head 9 0 4 true).last = true ∧ (dataOf 4 4).length = (head 9 0 4 true).useful ∧
      (wordAt (dataOf 4 4) 0).toNat = 4 ∧ (wordAt (dataOf 5 4) 0).toNat ≠ (dataOf 5 4).length ∧
      blocksFor 4 ≤ running.freeBlocks ∧ running.packets.table.length = 8 ∧
      running.packets.table.getD 1 none = none ∧ 1 ∉ running.packets.order ∧
      ∀ j < 1, running.packets.table.getD j none ≠ none) ∧
    (let whole := [0, 4] ++ two (crc16 [0, 4])
     wordAt whole (4 - 2) = crc16 (whole.take (4 - 2)) ∧ whole.length = (wordAt whole 0).toNat) := by
  decide +kernel

/-- A cell that is erased, one whose packet runs past the lane, a packet with a broken check, a padding packet. -/
theorem witness_FirstPacketOpens_walk :
    let c := fun (b : Byte) (e : Bool) => ({ bytes := b :: List.replicate 15 0, erased := e } : Cell)
    (c 0 true).erased = true ∧
    ([] : List Cell).length + 1 < (packetHead (c 0xC0 false).bytes).cells ∧
    (packetHead (c 0 false).bytes).cells ≤ ([] : List Cell).length + 1 ∧
    wordAt (c 0 false).bytes 14 ≠ crc16 ((c 0 false).bytes.take 14) ∧
    (packetHead (c 0 false).bytes).address = 0 := by decide +kernel

/-- The assembly in record 0 was last filed at 100: kept by the sweep of 150, aborted by that of 151. -/
theorem witness_ContinuationFiles_sweep :
    0 < running.routes.length ∧ (∃ a, running.packets.table.getD 0 none = some a ∧ a.lastProgress = 100) ∧
    ¬ running.mgmt.settings.assembly < fnDist 100 150 ∧ running.mgmt.settings.assembly < fnDist 100 151 := by
  refine ⟨by decide +kernel, ⟨_, rfl, rfl⟩, by decide +kernel, by decide +kernel⟩

/-- One live entry. -/
theorem running_live : running.LiveKeysApart where
  length := by decide +kernel
  apart := by
    have : running.ann.live.reduceOption.length = 1 := by decide +kernel
    obtain ⟨x, hx⟩ := List.length_eq_one_iff.mp this
    rw [hx]; exact List.pairwise_singleton _ _

theorem witness_StackStaysRising_live : running.LiveKeysApart ∧ ∃ t, step running = .next t :=
  ⟨running_live, running_steps⟩

/-- The key (4, 1) moves from lane 5 to lane 6, which the map names or does not, with its announcement up. -/
theorem witness_LiveTable_lane :
    let six := { oneMap with lanes := oneMap.lanes ++ [{ oneLane with id := 6 }] }
    (∃ e, findLive announcing 4 1 = some (0, e) ∧ e.lane ≠ 6) ∧ (six.lane 6).isSome = true ∧
    oneMap.lane 6 = none ∧ announcing.ann.stack.length = 2 := by
  refine ⟨⟨_, rfl, by decide⟩, by decide, by decide, by decide +kernel⟩

/-- The announcement (4, 1) meets a full stack, a pool with pages and one without. -/
theorem witness_CandidateIsHighest_push :
    let e : LiveEntry :=
      { cluster := 4, cls := 1, lane := 5, lastSeen := 90, dismissed := false, quiet := false, noted := .none }
    let full : State := { running with ann := { running.ann with stack := running.ann.stack ++ running.ann.stack ++
      running.ann.stack ++ running.ann.stack } }
    let drained := running.modRoute 2 fun r => { r with pages := (List.range 383).map (· + 1) }
    findLive running 4 1 = some (0, e) ∧ findLive full 4 1 = some (0, e) ∧ 4 ≤ full.ann.stack.length ∧
    e.noted ≠ .stackFull ∧ e.noted ≠ .noRoom ∧ findLive drained 4 1 = some (0, e) ∧
    drained.ann.stack.length < 4 ∧ (matchTo 5 1 drained).carrierOf 5 = none ∧
    running.ann.stack.length < 4 ∧ (matchTo 5 1 running).carrierOf 5 = some 16 := by decide +kernel

/-- Route 16 is bound to lane 5, on air and not, its class kept and changed, route 17 bound beside it; no route is
bound to lane 5 and the pool has pages or none. -/
theorem witness_CandidateIsHighest_match :
    let both := (carrying 0).modRoute 17 fun r => { r with binding := some { lane := 9, cls := 2 } }
    let drained := running.modRoute 2 fun r => { r with pages := (List.range 383).map (· + 1) }
    running.routes.length = 18 ∧ both.routes.length = 18 ∧ both.carrierOf 5 = some 16 ∧
    (both.route 17).binding ≠ none ∧ both.ann.onAir ≠ some 17 ∧ (carrying 16).ann.onAir = some 16 ∧
    ((carrying 16).route 16).binding = some { lane := 5, cls := 1 } ∧
    running.carrierOf 5 = none ∧ running.lane 5 = some oneLane ∧
    pageNeed oneLane.geometry ≤ refusedRoom 5 1 running ∧ drained.carrierOf 5 = none ∧
    drained.lane 5 = some oneLane ∧ refusedRoom 5 1 drained < pageNeed oneLane.geometry := by decide +kernel

/-- Route 16 forms its first unit while the listening route is on air, and while route 17 is; and it is on air. -/
theorem witness_CandidateIsHighest_switch :
    let entry : StackEntry := { cls := some 1, cluster := 4, lane := some 5, start := some 95 }
    (∀ n ∈ [0, 16, 17], (carrying n).routes.length = 18 ∧ (carrying n).ann.stack.getLast? = some entry ∧
      entry.lane.bind (carrying n).carrierOf = some 16 ∧ ((carrying n).route 16).run = true) ∧
    entry.cls ≠ none ∧ (formedBy 16 .stream).route = 16 ∧ (carrying 17).ann.onAir = some 17 ∧
    (carrying 0).ann.onAir ≠ some 16 ∧ (carrying 16).ann.onAir = some 16 := by decide +kernel

/-- An announcement over the bottom entry, on route 16 and on air or not. -/
theorem witness_CancelRequest_program :
    (carrying 16).routes.length = 18 ∧ (carrying 16).listening = some 0 ∧ ((carrying 16).route 16).binding ≠ none ∧
    (∃ b e, (asked (carrying 16) .cancel).ann.stack = [b, e] ∧
      (carrying 16).ann.stack.head? = some b ∧ e.cls = some 1) ∧
    (asked (carrying 0) .cancel).ann.onAir = some 0 ∧ (asked (carrying 16) .cancel).LiveKeysApart :=
  ⟨by decide +kernel, by decide +kernel, by decide +kernel, ⟨_, _, rfl, rfl, rfl⟩, rfl, running_live.length, running_live.apart⟩

/-- A RESET notice owed behind a reply, and none owed. -/
theorem witness_CellStarts_first :
    let r : Reply := { tag := 7, cells := [[], []], started := 0 }
    let s : State := { State.reset with trunk := { State.reset.trunk with replies := [r] } }
    (s.trunk.line = none ∧ s.trunk.hold = false ∧ s.trunk.resetHeld = false) ∧ s.trunk.resetFirst = true ∧
    s.trunk.notices.length = 1 ∧ s.trunk.replies = [r] ∧
    ({ s.trunk with resetFirst := false } : Trunk).resetFirst = false := by decide +kernel

/-! ### Further rules, in steps -/

/-- R164, R179: a request served while RESET is held is answered after the RESET notice has been sent first. -/
theorem test_reset_notice_first :
    let go := fun (i : Instr) (s : State) => after (exec i s) s
    let s := go (.status 1) (go (.upstreamArrival (requestCell 1 [1])) (go .pinReset running))
    let t := go .cellStart (go .resetReleased s)
    let u := go .cellStart (go .cellFinish t)
    s.trunk.replies.length = 1 ∧ t.trunk.line.map LineCell.origin = some .notice ∧
    u.trunk.line.map LineCell.origin = some .reply := by decide +kernel

/-- R163: a fault in the very byte that begins a cell breaks that cell off; after a reset the bytes of a cut cell
are ignored. -/
theorem test_receiver :
    receiveLine none [.byte { data := 0, marker := true, stops := false }] = [.cellBrokenOff] ∧
    receiveLine none [.byte { data := 0, marker := true, stops := true }, .hardReset,
      .byte { data := 1, marker := false, stops := true }] = [] := by decide

/-- R31: an ENDED record at position 0 acts before a record at position 1 is rejected. -/
theorem test_records_in_position_order :
    let s := { announcing with leadTracker :=
      { announcing.leadTracker with collection := some { oneRecord with version := 6 } } }
    let f := { released 5 31 with
      records := [some (record [5, 0, 0, 4, 1, 2, 5]), some (record [1, 0x86, 0, 9]), none, none] }
    ((leadRecords f s).trunk.notices.map Notice.body).filterMap (fun b => match b with
      | .announce .remove _ _ _ _ _ _ => some true
      | .mapRejected _ _ _ _ _ => some false
      | _ => none) = [true, false] := by decide +kernel

end Sys2Proof.Tests
end

section
/-! SUPPORT. Frame time (1.5, R19): what the skip terms of a cycle add up to, and the obligation on the periods of
a link's trim. -/

namespace Sys2Proof.Machine

/-! ### Skip terms -/

/-- Each skip term is the step of `j * f / 16` from j to j + 1. -/
theorem mul_div_add_skipTerm (f j : Nat) : j * f / 16 + skipTerm f j = (j + 1) * f / 16 := by
  have hle : j * f / 16 ≤ (j + 1) * f / 16 :=
    Nat.div_le_div_right (Nat.mul_le_mul_right f (Nat.le_succ j))
  exact Nat.add_sub_cancel' hle

/-- No phase skips twice: one phase moves `j * f` by less than the 16 of one skip. -/
theorem skipTerm_le_one {f : Nat} (hf : f ≤ 15) (j : Nat) : skipTerm f j ≤ 1 := by
  have hstep := mul_div_add_skipTerm f j
  rw [Nat.succ_mul] at hstep
  omega

theorem skipTerm_eq_zero_or_one {f : Nat} (hf : f ≤ 15) (j : Nat) :
    skipTerm f j = 0 ∨ skipTerm f j = 1 :=
  Nat.le_one_iff_eq_zero_or_eq_one.mp (skipTerm_le_one hf j)

/-- The last phase of a cycle skips for every trim part but 0. -/
theorem skipTerm_last {f : Nat} (hpos : 0 < f) (hf : f ≤ 15) : skipTerm f 15 = 1 := by
  have hstep := mul_div_add_skipTerm f 15
  omega

/-- The skip terms telescope: the first n of them add up to `n * f / 16`. -/
theorem sum_skipTerm (f n : Nat) : ((List.range n).map (skipTerm f)).sum = n * f / 16 := by
  induction n with
  | zero => simp
  | succ n ih => rw [List.sum_range_succ, ih, mul_div_add_skipTerm]

/-- As a skip term is 0 or 1, the phases that skip are as many as the skip terms add up to. -/
theorem length_filter_skipTerm {f : Nat} (hf : f ≤ 15) (n : Nat) :
    ((List.range n).filter fun j => skipTerm f j = 1).length = n * f / 16 := by
  induction n with
  | zero => simp
  | succ n ih =>
    rw [List.range_succ, List.filter_append, List.length_append, ih, ← mul_div_add_skipTerm f n]
    obtain h | h := skipTerm_eq_zero_or_one hf n <;> simp [h]

/-! ### Trim parts -/

theorem Link.trimF_le (x : Link) : x.trimF ≤ 15 := by
  unfold Link.trimF Link.trimC
  omega

/-- The trim is put together again from its parts. -/
theorem Link.trim_eq (x : Link) : x.trim = 16 * x.trimC + x.trimF := by
  unfold Link.trimF Link.trimC
  omega

/-! ### Periods -/

section Range

variable {x : Link} (hlo : -1280 ≤ x.trim) (hhi : x.trim ≤ 1279)
include hlo hhi

theorem Link.trimC_mem : -80 ≤ x.trimC ∧ x.trimC ≤ 79 := by
  have htrim := x.trim_eq
  have hf := x.trimF_le
  omega

/-- In the range of the trims the period does not saturate at 0. -/
theorem Link.period_eq (j : Nat) : (x.period j : Int) = 768000 + x.trimC + skipTerm x.trimF j := by
  obtain ⟨hc, -⟩ := Link.trimC_mem hlo hhi
  simp only [Link.period, framePeriod]
  omega

theorem Link.period_mem (j : Nat) : 767920 ≤ x.period j ∧ x.period j ≤ 768080 := by
  have hperiod := Link.period_eq hlo hhi j
  have hc := Link.trimC_mem hlo hhi
  have he := skipTerm_le_one x.trimF_le j
  omega

/-- The first n periods: n times P + c, and the skips. -/
theorem Link.sum_period (n : Nat) :
    (((List.range n).map x.period).sum : Int) = n * (768000 + x.trimC) + (n * x.trimF / 16 : Nat) := by
  induction n with
  | zero => simp
  | succ n ih =>
    rw [List.sum_range_succ, Nat.cast_add, ih, Link.period_eq hlo hhi, ← mul_div_add_skipTerm]
    push_cast
    ring

/-- Over a whole cycle c and f make up the trim. -/
theorem Link.sum_period_cycle :
    (((List.range 16).map x.period).sum : Int) = 16 * 768000 + x.trim := by
  rw [Link.sum_period hlo hhi, Nat.mul_div_cancel_left x.trimF (by decide), x.trim_eq]
  push_cast
  ring

end Range

/-- At the least trim c is −80 and no phase skips. -/
theorem Link.period_least {x : Link} (h : x.trim = -1280) (j : Nat) : x.period j = 767920 := by
  have hperiod := Link.period_eq (x := x) (by omega) (by omega) j
  have htrim := x.trim_eq
  have hf := x.trimF_le
  have hf0 : x.trimF = 0 := by omega
  have he : skipTerm x.trimF j = 0 := by simp [hf0, skipTerm]
  omega

/-- At the greatest trim c is 79 and f is 15. -/
theorem Link.trimF_greatest {x : Link} (h : x.trim = 1279) : x.trimF = 15 := by
  have htrim := x.trim_eq
  have hf := x.trimF_le
  omega

/-- At the greatest trim the last phase of a cycle has the greatest period. -/
theorem Link.period_greatest {x : Link} (h : x.trim = 1279) : x.period 15 = 768080 := by
  have hperiod := Link.period_eq (x := x) (by omega) (by omega) 15
  have htrim := x.trim_eq
  have hf := Link.trimF_greatest h
  have he : skipTerm x.trimF 15 = 1 := skipTerm_last (by omega) x.trimF_le
  omega

/-- Settles O11: the skip terms of a cycle telescope to f, so the periods sum to 16·P + 16·c + f. -/
theorem trimPeriods : Obligations.TrimPeriods := by
  intro x hlo hhi
  obtain ⟨hcLo, hcHi⟩ := Link.trimC_mem hlo hhi
  have hcount : ((List.range 16).filter fun j => skipTerm x.trimF j = 1).length = x.trimF := by
    rw [length_filter_skipTerm x.trimF_le, Nat.mul_div_cancel_left x.trimF (by decide)]
  exact ⟨fun j _ => Link.period_eq hlo hhi j,
    fun j _ => skipTerm_eq_zero_or_one x.trimF_le j,
    hcount,
    Link.sum_period_cycle hlo hhi,
    hcLo, hcHi, x.trimF_le,
    fun j _ => Link.period_mem hlo hhi j,
    fun h j _ => Link.period_least h j,
    fun h => ⟨Link.trimF_greatest h, 15, by decide, Link.period_greatest h⟩⟩

end Sys2Proof.Machine
end

section
/-! SUPPORT. The link that holds a role (R48), the listening route (R108), and what the candidate check asks of
them (R67). -/

namespace Sys2Proof.Machine

/-! ### The link that holds a role -/

/-- With one lead the two links never share a role: one of them alone is LEAD. -/
theorem State.oneLead.role_ne {s : State} (h : s.oneLead) : s.linkA.role ≠ s.linkB.role := by
  intro heq
  unfold State.oneLead at h
  rw [heq] at h
  exact iff_not_self h

theorem State.linkOf_eq_none_iff {s : State} {r : Role} :
    s.linkOf r = none ↔ ∀ l, (s.link l).role ≠ r := by
  unfold State.linkOf
  constructor
  · intro hnone l
    split at hnone
    · cases hnone
    · split at hnone
      · cases hnone
      · cases l <;> assumption
  · intro hall
    exact (if_neg (hall .a)).trans (if_neg (hall .b))

theorem State.linkOf_of_role {s : State} (h : s.oneLead) {l : LinkId} {r : Role} (hl : (s.link l).role = r) :
    s.linkOf r = some l := by
  subst hl
  unfold State.linkOf
  cases l with
  | a => exact if_pos rfl
  | b => exact (if_neg h.role_ne).trans (if_pos rfl)

/-! ### The listening route -/

theorem State.listening_eq_none_iff {s : State} :
    s.listening = none ↔ ∀ n < 16, (s.route n).listening = false := by
  simp [State.listening]

theorem State.listening_eq_some {s : State} (h : s.oneListener) {n : Nat} (hn : n < 16)
    (hl : (s.route n).listening = true) : s.listening = some n := by
  unfold State.listening
  rw [List.find?_range_eq_some]
  refine ⟨hl, List.mem_range.mpr hn, fun m hm => ?_⟩
  have hne : (s.route m).listening ≠ true := fun hml => hm.ne (h m n hml hl)
  simpa using hne

/-! ### The candidate check -/

/-- R67: a map names the scout's multiplex as an alternate of the program. -/
theorem any_alternate_iff {map : Option MuxMap} {id mux : Id16} :
    (map.any fun m => m.alternates.any fun a => a.id = id && a.others.contains mux) = true ↔
      ∃ m a, map = some m ∧ a ∈ m.alternates ∧ a.id = id ∧ mux ∈ a.others := by
  cases map <;> simp

/-- R67: a map holds the program. -/
theorem isSome_bind_program_iff {map : Option MuxMap} {id : Id16} :
    (map.bind fun m => m.program id).isSome = true ↔ ∃ m p, map = some m ∧ m.program id = some p := by
  cases map <;> simp [Option.isSome_iff_exists]

/-- R67: with no scout or no listening route there is nothing to check. -/
theorem followCandidate_eq_none {s : State} {forced : Bool}
    (h : s.linkOf .scout = none ∨ s.listening = none) : followCandidate forced s = none := by
  unfold followCandidate
  split
  · rename_i hlink hroute
    obtain h | h := h
    · rw [hlink] at h; cases h
    · rw [hroute] at h; cases h
  · rfl

/-- R67: the tests of the check, once the scout and the listening route are known. -/
theorem followCandidate_isSome_iff {s : State} {forced : Bool} {l : LinkId} {n : Nat}
    (hlink : s.linkOf .scout = some l) (hroute : s.listening = some n) :
    (followCandidate forced s).isSome = true ↔
      (s.link l).sync = .locked ∧ (s.link l).level = .good ∧
      (∃ m p, s.scoutTracker.map = some m ∧ m.program (s.route n).program = some p) ∧
      (forced = true ∨ ∃ m a, s.leadTracker.map = some m ∧ a ∈ m.alternates ∧ a.id = (s.route n).program ∧
        (s.link l).followedId ∈ a.others) := by
  rw [← isSome_bind_program_iff, ← any_alternate_iff]
  simp only [followCandidate, hlink, hroute, State.leadMap]
  exact Option.isSome_ite

/-- Settles O27: the check reads one scout link and one listening route, and its tests are R67's. -/
theorem candidateCheck : Obligations.CandidateCheck := by
  intro s forced hlead hlistener
  refine ⟨fun hmissing => ?_, fun l n hscout hn hlistens => ?_⟩
  · exact followCandidate_eq_none
      (hmissing.imp State.linkOf_eq_none_iff.mpr State.listening_eq_none_iff.mpr)
  · exact followCandidate_isSome_iff (State.linkOf_of_role hlead hscout)
      (State.listening_eq_some hlistener hn hlistens)

end Sys2Proof.Machine
end

section
/-! SUPPORT. ARM and DISARM (R65): the range of the arm record, and how each request is answered. -/

namespace Sys2Proof.Machine

/-- R167, R114: with no evaluation due, the reply shows the state that the act left. -/
theorem replyAfter_of_quiescent {t : State} (ht : t.quiescent) (s : State) (req : Request) (o : Outcome)
    (cells : State → List (List Byte)) :
    replyAfter s req o cells t = answer req (lastOf s o) (cells t) t := by
  unfold replyAfter reply
  rw [settle_of_quiescent ht]
  rfl

theorem dropSelection_eq_cleared (s : State) : dropSelection s = s.cleared s.mgmt.cursor := rfl

theorem State.quiescent.cleared {s : State} (h : s.quiescent) (c : Cursor) : (s.cleared c).quiescent := h

theorem State.quiescent.setArm {s : State} (h : s.quiescent) (n : Option Fn) : (setArm n s).quiescent := h

/-! ### The range of ARM -/

theorem armInRange_of_none {n : Fn} {s : State} (h : s.merge.releasePoint = none) : armInRange n s = false := by
  simp [armInRange, h]

theorem armInRange_of_some {n rp : Fn} {s : State} (h : s.merge.releasePoint = some rp) :
    armInRange n s = true ↔ 1 ≤ fnDist rp n ∧ fnDist rp n ≤ 2047 := by
  simp [armInRange, h, fnAfter]

/-! ### The answers -/

section Arm

variable {s : State} {tag : Tag} {n : Fn} (hq : s.quiescent) (h : s.Serves { tag := tag, op := .arm n })
include hq h

/-- R65: ARM is judged by the level, then by the range. -/
theorem exec_arm_of_serves : exec (.arm tag n) s = .next (
    let req : Request := { tag := tag, op := .arm n }
    let c := s.cleared s.mgmt.cursor
    if s.ann.level = .watch then answer req (lastOf s .level) [armCell c] c
    else if armInRange n s then answer req (lastOf s .ok) [armCell (setArm (some n) c)] (setArm (some n) c)
    else answer req (lastOf s .range) [armCell c] c) := by
  have hc := hq.cleared s.mgmt.cursor
  show execArm tag n s = _
  rw [execArm, serve_of_serves h]
  simp only [serveArm, dropSelection_eq_cleared, replyAfter_of_quiescent hc,
    replyAfter_of_quiescent (hc.setArm (some n))]
  rfl

theorem exec_arm_watch (hw : s.ann.level = .watch) : exec (.arm tag n) s = .next
    (answer { tag := tag, op := .arm n } (lastOf s .level) [armCell s] (s.cleared s.mgmt.cursor)) := by
  rw [exec_arm_of_serves hq h]
  exact congrArg _ (if_pos hw)

theorem exec_arm_outOfRange (hr : s.ann.level = .run) (hn : ¬ armInRange n s = true) :
    exec (.arm tag n) s = .next
      (answer { tag := tag, op := .arm n } (lastOf s .range) [armCell s] (s.cleared s.mgmt.cursor)) := by
  have hw : s.ann.level ≠ .watch := by simp [hr]
  rw [exec_arm_of_serves hq h]
  exact congrArg _ ((if_neg hw).trans (if_neg hn))

theorem exec_arm_inRange (hr : s.ann.level = .run) (hn : armInRange n s = true) :
    exec (.arm tag n) s = .next
      (answer { tag := tag, op := .arm n } (lastOf s .ok) [armCell (setArm (some n) s)]
        (setArm (some n) (s.cleared s.mgmt.cursor))) := by
  have hw : s.ann.level ≠ .watch := by simp [hr]
  rw [exec_arm_of_serves hq h]
  exact congrArg _ ((if_neg hw).trans (if_pos hn))

end Arm

/-- R65: DISARM, in either level. -/
theorem exec_disarm_of_serves {s : State} {tag : Tag} (hq : s.quiescent)
    (h : s.Serves { tag := tag, op := .disarm }) : exec (.disarm tag) s = .next
      (answer { tag := tag, op := .disarm } (lastOf s .ok) [armCell (setArm none s)]
        (setArm none (s.cleared s.mgmt.cursor))) := by
  have ht := (hq.cleared s.mgmt.cursor).setArm none
  show execDisarm tag s = _
  rw [execDisarm, serve_of_serves h, dropSelection_eq_cleared, replyAfter_of_quiescent ht]
  rfl

/-- Settles O30: ARM by its level and range, and DISARM. -/
theorem armRequests : Obligations.ArmRequests := by
  intro s tag hq
  refine ⟨fun n hserves => ⟨?watch, ?noPoint, ?outside, ?inside⟩, exec_disarm_of_serves hq⟩
  case watch => exact exec_arm_watch hq hserves
  case noPoint =>
    intro hrun hnone
    exact exec_arm_outOfRange hq hserves hrun (by simp [armInRange_of_none hnone])
  case outside =>
    intro rp hrun hrp hdist
    refine exec_arm_outOfRange hq hserves hrun ?_
    rw [armInRange_of_some hrp]
    omega
  case inside =>
    intro rp hrun hrp hlo hhi
    exact exec_arm_inRange hq hserves hrun ((armInRange_of_some hrp).mpr ⟨hlo, hhi⟩)

end Sys2Proof.Machine
end

section
/-! SUPPORT. The selection sequence (R113): how each request is judged in each phase. -/

namespace Sys2Proof.Machine

/-! ### The judgement of MARK-FROM, MARK-TO and UNMARK -/

section Judgement

variable {s : State} {r : Byte} {req : Request}

theorem serveMarkFrom_of_gt (h : 16 ≤ r.toNat) :
    serveMarkFrom r req s = selectionReply req .badIndex false s.mgmt.selection s := if_pos h

/-- R113: MARK-FROM starts a record in every phase; SEQUENCE_RESET tells that it dropped one. -/
theorem serveMarkFrom_of_le (h : r.toNat ≤ 15) :
    serveMarkFrom r req s = selectionReply req .ok (selecting s)
      { phase := .fromSet, first := some r.toNat, last := none, unmarked := [] } s := if_neg h.not_gt

theorem serveMarkTo_of_gt (h : 16 ≤ r.toNat) :
    serveMarkTo r req s = selectionReply req .badIndex false s.mgmt.selection s := if_pos h

theorem serveMarkTo_of_first_le {a : Nat} (h : r.toNat ≤ 15) (hp : s.mgmt.selection.phase = .fromSet)
    (ha : s.mgmt.selection.first = some a) (har : a ≤ r.toNat) :
    serveMarkTo r req s =
      selectionReply req .ok false { s.mgmt.selection with phase := .toSet, last := some r.toNat } s := by
  have htaken : s.mgmt.selection.phase = .fromSet ∧ s.mgmt.selection.first.getD 0 ≤ r.toNat :=
    ⟨hp, by rw [ha]; exact har⟩
  exact (if_neg h.not_gt).trans (if_pos htaken)

theorem serveMarkTo_of_lt_first {a : Nat} (h : r.toNat ≤ 15) (ha : s.mgmt.selection.first = some a)
    (har : r.toNat < a) : serveMarkTo r req s = selectionReply req .sequence false .idle s := by
  have hrefused : ¬ (s.mgmt.selection.phase = .fromSet ∧ s.mgmt.selection.first.getD 0 ≤ r.toNat) := by
    rw [ha]
    exact fun htaken => har.not_ge htaken.2
  exact (if_neg h.not_gt).trans (if_neg hrefused)

theorem serveMarkTo_of_phase_ne (h : r.toNat ≤ 15) (hp : s.mgmt.selection.phase ≠ .fromSet) :
    serveMarkTo r req s = selectionReply req .sequence false .idle s :=
  (if_neg h.not_gt).trans (if_neg fun htaken => hp htaken.1)

theorem Selection.spans_iff {x : Selection} {a b n : Nat} (ha : x.first = some a) (hb : x.last = some b) :
    x.spans n = true ↔ a ≤ n ∧ n ≤ b := by
  simp [Selection.spans, ha, hb]

theorem serveUnmark_of_gt (h : 16 ≤ r.toNat) :
    serveUnmark r req s = selectionReply req .badIndex false s.mgmt.selection s := if_pos h

theorem serveUnmark_of_phase_ne (h : r.toNat ≤ 15) (hp : s.mgmt.selection.phase ≠ .toSet) :
    serveUnmark r req s = selectionReply req .sequence false .idle s :=
  (if_neg h.not_gt).trans (if_pos hp)

/-- R113: in TO_SET an UNMARK is judged by from..to, then by the list of the unmarked. -/
theorem serveUnmark_toSet {a b : Nat} (h : r.toNat ≤ 15) (hp : s.mgmt.selection.phase = .toSet)
    (ha : s.mgmt.selection.first = some a) (hb : s.mgmt.selection.last = some b) :
    serveUnmark r req s =
      let x := s.mgmt.selection
      if a ≤ r.toNat ∧ r.toNat ≤ b then
        if r.toNat ∈ x.unmarked then selectionReply req .ok false x s
        else if 4 ≤ x.unmarked.length then selectionReply req .sequence false .idle s
        else selectionReply req .ok false { x with unmarked := x.unmarked ++ [r.toNat] } s
      else selectionReply req .range false x s := by
  have hphase : ¬ (s.mgmt.selection.phase ≠ .toSet) := not_not_intro hp
  simp only [serveUnmark, if_neg h.not_gt, if_neg hphase, Bool.not_eq_true', ← Bool.not_eq_true, ite_not,
    Selection.spans_iff ha hb, List.contains_iff_mem]

/-- R113: out of TO_SET an APPLY of any action is refused. -/
theorem serveApply_of_phase_ne (hp : s.mgmt.selection.phase ≠ .toSet) :
    serveApply r req s = refuseApply req .sequence s := if_pos hp

end Judgement

/-! ### The answers -/

section Answers

variable {s : State} {tag : Tag} {r : Byte}

theorem exec_markFrom_of_serves (h : s.Serves { tag := tag, op := .markFrom r }) :
    exec (.markFrom tag r) s = .next (serveMarkFrom r { tag := tag, op := .markFrom r } s) :=
  serve_of_serves h

theorem exec_markTo_of_serves (h : s.Serves { tag := tag, op := .markTo r }) :
    exec (.markTo tag r) s = .next (serveMarkTo r { tag := tag, op := .markTo r } s) :=
  serve_of_serves h

theorem exec_unmark_of_serves (h : s.Serves { tag := tag, op := .unmark r }) :
    exec (.unmark tag r) s = .next (serveUnmark r { tag := tag, op := .unmark r } s) :=
  serve_of_serves h

/-- R113: each APPLY row, out of TO_SET. -/
theorem serveIf_apply_of_phase_ne {kind : ApplyKind} (hp : s.mgmt.selection.phase ≠ .toSet)
    (hk : isApply kind (.apply r) = true) (h : s.Serves { tag := tag, op := .apply r }) :
    serveIf tag (isApply kind) serveApplyOf s =
      .next (refuseApply { tag := tag, op := .apply r } .sequence s) :=
  (serveIf_of_serves h hk).trans (congrArg _ (serveApply_of_phase_ne hp))

end Answers

/-- Settles O38: each request by the bound on its route, then by the phase. -/
theorem selectionSequence : Obligations.SelectionSequence := by
  intro s tag r x answered
  refine ⟨fun hserves => ?markFrom, fun hserves => ?markTo, fun hserves => ?unmark, fun hphase => ?apply⟩
  case markFrom =>
    rw [exec_markFrom_of_serves hserves]
    refine ⟨fun hr => ?_, fun hr hidle => ?_, fun hr hbusy => ?_⟩
    · rw [serveMarkFrom_of_gt hr]; rfl
    · have hselecting : selecting s = false := decide_eq_false (not_not_intro hidle)
      rw [serveMarkFrom_of_le hr, hselecting]; rfl
    · have hselecting : selecting s = true := decide_eq_true hbusy
      rw [serveMarkFrom_of_le hr, hselecting]; rfl
  case markTo =>
    rw [exec_markTo_of_serves hserves]
    refine ⟨fun hr => ?_, fun a hr hfrom ha har => ?_, fun a hr _ ha har => ?_, fun hr hphase => ?_⟩
    · rw [serveMarkTo_of_gt hr]; rfl
    · rw [serveMarkTo_of_first_le hr hfrom ha har]; rfl
    · rw [serveMarkTo_of_lt_first hr ha har]; rfl
    · rw [serveMarkTo_of_phase_ne hr hphase]; rfl
  case unmark =>
    rw [exec_unmark_of_serves hserves]
    refine ⟨fun hr => ?_, fun hr hphase => ?_, fun a b hr hphase ha hb => ?_⟩
    · rw [serveUnmark_of_gt hr]; rfl
    · rw [serveUnmark_of_phase_ne hr hphase]; rfl
    · rw [serveUnmark_toSet hr hphase ha hb]
      refine ⟨fun hout => ?_, fun hlo hhi hmem => ?_, fun hlo hhi hmem hroom => ?_,
        fun hlo hhi hmem hfull => ?_⟩
      · have houtside : ¬ (a ≤ r.toNat ∧ r.toNat ≤ b) := by omega
        exact congrArg _ (if_neg houtside)
      · exact congrArg _ ((if_pos ⟨hlo, hhi⟩).trans (if_pos hmem))
      · exact congrArg _ ((if_pos ⟨hlo, hhi⟩).trans ((if_neg hmem).trans (if_neg hroom.not_ge)))
      · exact congrArg _ ((if_pos ⟨hlo, hhi⟩).trans ((if_neg hmem).trans (if_pos hfull)))
  case apply =>
    refine ⟨?_, ?_, ?_⟩ <;> rintro rfl hserves
    · exact serveIf_apply_of_phase_ne (kind := .release) hphase rfl hserves
    · exact serveIf_apply_of_phase_ne (kind := .suspend) hphase rfl hserves
    · exact serveIf_apply_of_phase_ne (kind := .engage) hphase rfl hserves

end Sys2Proof.Machine
end

section
/-! SUPPORT. The receive line (R155, R156, R163): what a whole cell says, and how the receiver judges it. -/

namespace Sys2Proof.Machine

/-! ### The fields of an upstream cell (10.5) -/

theorem upstreamOk_iff (cell : List Byte) :
    upstreamOk cell = true ↔ byteAt cell 3 = crc8 (cell.take 3 ++ cell.drop 4) := beq_iff_eq

/-- The channel is the upper five bits of byte 0. -/
theorem cellChannel_eq (cell : List Byte) : cellChannel cell = (byteAt cell 0).toNat / 8 := by
  have hbyte := (byteAt cell 0).isLt
  simp only [cellChannel, BitVec.extractLsb'_toNat, Nat.shiftRight_eq_div_pow]
  omega

/-- The tag begins at bit 6 of bytes 1..2; `BitVec.ofNat 8` cuts off the two bits above it. -/
theorem cellTag_eq (cell : List Byte) : cellTag cell = BitVec.ofNat 8 ((wordAt cell 1).toNat / 64) := by
  apply BitVec.eq_of_toNat_eq
  simp only [cellTag, BitVec.extractLsb'_toNat, BitVec.toNat_ofNat, Nat.shiftRight_eq_div_pow]

/-! ### The receiver's three steps -/

section Receiver

variable {cell : List Byte} {s : State}

/-- R156: an offered request finds the queue full, or enters at its back. -/
theorem admitRequest_of_full {req : Request} (hfull : 4 ≤ s.mgmt.requests.length) :
    admitRequest req s = loseRequest s := if_neg hfull.not_gt

theorem admitRequest_of_room {req : Request} (hroom : s.mgmt.requests.length < 4) :
    admitRequest req s = { s with mgmt := { s.mgmt with requests := s.mgmt.requests ++ [req] } } := if_pos hroom

/-- R155, step 1: a failed check ends the judgement. -/
theorem judgeCell_of_badCheck (hbad : upstreamOk cell ≠ true) : judgeCell cell s = loseRequest s :=
  if_pos (by simpa using hbad)

/-- Past step 1 the channel decides; the cell of another channel goes the way of a failed check. -/
theorem judgeCell_of_goodCheck (hgood : upstreamOk cell = true) :
    judgeCell cell s =
      if cellChannel cell ≠ 0 then loseRequest s
      else admitRequest { tag := cellTag cell, op := requestOf (cell.drop 4) } s :=
  if_neg (by simpa using hgood)

/-- R155, step 2: a cell of a channel other than 0 is discarded, whatever its check said. -/
theorem judgeCell_of_otherChannel (hother : cellChannel cell ≠ 0) : judgeCell cell s = loseRequest s := by
  by_cases hcheck : upstreamOk cell = true
  · exact (judgeCell_of_goodCheck hcheck).trans (if_pos hother)
  · exact judgeCell_of_badCheck hcheck

/-- R155, step 3: a cell that passes both tests is offered to the request queue. -/
theorem judgeCell_of_request (hgood : upstreamOk cell = true) (hzero : cellChannel cell = 0) :
    judgeCell cell s = admitRequest { tag := cellTag cell, op := requestOf (cell.drop 4) } s :=
  (judgeCell_of_goodCheck hgood).trans (if_neg (not_not_intro hzero))

/-- R156: no cell gets past a full request queue. -/
theorem judgeCell_of_full (hfull : 4 ≤ s.mgmt.requests.length) : judgeCell cell s = loseRequest s := by
  by_cases hcheck : upstreamOk cell = true
  · by_cases hchannel : cellChannel cell = 0
    · rw [judgeCell_of_request hcheck hchannel, admitRequest_of_full hfull]
    · exact judgeCell_of_otherChannel hchannel
  · exact judgeCell_of_badCheck hcheck

theorem exec_upstreamArrival_of_length (hlen : cell.length = trunkCellBytes) :
    exec (.upstreamArrival cell) s = .next (judgeCell cell s) := if_pos hlen

end Receiver

/-- Settles O52: a cell of 20 bytes is judged, and each discard is `loseRequest`. -/
theorem upstreamCells : Obligations.UpstreamCells := by
  intro s cell hlen lost
  have hlost : .next (loseRequest s) = lost := rfl
  rw [exec_upstreamArrival_of_length hlen, ← cellChannel_eq, ← cellTag_eq, ← hlost]
  refine ⟨rfl, fun hbad => ?check, fun hother => ?channel, fun hfull => ?full, fun hgood hzero hroom => ?admitted⟩
  case check => rw [judgeCell_of_badCheck (mt (upstreamOk_iff cell).mp hbad)]
  case channel => rw [judgeCell_of_otherChannel hother]
  case full => rw [judgeCell_of_full hfull]
  case admitted => rw [judgeCell_of_request ((upstreamOk_iff cell).mpr hgood) hzero, admitRequest_of_room hroom]

end Sys2Proof.Machine
end

section
/-! SUPPORT. STATUS (R177): the bytes of a reply head, and what the request leaves behind. -/

namespace Sys2Proof.Machine

section Head

variable {s : State} {code : Byte}

/-- R175, 10.8: with outcome OK and both LAST flags clear, bytes 1 and 2 of a reply head are zero. -/
theorem replyHead_of_last_reset (h : s.mgmt.last = .reset) :
    replyHead s code =
      body16 [code, 0, 0, currentFlags s, BitVec.ofNat 8 s.ann.stack.length, stickyByte s.mgmt.sticky] := by
  rw [replyHead, statusWord, h]
  rfl

/-- The CURRENT flags read nothing that the answering of a request changes. -/
theorem currentFlags_answered (last : LastFlags) (requests : List Request) :
    currentFlags { s with mgmt := { s.mgmt with last := last, requests := requests } } = currentFlags s := rfl

/-- R167, R175: an answer whose LAST flags are all clear; its head shows the flags as they stood before it. -/
theorem answer_last_reset (req : Request) (cells : List (List Byte)) :
    answer req .reset cells s =
      { s with
        mgmt := { s.mgmt with requests := s.mgmt.requests.tail, last := .reset }
        trunk := { s.trunk with replies := s.trunk.replies ++
          [{ tag := req.tag, started := 0
             cells :=
              body16 [req.op.code, 0, 0, currentFlags s, BitVec.ofNat 8 s.ann.stack.length,
                stickyByte s.mgmt.sticky] :: cells }] } } := by
  rw [answer, List.drop_one, replyHead_of_last_reset rfl, currentFlags_answered]

end Head

theorem exec_status_of_serves {s : State} {tag : Tag} (h : s.Serves { tag := tag, op := .status }) :
    exec (.status tag) s = .next (serveStatus { tag := tag, op := .status } s) :=
  serve_of_serves h

/-- Settles O56: the head is formed before the sticky flags are cleared. -/
theorem statusRequest : Obligations.StatusRequest := by
  intro s tag hserves
  rw [exec_status_of_serves hserves, serveStatus, answer_last_reset]
  rfl

end Sys2Proof.Machine
end

section
/-! SUPPORT. One step (95): a property that every command keeps, and that does not read the queue of waiting
commands, is kept by a step. -/

namespace Sys2Proof.Machine

/-- On an empty queue the part idles; otherwise the front command runs. -/
theorem step_keeps {P : State → Prop} {s t : State} (hs : P s)
    (hrest : ∀ rest, P s → P { s with pending := rest })
    (hexec : ∀ (c : Instr) (u : State), P u → exec c u = .next t → P t) (ht : step s = .next t) : P t := by
  unfold step at ht
  split at ht
  · cases ht
    exact hs
  · exact hexec _ _ (hrest _ hs) ht

end Sys2Proof.Machine
end

section
/-! SUPPORT. The link entries (chapter 1): every command keeps each coherent (O13). -/

namespace Sys2Proof.Machine

/-- A change that keeps the port's own part of an entry keeps it coherent. -/
theorem Link.Coherent.of_port {x y : Link} (h : x.Coherent) (hp : y.port = x.port) : y.Coherent := by
  have field {α : Type} (g : Link → α) (hg : ∀ z : Link, g z.port = g z) : g y = g x := by rw [← hg y, hp, hg]
  exact h.of_eq (field Link.sync fun _ => rfl) (field Link.due fun _ => rfl) (field Link.window fun _ => rfl)
    (field Link.score fun _ => rfl) (field Link.quality fun _ => rfl) (field Link.level fun _ => rfl)
    (.inl (field Link.lastFn fun _ => rfl)) (field Link.trim fun _ => rfl) (field Link.phase fun _ => rfl)

theorem Link.Coherent.setRole {x : Link} (h : x.Coherent) (r : Role) : ({ x with role := r } : Link).Coherent :=
  h.of_eq rfl rfl rfl rfl rfl rfl (.inl rfl) rfl rfl

theorem State.linksCoherent_iff {s : State} : s.linksCoherent ↔ ∀ l, (s.link l).Coherent :=
  ⟨fun h l => by cases l; exacts [h.1, h.2], fun h => ⟨h .a, h .b⟩⟩

/-- A change of one entry that keeps it coherent. -/
theorem State.linksCoherent.modLink {s : State} (h : s.linksCoherent) (l : LinkId) (f : Link → Link)
    (hf : (s.link l).Coherent → (f (s.link l)).Coherent) : (s.modLink l f).linksCoherent := by
  cases l
  · exact ⟨hf h.1, h.2⟩
  · exact ⟨h.1, hf h.2⟩

theorem coherentEngine : Engine State.linksCoherent := Engine.ofLinks fun x y => x.Coherent ∧ y.Coherent

theorem coherentKept : Commands State.linksCoherent where
  toEngine := coherentEngine
  merge _ _ hs := hs
  marks _ _ hs _ := hs
  counters _ l f hs hf := hs.modLink l f fun hx => hx.of_port (hf _)
  act _ hs := coherentEngine.actApply (fun _ _ h _ _ => h) (fun _ _ h => h) hs
  due _ _ hs := hs
  decided _ _ hs := hs
  lead _ _ _ hs _ := (hs.modLink _ _ fun hx => hx.setRole _).modLink _ _ fun hx => hx.setRole _
  other _ _ _ hs _ _ := hs.modLink _ _ fun hx => hx.setRole _
  free _ _ hs := hs
  undecide _ hs := hs
  port _ l f hs _ hc := hs.modLink l f hc
  clock _ _ hs := hs
  mgmt _ _ hs _ _ _ _ := hs
  answer _ _ _ _ hs _ _ := hs
  accept _ _ hs _ _ := hs
  queueRequest _ _ hs _ := hs
  trunk _ _ hs _ _ := hs
  written s n f _ hs := by
    unfold takeListening
    split <;> exact hs

theorem reset_linksCoherent : State.reset.linksCoherent := ⟨.reset _, .reset _⟩

/-- Settles O13: the reset entries are coherent, and every other change of an entry keeps it so. -/
theorem linksStayCoherent : Obligations.LinksStayCoherent := by
  intro s t hs ht
  refine step_keeps hs (fun _ h => h) (fun c u hu hn => coherentKept.exec c ?_ hu hn) ht
  cases c with
  | powerOnReset => intro t ht; cases ht; exact reset_linksCoherent
  | pinReset => intro t ht; cases ht; exact reset_linksCoherent
  | reset tag => exact reset_linksCoherent
  | status tag => exact fun _ h => h
  | writeSettings tag f => exact fun _ _ h => h
  | levelWatch tag => exact fun _ _ h => h
  | _ => trivial

end Sys2Proof.Machine
end

section
/-! SUPPORT. Properties of the routes, the pages, the announcement controller, the settings and the sticky flags
alone: what the engine keeps of them, every command keeps (O31, O32, O60). -/

namespace Sys2Proof.Machine

/-- A property the engine keeps, and that reads nothing but routes, store, controller, settings and flags, is one
that every command keeps, once the fields of a ROUTE write keep it. -/
theorem Engine.commands {P : State → Prop} (h : Engine P)
    (reads : ∀ s t, P s → t.routes = s.routes → t.store = s.store → t.ann = s.ann →
      t.mgmt.settings = s.mgmt.settings → t.mgmt.sticky = s.mgmt.sticky → P t)
    (written : ∀ s n f, P s → P (takeListening n f (s.modRoute n (Route.written f)))) : Commands P where
  toEngine := h
  merge s _ hs := reads s _ hs rfl rfl rfl rfl rfl
  marks s _ hs _ := reads s _ hs rfl rfl rfl rfl rfl
  counters s l _ hs _ := reads s _ hs (by simp) (by simp) (by simp) (by simp) (by simp)
  act _ hs := h.actApply (fun s _ hs h1 h2 => reads s _ hs rfl rfl rfl h1 h2)
    (fun s _ hs => reads s _ hs rfl rfl rfl rfl rfl) hs
  due s _ hs := reads s _ hs rfl rfl rfl rfl rfl
  decided s _ hs := reads s _ hs rfl rfl rfl rfl rfl
  lead s _ _ hs _ := reads s _ hs (by simp) (by simp) (by simp) (by simp) (by simp)
  other s _ _ hs _ _ := reads s _ hs (by simp) (by simp) (by simp) (by simp) (by simp)
  free s _ hs := reads s _ hs rfl rfl rfl rfl rfl
  undecide s hs := reads s _ hs rfl rfl rfl rfl rfl
  port s _ _ hs _ _ := reads s _ hs (by simp) (by simp) (by simp) (by simp) (by simp)
  clock s _ hs := reads s _ hs rfl rfl rfl rfl rfl
  mgmt s _ hs _ _ h1 h2 := reads s _ hs rfl rfl rfl h1 h2
  answer s _ _ _ hs _ _ := reads s _ hs rfl rfl rfl rfl rfl
  accept s _ hs _ _ := reads s _ hs rfl rfl rfl rfl rfl
  queueRequest s _ hs _ := reads s _ hs rfl rfl rfl rfl rfl
  trunk s _ hs _ _ := reads s _ hs rfl rfl rfl rfl rfl
  written s n f _ hs := written s n f hs

/-! ### The fields of a ROUTE write -/

theorem takeListening_store (n : Nat) (f : RouteFields) (s : State) : (takeListening n f s).store = s.store := by
  unfold takeListening
  split <;> rfl

theorem takeListening_ann (n : Nat) (f : RouteFields) (s : State) : (takeListening n f s).ann = s.ann := by
  unfold takeListening
  split <;> rfl

theorem takeListening_mgmt (n : Nat) (f : RouteFields) (s : State) : (takeListening n f s).mgmt = s.mgmt := by
  unfold takeListening
  split <;> rfl

/-! ### The page memory -/

theorem canonicalEngine : Engine fun s => cellsWf s.store.cells = true where
  routes _ _ hs _ := hs
  grant _ _ _ hs _ _ _ := hs
  refusal _ _ hs := hs
  write _ _ _ _ _ hs := writeLane_wf _ _ _ _ _ hs
  packets _ _ hs := hs
  ann _ _ hs _ := hs
  tracker _ t _ hs := by cases t <;> exact hs
  sticky _ _ hs _ := hs
  raise _ _ _ hs := by simpa using hs

theorem canonicalKept : Commands fun s => cellsWf s.store.cells = true :=
  canonicalEngine.commands (fun _ _ hs _ hstore _ _ _ => by rw [hstore]; exact hs)
    (fun _ _ _ hs => by rw [takeListening_store]; exact hs)

/-- Settles O31: the only write of the memory is that of a release, and every reset keeps the pages. -/
theorem memoryStaysCanonical : Obligations.MemoryStaysCanonical := by
  intro s t hs ht
  refine step_keeps (P := fun s => cellsWf s.store.cells = true) hs (fun _ h => h)
    (fun c u hu hn => canonicalKept.exec c ?_ hu hn) ht
  cases c with
  | powerOnReset => intro t ht; cases ht; exact hu
  | pinReset => intro t ht; cases ht; exact hu
  | reset tag => exact hu
  | status tag => exact fun _ h => h
  | writeSettings tag f => exact fun _ _ h => h
  | levelWatch tag => exact fun _ _ h => h
  | _ => trivial

/-! ### Sticky flags, settings and level -/

theorem Sticky.Within.trans {k l m : Sticky} (h : Sticky.Within k l) (h' : Sticky.Within l m) :
    Sticky.Within k m := by
  obtain ⟨a1, a2, a3, a4, a5, a6, a7⟩ := h
  obtain ⟨b1, b2, b3, b4, b5, b6, b7⟩ := h'
  exact ⟨b1 ∘ a1, b2 ∘ a2, b3 ∘ a3, b4 ∘ a4, b5 ∘ a5, b6 ∘ a6, b7 ∘ a7⟩

theorem State.raiseAt_within (s : State) (fn : Option Fn) (b : NoticeBody) :
    Sticky.Within s.mgmt.sticky (s.raiseAt fn b).mgmt.sticky := by
  unfold State.raiseAt
  dsimp only
  split
  · exact Sticky.Within.refl _
  · exact ⟨fun _ => rfl, id, id, id, id, id, id⟩

/-- The flags that stand only rise. -/
theorem stickyKept (k : Sticky) : Commands fun s => Sticky.Within k s.mgmt.sticky :=
  Engine.commands
    { routes := fun _ _ hs _ => hs
      grant := fun _ _ _ hs _ _ _ => hs
      refusal := fun _ _ hs => hs
      write := fun _ _ _ _ _ hs => hs
      packets := fun _ _ hs => hs
      ann := fun _ _ hs _ => hs
      tracker := fun _ t _ hs => by cases t <;> exact hs
      sticky := fun _ _ hs hf => hs.trans (hf _)
      raise := fun s fn b hs => hs.trans (s.raiseAt_within fn b) }
    (fun _ _ hs _ _ _ _ hsticky => by rw [hsticky]; exact hs)
    (fun _ _ _ hs => by rw [takeListening_mgmt]; exact hs)

theorem settingsKept (st : Settings) : Commands fun s => s.mgmt.settings = st :=
  Engine.commands
    { routes := fun _ _ hs _ => hs
      grant := fun _ _ _ hs _ _ _ => hs
      refusal := fun _ _ hs => hs
      write := fun _ _ _ _ _ hs => hs
      packets := fun _ _ hs => hs
      ann := fun _ _ hs _ => hs
      tracker := fun _ t _ hs => by cases t <;> exact hs
      sticky := fun _ _ hs _ => hs
      raise := fun _ _ _ hs => by simpa using hs }
    (fun _ _ hs _ _ _ hsettings _ => hsettings.trans hs)
    (fun _ _ _ hs => by rw [takeListening_mgmt]; exact hs)

theorem runKept : Commands fun s => s.ann.level = .run :=
  Engine.commands
    { routes := fun _ _ hs _ => hs
      grant := fun _ _ _ hs _ _ _ => hs
      refusal := fun _ _ hs => hs
      write := fun _ _ _ _ _ hs => hs
      packets := fun _ _ hs => hs
      ann := fun _ _ hs hl => hl.elim (fun h => h.trans hs) id
      tracker := fun _ t _ hs => by cases t <;> exact hs
      sticky := fun _ _ hs _ => hs
      raise := fun _ _ _ hs => by simpa using hs }
    (fun _ _ hs _ _ hann _ _ => by rw [hann]; exact hs)
    (fun _ _ _ hs => by rw [takeListening_ann]; exact hs)

/-- Settles O60: each of the three is kept by every update of the commands, but for those of the rows named. -/
theorem onlyTheseEvents : Obligations.OnlyTheseEvents := by
  intro c s t ht
  refine ⟨fun hstatus hreset hpower hpin => ?_, fun hwrite hpower hpin => ?_, fun hwatch hrun => ?_⟩
  · refine (stickyKept s.mgmt.sticky).exec c ?_ (Sticky.Within.refl _) ht
    cases c with
    | powerOnReset => exact absurd rfl hpower
    | pinReset => exact absurd rfl hpin
    | reset tag => exact absurd rfl (hreset tag)
    | status tag => exact absurd rfl (hstatus tag)
    | writeSettings tag f => exact fun _ _ h => h
    | levelWatch tag => exact fun _ _ h => h
    | _ => trivial
  · refine (settingsKept s.mgmt.settings).exec c ?_ rfl ht
    cases c with
    | powerOnReset => exact absurd rfl hpower
    | pinReset => exact absurd rfl hpin
    | reset tag => exact rfl
    | status tag => exact fun _ h => h
    | writeSettings tag f => exact absurd rfl (hwrite tag f)
    | levelWatch tag => exact fun _ _ h => h
    | _ => trivial
  · refine runKept.exec c ?_ hrun ht
    cases c with
    | powerOnReset => intro t ht; cases ht; rfl
    | pinReset => intro t ht; cases ht; rfl
    | reset tag => exact rfl
    | status tag => exact fun _ h => h
    | writeSettings tag f => exact fun _ _ h => h
    | levelWatch tag => exact absurd rfl (hwatch tag)
    | _ => trivial

end Sys2Proof.Machine
end

section
/-! SUPPORT. The page pool (R71, R72): every command leaves the page lists apart and each route its need (O32). -/

namespace Sys2Proof.Machine

/-- Pages are kept or returned, route by route, so the page lists stay a part of what they were. -/
theorem flatMap_pages_sublist {rs rs' : List Route}
    (h : List.Forall₂ (fun r r' => r'.pages = r.pages ∨ r'.pages = []) rs rs') :
    (rs'.flatMap Route.pages).Sublist (rs.flatMap Route.pages) := by
  induction h with
  | nil => exact .refl _
  | cons hr _ ih =>
    simp only [List.flatMap_cons]
    obtain hr | hr := hr
    · rw [hr]; exact (List.Sublist.refl _).append ih
    · rw [hr]; exact ih.trans (List.sublist_append_right _ _)

theorem pagesApart.sublist {rs rs' : List Route} (h : pagesApart rs)
    (hs : (rs'.flatMap Route.pages).Sublist (rs.flatMap Route.pages)) : pagesApart rs' :=
  ⟨hs.nodup h.1, fun p hp => h.2 p (hs.subset hp)⟩

/-- Route by route, what keeps the pool shared: pages are kept or returned, and the need stays met. -/
theorem State.PoolShared.of_routes {s t : State} (h : s.PoolShared) (hl : t.routes.length = s.routes.length)
    (hr : ∀ (n : Nat) (r r' : Route), s.routes[n]? = some r → t.routes[n]? = some r' →
      (r'.pages = r.pages ∨ r'.pages = []) ∧ (r.HoldsNeed → r'.HoldsNeed)) : t.PoolShared where
  routes := hl.trans h.routes
  apart := by
    refine h.apart.sublist (flatMap_pages_sublist (List.forall₂_iff_get.mpr ⟨hl.symm, fun n h1 h2 => ?_⟩))
    exact (hr n _ _ (List.getElem?_eq_getElem h1) (List.getElem?_eq_getElem h2)).1
  need r' hr' := by
    obtain ⟨n, hn, rfl⟩ := List.getElem_of_mem hr'
    have hns : n < s.routes.length := hl ▸ hn
    exact (hr n _ _ (List.getElem?_eq_getElem hns) (List.getElem?_eq_getElem hn)).2
      (h.need _ (List.getElem_mem hns))

theorem State.PoolShared.of_kept {s t : State} (h : s.PoolShared) (hr : RoutesKept s.routes t.routes) :
    t.PoolShared :=
  h.of_routes hr.1 fun n r r' h1 h2 => ⟨(hr.2 n r r' h1 h2).pages, (hr.2 n r r' h1 h2).need⟩

theorem State.PoolShared.congr {s t : State} (h : s.PoolShared) (hr : t.routes = s.routes) : t.PoolShared :=
  ⟨hr ▸ h.routes, hr ▸ h.apart, hr ▸ h.need⟩

/-- A state other than VACANT is that of a route of the table. -/
theorem State.lt_of_state_ne {s : State} {n : Nat} (h : (s.route n).state ≠ .vacant) : n < s.routes.length := by
  by_contra hn
  exact h (by simp [State.route, List.getD, List.getElem?_eq_none (Nat.le_of_not_lt hn), Route.reset])

theorem State.route_mem {s : State} {n : Nat} (h : n < s.routes.length) : s.route n ∈ s.routes := by
  have : s.route n = s.routes[n] := by simp [State.route, List.getD, h]
  exact this ▸ List.getElem_mem h

theorem State.mem_freePages {s : State} {p : Nat} :
    p ∈ s.freePages ↔ p < poolPages ∧ p ∉ s.routes.flatMap Route.pages := by
  simp [State.freePages]

theorem State.freePages_nodup (s : State) : s.freePages.Nodup := List.nodup_range.filter _

/-- The page lists around route n, which holds `ps`. -/
theorem flatMap_pages_modify {rs : List Route} {n : Nat} (hn : n < rs.length) (f : Route → Route) :
    (rs.modify n f).flatMap Route.pages =
      (rs.take n).flatMap Route.pages ++ ((f rs[n]).pages ++ (rs.drop (n + 1)).flatMap Route.pages) := by
  rw [List.modify_eq_take_cons_drop hn]
  simp

theorem flatMap_pages_split {rs : List Route} {n : Nat} (hn : n < rs.length) :
    rs.flatMap Route.pages =
      (rs.take n).flatMap Route.pages ++ (rs[n].pages ++ (rs.drop (n + 1)).flatMap Route.pages) := by
  have h := flatMap_pages_modify hn id
  rwa [List.modify_id] at h

/-- R74: free pages given to a route without pages leave the page lists apart. -/
theorem pagesApart.grant {s : State} {n : Nat} (h : pagesApart s.routes) (hn : n < s.routes.length)
    (hp : s.routes[n].pages = []) {f : Route → Route} {ps : List Nat} (hf : (f s.routes[n]).pages = ps)
    (hps : ps.Sublist s.freePages) : pagesApart (s.routes.modify n f) := by
  obtain ⟨hnodup, hlt⟩ := h
  have hfree : ∀ p ∈ ps, p < poolPages ∧ p ∉ s.routes.flatMap Route.pages :=
    fun p hm => State.mem_freePages.mp (hps.subset hm)
  rw [flatMap_pages_split hn, hp, List.nil_append] at hnodup hlt hfree
  have hperm : ((s.routes.modify n f).flatMap Route.pages).Perm
      (ps ++ ((s.routes.take n).flatMap Route.pages ++ (s.routes.drop (n + 1)).flatMap Route.pages)) := by
    rw [flatMap_pages_modify hn, hf]
    exact List.perm_append_comm_assoc _ _ _
  refine ⟨hperm.nodup_iff.mpr (List.nodup_append'.mpr ⟨hps.nodup s.freePages_nodup, hnodup, ?_⟩), fun p hm => ?_⟩
  · exact fun p h1 h2 => (hfree p h1).2 h2
  · obtain hm | hm := List.mem_append.mp (hperm.mem_iff.mp hm)
    · exact (hfree p hm).1
    · exact hlt p hm

/-- R72, R74: a grant of the whole need of a STARVED route. -/
theorem State.PoolShared.grant {s : State} (h : s.PoolShared) {n : Nat} {lane : Lane}
    (hstate : (s.route n).state = .starved) (hbound : (s.route n).bound = some lane)
    (hroom : pageNeed lane.geometry ≤ s.freePages.length) :
    (s.modRoute n (Route.grant (s.freePages.take (pageNeed lane.geometry)) lane.geometry)).PoolShared := by
  have hn : n < s.routes.length := State.lt_of_state_ne (by simp [hstate])
  have hget : s.route n = s.routes[n] := by simp [State.route, List.getD, hn]
  rw [hget] at hstate hbound
  have hneed : s.routes[n].HoldsNeed := h.need _ (List.getElem_mem hn)
  have hpages : s.routes[n].pages = [] := by simpa [Route.HoldsNeed, hstate] using hneed
  refine ⟨by simpa using h.routes, h.apart.grant hn hpages rfl (List.take_sublist _ _), fun r hr => ?_⟩
  obtain ⟨m, hm, rfl⟩ := List.getElem_of_mem hr
  have hm' : m < s.routes.length := by simpa using hm
  simp only [State.modRoute_routes, List.getElem_modify]
  split
  · rename_i hnm
    subst hnm
    simp [Route.HoldsNeed, Route.grant, hbound, hroom]
  · exact h.need _ (List.getElem_mem hm')

theorem sharedEngine : Engine State.PoolShared where
  routes _ _ hs hr := hs.of_kept hr
  grant _ _ _ hs h1 h2 h3 := hs.grant h1 h2 h3
  refusal _ _ hs := hs.congr rfl
  write _ _ _ _ _ hs := hs.congr rfl
  packets _ _ hs := hs.congr rfl
  ann _ _ hs _ := hs.congr rfl
  tracker _ _ _ hs := hs.congr (by simp)
  sticky _ _ hs _ := hs.congr rfl
  raise _ _ _ hs := hs.congr (by simp)

/-- What a ROUTE write's fields do to a record of the table: those of route n are written, and the listening flag
of another is perhaps cleared. -/
theorem getElem?_written {s : State} {n m : Nat} {f : RouteFields} {r r' : Route} (hr : s.routes[m]? = some r)
    (hr' : (takeListening n f (s.modRoute n (Route.written f))).routes[m]? = some r') :
    (m = n ∧ r' = r.written f) ∨ (m ≠ n ∧ (r' = r ∨
      (f.listening = true ∧ f.program ≠ 0) ∧ r' = { r with listening := false })) := by
  unfold takeListening at hr'
  by_cases hmn : m = n
  · subst hmn
    split at hr' <;> simp [hr] at hr' <;> exact .inl ⟨rfl, hr'.symm⟩
  · refine .inr ⟨hmn, ?_⟩
    have hnm : ¬ n = m := fun h => hmn h.symm
    split at hr'
    · rename_i hl
      simp [hr, hmn, hnm] at hr'
      exact .inr ⟨hl, hr'.symm⟩
    · simp [hr, hnm] at hr'
      exact .inl hr'.symm

theorem takeListening_length (n : Nat) (f : RouteFields) (s : State) :
    (takeListening n f s).routes.length = s.routes.length := by
  unfold takeListening
  split <;> simp

theorem State.PoolShared.written {s : State} (h : s.PoolShared) (n : Nat) (f : RouteFields) :
    (takeListening n f (s.modRoute n (Route.written f))).PoolShared := by
  refine h.of_routes (by simp [takeListening_length]) fun m r r' hr hr' => ?_
  obtain ⟨-, rfl⟩ | ⟨-, rfl | ⟨-, rfl⟩⟩ := getElem?_written hr hr'
  · exact ⟨.inl rfl, id⟩
  · exact ⟨.inl rfl, id⟩
  · exact ⟨.inl rfl, id⟩

theorem sharedKept : Commands State.PoolShared :=
  sharedEngine.commands (fun _ _ hs hroutes _ _ _ _ => hs.congr hroutes)
    (fun _ n f hs => hs.written n f)

/-- The routes of a reset hold nothing. -/
theorem State.PoolShared.of_reset {s : State} (h : s.routes = (List.range 18).map Route.reset) : s.PoolShared := by
  have hpages : s.routes.flatMap Route.pages = [] := by
    rw [h, List.flatMap_eq_nil_iff]
    intro r hr
    obtain ⟨n, -, rfl⟩ := List.mem_map.mp hr
    rfl
  refine ⟨by simp [h], ⟨by simp [hpages], by simp [hpages]⟩, fun r hr => ?_⟩
  obtain ⟨n, -, rfl⟩ := List.mem_map.mp (h ▸ hr)
  exact Route.needNothing rfl (by simp [Route.reset]) (by simp [Route.reset])

/-- Settles O32: pages come to a route only by a grant from the free set, and leave it with its state. -/
theorem poolStaysShared : Obligations.PoolStaysShared := by
  intro s t hs ht
  refine step_keeps hs (fun _ h => h.congr rfl)
    (fun c u hu hn => sharedKept.exec c ?_ hu hn) ht
  cases c with
  | powerOnReset => intro t ht; cases ht; exact .of_reset rfl
  | pinReset => intro t ht; cases ht; exact .of_reset rfl
  | reset tag => exact .of_reset rfl
  | status tag => exact fun _ h => h.congr rfl
  | writeSettings tag f => exact fun _ _ h => h.congr rfl
  | levelWatch tag => exact fun _ _ h => h.congr rfl
  | _ => trivial

end Sys2Proof.Machine
end

section
/-! SUPPORT. Queue sizes (R104, R129, R156, R160, R161): every command keeps them (O37). -/

namespace Sys2Proof.Machine

theorem QueuesFit.route_fits {s t : State} (h : ∀ r ∈ s.routes, QueueFits r.queue)
    (hl : t.routes.length = s.routes.length)
    (hr : ∀ (n : Nat) (r r' : Route), s.routes[n]? = some r → t.routes[n]? = some r' →
      QueueFits r.queue → QueueFits r'.queue) : ∀ r ∈ t.routes, QueueFits r.queue := by
  intro r' hr'
  obtain ⟨n, hn, rfl⟩ := List.getElem_of_mem hr'
  have hns : n < s.routes.length := hl ▸ hn
  exact hr n _ _ (List.getElem?_eq_getElem hns) (List.getElem?_eq_getElem hn) (h _ (List.getElem_mem hns))

/-- What stays when the routes alone change. -/
theorem State.QueuesFit.of_routes {s t : State} (h : s.QueuesFit) (hm : t.mgmt.requests = s.mgmt.requests)
    (hh : t.mgmt.held = s.mgmt.held) (hp : t.trunk.replies = s.trunk.replies)
    (hn : t.trunk.notices.length ≤ 16) (hr : ∀ r ∈ t.routes, QueueFits r.queue) : t.QueuesFit where
  requests := hm ▸ h.requests
  replies := hp ▸ h.replies
  held := by rw [hm, hh, hp]; exact h.held
  notices := hn
  routes := hr

/-- What stays when no queue changes. -/
theorem State.QueuesFit.congr {s t : State} (h : s.QueuesFit) (hm : t.mgmt.requests = s.mgmt.requests)
    (hh : t.mgmt.held = s.mgmt.held) (ht : t.trunk = s.trunk) (hr : t.routes = s.routes) : t.QueuesFit :=
  h.of_routes hm hh (by rw [ht]) (by rw [ht]; exact h.notices) (by rw [hr]; exact h.routes)

/-- R161: a notice enters a queue of fewer than 16, or is lost. -/
theorem State.raiseAt_notices_le (s : State) (fn : Option Fn) (b : NoticeBody) (h : s.trunk.notices.length ≤ 16) :
    (s.raiseAt fn b).trunk.notices.length ≤ 16 := by
  unfold State.raiseAt
  dsimp only
  split
  · simp only [List.length_append, List.length_singleton]; omega
  · exact h

theorem queuesEngine : Engine State.QueuesFit where
  routes s rs hs hk := hs.of_routes rfl rfl rfl hs.notices
    (QueuesFit.route_fits hs.routes hk.1 fun n r r' h1 h2 => (hk.2 n r r' h1 h2).queue)
  grant s n lane hs _ _ _ := hs.of_routes rfl rfl rfl hs.notices
    (QueuesFit.route_fits hs.routes (by simp) fun m r r' h1 h2 => by
      simp only [State.modRoute_routes, List.getElem?_modify, h1] at h2
      split at h2 <;> simp only [Option.map_eq_map, Option.map_some, Option.some.injEq] at h2 <;> subst h2
      · exact id
      · exact id)
  refusal _ _ hs := hs.congr rfl rfl rfl rfl
  write _ _ _ _ _ hs := hs.congr rfl rfl rfl rfl
  packets _ _ hs := hs.congr rfl rfl rfl rfl
  ann _ _ hs _ := hs.congr rfl rfl rfl rfl
  tracker _ _ _ hs := hs.congr (by simp) (by simp) (by simp) (by simp)
  sticky _ _ hs _ := hs.congr rfl rfl rfl rfl
  raise s fn b hs := hs.of_routes (by simp) (by simp) (by simp) (s.raiseAt_notices_le fn b hs.notices)
    (by simpa using hs.routes)

/-- R167: a reply enters a queue that has room for it. -/
theorem State.QueuesFit.answer {s : State} (h : s.QueuesFit) (req : Request) (last : LastFlags)
    (cells : List (List Byte)) (hh : s.mgmt.held = none) (hr : s.trunk.replies.length ≤ 1) :
    (answer req last cells s).QueuesFit where
  requests := by
    have := h.requests
    simp only [answer_requests, List.length_drop]
    omega
  replies := by rw [answer_replies_length]; omega
  held := by simp [hh]
  notices := h.notices
  routes := h.routes

/-- R115: the held APPLY has room for its reply, and nothing of its action fills the reply queue. -/
theorem State.QueuesFit.actApply {s : State} (h : s.QueuesFit) : (actApply s).QueuesFit := by
  unfold Machine.actApply
  split
  · rename_i kind req rest hheld _
    obtain ⟨-, hroom⟩ := h.held (by simp [hheld])
    have k := queuesEngine.and (servingKept s.trunk.replies).toEngine
    extract_lets found changed skipped _ a b _ c
    have ha : a.QueuesFit ∧ Serving s.trunk.replies a := by
      refine k.applyStep kind ⟨⟨h.requests, h.replies, by simp, h.notices, h.routes⟩, rfl, rfl⟩
    have hb : b.QueuesFit ∧ Serving s.trunk.replies b := k.settle (k.tellController _ ha)
    clear_value b
    have hc : c.QueuesFit := hb.1.congr rfl rfl rfl rfl
    exact hc.answer _ _ _ hb.2.1 (by rw [show c.trunk.replies = _ from hb.2.2]; exact hroom)
  · exact h

theorem State.QueuesFit.written {s : State} (h : s.QueuesFit) (n : Nat) (f : RouteFields) :
    (takeListening n f (s.modRoute n (Route.written f))).QueuesFit := by
  have htrunk : (takeListening n f (s.modRoute n (Route.written f))).trunk = s.trunk := by
    unfold takeListening
    split <;> rfl
  refine h.of_routes (by rw [takeListening_mgmt]; rfl) (by rw [takeListening_mgmt]; rfl) (by rw [htrunk])
    (by rw [htrunk]; exact h.notices)
    (QueuesFit.route_fits h.routes (by simp [takeListening_length]) fun m r r' hr hr' => ?_)
  obtain ⟨-, rfl⟩ | ⟨-, rfl | ⟨-, rfl⟩⟩ := getElem?_written hr hr'
  · exact id
  · exact id
  · exact id

theorem queuesKept : Commands State.QueuesFit where
  toEngine := queuesEngine
  merge _ _ hs := hs.congr rfl rfl rfl rfl
  marks _ _ hs _ := hs.congr rfl rfl rfl rfl
  counters _ _ _ hs _ := hs.congr (by simp) (by simp) (by simp) (by simp)
  act _ hs := hs.actApply
  due _ _ hs := hs.congr rfl rfl rfl rfl
  decided _ _ hs := hs.congr rfl rfl rfl rfl
  lead _ _ _ hs _ := hs.congr (by simp) (by simp) (by simp) (by simp)
  other _ _ _ hs _ _ := hs.congr (by simp) (by simp) (by simp) (by simp)
  free _ _ hs := hs.congr rfl rfl rfl rfl
  undecide _ hs := hs.congr rfl rfl rfl rfl
  port _ _ _ hs _ _ := hs.congr (by simp) (by simp) (by simp) (by simp)
  clock _ _ hs := hs.congr rfl rfl rfl rfl
  mgmt _ _ hs h1 h2 _ _ := hs.congr h1 h2 rfl rfl
  answer _ _ _ _ hs h1 h2 := hs.answer _ _ _ h1 h2
  accept _ _ hs h1 h2 := ⟨hs.requests, hs.replies, fun _ => ⟨h1, h2⟩, hs.notices, hs.routes⟩
  queueRequest s _ hs h1 :=
    ⟨by simp only [List.length_append, List.length_singleton]; omega, hs.replies,
      fun h => ⟨by simp, (hs.held h).2⟩, hs.notices, hs.routes⟩
  trunk _ _ hs h1 h2 :=
    ⟨hs.requests, h1.trans hs.replies, fun h => ⟨(hs.held h).1, h1.trans (hs.held h).2⟩, h2.trans hs.notices,
      hs.routes⟩
  written _ n f _ hs := hs.written n f

/-- The route queues of a reset are empty. -/
theorem reset_queues_fit : ∀ r ∈ (List.range 18).map Route.reset, QueueFits r.queue := by
  intro r hr
  obtain ⟨n, -, rfl⟩ := List.mem_map.mp hr
  exact .nil

theorem reset_queuesFit : State.reset.QueuesFit :=
  ⟨by simp [State.reset, Management.reset], by simp [State.reset, Trunk.reset],
    by simp [State.reset, Management.reset], by simp [State.reset, Trunk.reset], reset_queues_fit⟩

/-- R180: a trunk reset keeps the replies and the RESET in front. -/
theorem State.QueuesFit.trunkReset {s : State} (h : s.QueuesFit) : (trunkReset s).QueuesFit where
  requests := by
    have := h.requests
    simp only [Machine.trunkReset, List.length_take]
    omega
  replies := h.replies
  held := by simp [Machine.trunkReset, Management.reset]
  notices := by simp [Machine.trunkReset]
  routes := reset_queues_fit

/-- Settles O37: what enters a queue finds room or displaces an item, and only the front item starts. -/
theorem queuesStayFit : Obligations.QueuesStayFit := by
  intro s t hs ht
  refine step_keeps hs (fun _ h => h.congr rfl rfl rfl rfl)
    (fun c u hu hn => queuesKept.exec c ?_ hu hn) ht
  cases c with
  | powerOnReset => intro t ht; cases ht; exact reset_queuesFit.of_routes rfl rfl rfl (by decide : 1 ≤ 16) reset_queues_fit
  | pinReset => intro t ht; cases ht; exact reset_queuesFit.of_routes rfl rfl rfl (by decide : 1 ≤ 16) reset_queues_fit
  | reset tag => exact hu.trunkReset
  | status tag => exact fun _ h => h.congr rfl rfl rfl rfl
  | writeSettings tag f => exact fun _ _ h => h.congr rfl rfl rfl rfl
  | levelWatch tag => exact fun _ _ h => h.congr rfl rfl rfl rfl
  | _ => trivial

end Sys2Proof.Machine
end

section
/-! SUPPORT. Between two commands (R48, R63, R139): one link holds LEAD, no decision is left unmade and no
evaluation due (O18). -/

namespace Sys2Proof.Machine

/-! ### One lead -/

theorem State.oneLead.of_roles {s t : State} (h : s.oneLead) (hr : ∀ l, (t.link l).role = (s.link l).role) :
    t.oneLead := by
  rw [State.oneLead_eq hr]
  exact h

theorem State.oneLead.modLink {s : State} (h : s.oneLead) (l : LinkId) (f : Link → Link)
    (hf : ∀ x, (f x).role = x.role) : (s.modLink l f).oneLead :=
  h.of_roles fun m => modLink_role m l f hf s

theorem Link.role_of_port {x y : Link} (h : y.port = x.port) : y.role = x.role :=
  (congrArg Link.role h : y.port.role = x.port.role)

/-- R48: LEAD goes to one link and leaves the other. -/
theorem oneLead_of_lead (s : State) (l : LinkId) {r : Role} (hr : r ≠ .lead) :
    (setRole (otherLink l) r (setRole l .lead s)).oneLead := by
  cases l <;> simp [State.oneLead, setRole, otherLink, State.modLink, State.setLink, State.link, hr]

/-- R49: a link that does not hold LEAD takes another role. -/
theorem State.oneLead.other {s : State} (h : s.oneLead) (l : LinkId) {r : Role} (hl : (s.link l).role ≠ .lead)
    (hr : r ≠ .lead) : (setRole l r s).oneLead := by
  unfold State.oneLead at h ⊢
  cases l with
  | a =>
    have hb : s.linkB.role = .lead := not_not.mp (mt h.mpr hl)
    simp [setRole, State.modLink, State.setLink, hr, hb]
  | b =>
    have ha : s.linkA.role = .lead := h.mpr hl
    simp [setRole, State.modLink, State.setLink, hr, ha]

theorem oneLeadEngine : Engine State.oneLead :=
  Engine.ofLinks fun x y => x.role = .lead ↔ ¬ y.role = .lead

theorem oneLeadKept : Commands State.oneLead where
  toEngine := oneLeadEngine
  merge _ _ hs := hs
  marks _ _ hs _ := hs
  counters _ l f hs hf := hs.modLink l f fun _ => Link.role_of_port (hf _)
  act _ hs := oneLeadEngine.actApply (fun _ _ h _ _ => h) (fun _ _ h => h) hs
  due _ _ hs := hs
  decided _ _ hs := hs
  lead s l _ _ hr := oneLead_of_lead s l hr
  other _ l _ hs hl hr := hs.other l (hl hs) hr
  free _ _ hs := hs
  undecide _ hs := hs
  port _ l f hs hf _ := hs.modLink l f hf
  clock _ _ hs := hs
  mgmt _ _ hs _ _ _ _ := hs
  answer _ _ _ _ hs _ _ := hs
  accept _ _ hs _ _ := hs
  queueRequest _ _ hs _ := hs
  trunk _ _ hs _ _ := hs
  written _ n f _ hs := by
    unfold takeListening
    split <;> exact hs

theorem exec_oneLead {c : Instr} {s t : State} (hs : s.oneLead) (ht : exec c s = .next t) : t.oneLead := by
  have hreset : State.reset.oneLead := by simp [State.oneLead, State.reset, Link.reset]
  refine oneLeadKept.exec c ?_ hs ht
  cases c with
  | powerOnReset => intro t ht; cases ht; exact hreset
  | pinReset => intro t ht; cases ht; exact hreset
  | reset tag => exact hreset
  | status tag => exact fun _ h => h
  | writeSettings tag f => exact fun _ _ h => h
  | levelWatch tag => exact fun _ _ h => h
  | _ => trivial

/-! ### The decision -/

theorem decisionEngine (d : Option Decision) : Engine fun s => s.roles.decision = d where
  routes _ _ hs _ := hs
  grant _ _ _ hs _ _ _ := hs
  refusal _ _ hs := hs
  write _ _ _ _ _ hs := hs
  packets _ _ hs := hs
  ann _ _ hs _ := hs
  tracker _ t _ hs := by cases t <;> exact hs
  sticky _ _ hs _ := hs
  raise _ _ _ hs := by simpa using hs

/-- Nothing but the checks at a release decides a handover. -/
theorem decisionKept (d : Option Decision) : Handovers fun s => s.roles.decision = d where
  toEngine := decisionEngine d
  merge _ _ hs := hs
  marks _ _ hs hr := hr.trans hs
  counters _ _ _ hs _ := by simpa using hs
  lead _ _ _ hs _ := by simpa using hs
  other _ _ _ hs _ _ := by simpa using hs

theorem actApply_decision (s : State) : (actApply s).roles.decision = s.roles.decision :=
  (decisionEngine s.roles.decision).actApply (fun _ _ h _ _ => h) (fun _ _ h => h) rfl

theorem settle_decision (s : State) : (settle s).roles.decision = s.roles.decision :=
  (decisionEngine s.roles.decision).settle rfl

/-- R63: the end of an event leaves no decision. -/
theorem finishEvent_decision (s : State) : (finishEvent s).roles.decision = none := by
  unfold finishEvent
  split
  · assumption
  extract_lets _ t first u v
  have hv : v.roles.decision = none := by
    unfold v
    split
    · split
      · rw [actApply_decision]
      · rfl
    · rfl
  clear_value v
  split
  · exact (decisionKept none).swapRoles _ hv
  · exact (decisionKept none).swapRoles _ hv
  · split
    · exact (decisionKept none).follow _ hv
    · exact hv

/-! ### The evaluation -/

theorem evaluateRun_evalDue (s : State) : (evaluateRun s).ann.evalDue = false := by
  unfold evaluateRun
  rfl

theorem wake_evalDue (source : WakeSource) (e : Option LiveEntry) (s : State) :
    (wake source e s).ann.evalDue = false := by
  unfold wake
  exact evaluateRun_evalDue _

/-- R139: the evaluation is made once, and leaves none due. -/
theorem settle_evalDue (s : State) : (settle s).ann.evalDue = false := by
  unfold settle
  split
  · unfold evaluate
    split
    · exact evaluateRun_evalDue s
    · split
      · exact wake_evalDue _ _ s
      · rfl
  · rename_i h
    simpa using h

theorem settle_quiescent {s : State} (h : s.roles.decision = none) : (settle s).quiescent :=
  ⟨(settle_decision s).trans h, settle_evalDue s⟩

theorem finishFrame_quiescent (s : State) : (finishFrame s).quiescent :=
  settle_quiescent (finishEvent_decision s)

theorem replyAfter_quiescent {t : State} (h : t.roles.decision = none) (s : State) (req : Request) (o : Outcome)
    (cells : State → List (List Byte)) : (replyAfter s req o cells t).quiescent := settle_quiescent h

theorem wake_quiescent {s : State} (h : s.roles.decision = none) (source : WakeSource) (e : Option LiveEntry) :
    (wake source e s).quiescent :=
  ⟨(decisionEngine none).wake source e h, wake_evalDue source e s⟩

/-- R115: the action of an APPLY settles what it has made due. -/
theorem actApply_quiescent {s : State} (h : s.quiescent) : (actApply s).quiescent := by
  refine ⟨(actApply_decision s).trans h.1, ?_⟩
  unfold actApply
  split
  · exact settle_evalDue _
  · exact h.2

/-! ### The rows -/

/-- R12: a link that is not the lead departs without a release, so nothing is decided. -/
theorem depart_decision {l : LinkId} {v : SyncState} {s : State} (h : (s.link l).role ≠ .lead) :
    (depart l v s).roles.decision = s.roles.decision := by
  have k := decisionKept s.roles.decision
  unfold depart
  extract_lets t
  have hrole : (t.link l).role = (s.link l).role := by
    unfold t portDepart
    rw [setLevel_role]
    exact modLink_role l l (fun x => { x with
      sync := v, confirmCount := 0, lastFn := none, due := none, window := none
      score := 0, quality := 0 }) (fun _ => rfl) s
  have ht : t.roles.decision = s.roles.decision := by
    unfold t portDepart setLevel
    dsimp only
    split
    · simp
    · exact k.raiseNow _ (by simp)
  clear_value t
  split
  · exact absurd (hrole.symm.trans ‹_›) h
  · exact k.dropHeld _ ht
  · exact k.clearTarget _ ht
  · exact ht

theorem goHunt_decision {l : LinkId} {s : State} (h : (s.link l).role ≠ .lead) :
    (goHunt l s).roles.decision = s.roles.decision := by
  unfold goHunt
  split
  · exact depart_decision h
  · simp

theorem leavePartner_decision (l : LinkId) (s : State) :
    (leavePartner l s).roles.decision = s.roles.decision := by
  unfold leavePartner
  split
  · exact (decisionKept s.roles.decision).dropHeld _ rfl
  · rfl

/-- R150: LEVEL WATCH hunts on the link that is not the lead. -/
theorem enterWatch_decision {s : State} (h : s.oneLead) : (enterWatch s).roles.decision = s.roles.decision := by
  have k := decisionKept s.roles.decision
  have hl : (s.link (otherLink s.leadLink)).role ≠ .lead := fun hx =>
    otherLink_ne _ ((State.oneLead_leadLink h _).mp hx)
  have hroles : (levelRoles s).roles.decision = s.roles.decision := by
    unfold levelRoles
    dsimp only
    split
    · rfl
    · refine k.roleNotice _ _ (k.clearMarks ?_)
      rw [setRole_roles, leavePartner_decision, goHunt_decision hl]
  unfold enterWatch
  extract_lets a b c
  have hb : b.roles.decision = s.roles.decision := k.suspendAll _ _ hroles
  exact k.closeStep _ _ _ (k.levelController (k.cutListening hb))

theorem serveLevel_quiescent {s : State} (ho : s.oneLead) (h : s.quiescent) (code : Byte) (req : Request) :
    (serveLevel code req s).quiescent := by
  have k := decisionEngine none
  have hd : (dropSelection s).roles.decision = none := h.1
  unfold serveLevel
  extract_lets t
  split
  · refine replyAfter_quiescent ?_ _ _ _ _
    split
    · exact k.wake _ _ hd
    · exact hd
  split
  · refine replyAfter_quiescent ?_ _ _ _ _
    split
    · exact (enterWatch_decision (s := t) ho).trans hd
    · exact hd
  · exact replyAfter_quiescent hd _ _ _ _

theorem clearOverrun_quiescent {s : State} (h : s.quiescent) (t : Table) (i : Nat) :
    (clearOverrun t i s).quiescent := by
  unfold clearOverrun
  split <;> exact h

theorem readEntry_quiescent {s : State} (h : s.quiescent) (t : Table) (i : Nat) (req : Request) :
    (readEntry t i req s).quiescent := by
  unfold readEntry
  refine clearOverrun_quiescent ?_ _ _
  exact h

theorem serveRead_quiescent {s : State} (h : s.quiescent) (table index : Byte) (req : Request) :
    (serveRead table index req s).quiescent := by
  unfold serveRead
  split
  · exact h
  · split
    · exact h
    · exact readEntry_quiescent h _ _ _

theorem serveWrite_quiescent {s : State} (h : s.quiescent) (table index : Byte) (req : Request) :
    (serveWrite table index req s).quiescent := by
  unfold serveWrite
  dsimp only
  split
  · exact h
  · split <;> exact h

theorem serveWriteSettings_quiescent {s : State} (h : s.quiescent) (f : SettingsFields) (req : Request) :
    (serveWriteSettings f req s).quiescent := by
  unfold serveWriteSettings
  dsimp only
  split
  · refine replyAfter_quiescent ?_ _ _ _ _
    exact h.1
  · refine replyAfter_quiescent ?_ _ _ _ _
    unfold applySettings
    extract_lets old _ a b
    have ha : a.roles.decision = none := by
      unfold a restartDwell
      split <;> exact h.1
    have hb : b.roles.decision = none := by
      unfold b
      split
      · exact finishEvent_decision _
      · exact ha
    clear_value b
    split <;> exact hb

theorem serveApplyOf_quiescent {s : State} (h : s.quiescent) (req : Request) :
    (serveApplyOf req s).quiescent := by
  unfold serveApplyOf
  split
  · unfold serveApply
    split
    · exact h
    split
    · exact h
    split
    · exact h
    · dsimp only
      split
      · exact h
      · exact actApply_quiescent h
  · exact h

/-- Each row ends with what settles the evaluation, or makes none due and decides nothing. -/
theorem exec_quiescent {c : Instr} {s t : State} (ho : s.oneLead) (h : s.quiescent) (ht : exec c s = .next t) :
    t.quiescent := by
  have k := decisionKept none
  have served : ∀ {tag op} {body : Request → State → State}, serve tag op body s = .next t →
      (∀ req, (body req s).quiescent) → t.quiescent := fun ht hb =>
    Commands.serve (P := State.quiescent) _ _ _ (fun req _ _ _ => hb req) h ht
  have servedIf : ∀ {tag isOp} {body : Request → State → State}, serveIf tag isOp body s = .next t →
      (∀ req, (body req s).quiescent) → t.quiescent := fun ht hb =>
    Commands.serveIf (P := State.quiescent) _ _ _ (fun req _ _ _ _ => hb req) h ht
  cases c with
  | powerOnReset => cases ht; exact ⟨rfl, rfl⟩
  | pinReset => cases ht; exact ⟨rfl, rfl⟩
  | wakeInput =>
    simp only [exec, execWakeInput] at ht
    split at ht
    · cases ht; exact h
    · cases ht; exact wake_quiescent h.1 _ _
  | holdAsserted => cases ht; exact h
  | holdDeasserted => cases ht; exact h
  | resetReleased => cases ht; exact h
  | arrival l time bs ms =>
    simp only [exec, execArrival] at ht
    split at ht
    · cases ht; exact finishFrame_quiescent _
    · cases ht
  | miss l =>
    simp only [exec, execMiss] at ht
    split at ht
    · cases ht; exact h
    · split at ht
      · cases ht; exact finishFrame_quiescent _
      · cases ht; exact h
  | upstreamArrival cell =>
    simp only [exec, execUpstreamArrival] at ht
    split at ht
    · cases ht
      unfold judgeCell admitRequest
      repeat' split
      all_goals exact h
    · cases ht
  | cellBrokenOff => cases ht; exact h
  | cellStart =>
    simp only [exec, execCellStart] at ht
    split at ht
    · cases ht
      unfold startCell startChosen startRoute
      repeat' split
      all_goals exact h
    · cases ht; exact h
  | cellFinish =>
    simp only [exec, execCellFinish] at ht
    split at ht
    · cases ht; exact h
    · cases ht
      unfold finishOrigin
      split <;> exact h
  | status tag => exact served ht fun _ => h
  | read tag table index => exact served ht fun req => serveRead_quiescent h table index req
  | step tag => exact served ht fun req => readEntry_quiescent h _ _ req
  | write tag table index => exact served ht fun req => serveWrite_quiescent h table index req
  | writeLink tag l f =>
    refine served ht fun _ => replyAfter_quiescent ?_ _ _ _ _
    split
    · exact finishEvent_decision _
    · exact h.1
  | writeRoute tag n f =>
    refine served ht fun _ => ?_
    unfold serveWriteRoute
    dsimp only
    split
    · refine replyAfter_quiescent ?_ _ _ _ _
      exact h.1
    · refine replyAfter_quiescent (k.tellController _ (k.closeStep _ _ _ (k.routeConsequence _ f _ ?_))) _ _ _ _
      unfold takeListening
      split <;> exact h.1
  | writeSettings tag f => exact served ht fun req => serveWriteSettings_quiescent h f req
  | markFrom tag r =>
    refine served ht fun _ => ?_
    unfold serveMarkFrom
    split <;> exact h
  | markTo tag r =>
    refine served ht fun _ => ?_
    unfold serveMarkTo
    dsimp only
    repeat' split
    all_goals exact h
  | unmark tag r =>
    refine served ht fun _ => ?_
    unfold serveUnmark
    dsimp only
    repeat' split
    all_goals exact h
  | applyRelease tag => exact servedIf ht fun req => serveApplyOf_quiescent h req
  | applySuspend tag => exact servedIf ht fun req => serveApplyOf_quiescent h req
  | applyEngage tag => exact servedIf ht fun req => serveApplyOf_quiescent h req
  | applyAction =>
    cases ht
    unfold actIfDue
    split
    · exact actApply_quiescent h
    · exact h
  | arm tag n =>
    refine served ht fun _ => ?_
    unfold serveArm
    dsimp only
    repeat' split
    all_goals
      refine replyAfter_quiescent ?_ _ _ _ _
      exact h.1
  | disarm tag =>
    rw [exec, execDisarm] at ht
    refine served ht fun _ => replyAfter_quiescent ?_ _ _ _ _
    exact h.1
  | follow tag force =>
    refine served ht fun _ => ?_
    unfold serveFollow
    dsimp only
    split
    · refine replyAfter_quiescent ?_ _ _ _ _
      exact h.1
    split
    · refine replyAfter_quiescent (k.follow _ ?_) _ _ _ _
      exact h.1
    · refine replyAfter_quiescent ?_ _ _ _ _
      exact h.1
  | cancel tag =>
    refine served ht fun _ => ?_
    unfold serveCancel
    dsimp only
    split
    · refine replyAfter_quiescent ?_ _ _ _ _
      exact h.1
    · refine replyAfter_quiescent (k.removeWhere _ _ (k.dismiss _ _ ?_)) _ _ _ _
      exact h.1
  | levelWatch tag =>
    refine servedIf ht fun req => ?_
    unfold serveLevelOf
    split
    · exact serveLevel_quiescent ho h _ req
    · exact h
  | levelRun tag =>
    refine servedIf ht fun req => ?_
    unfold serveLevelOf
    split
    · exact serveLevel_quiescent ho h _ req
    · exact h
  | reset tag =>
    refine served ht fun _ => ?_
    exact ⟨by simp [serveReset, resetNotice]; rfl, by simp [serveReset, resetNotice]; rfl⟩
  | unknownRequest tag code => exact served ht fun _ => h

/-- Settles O18: roles move in pairs, and each row that decides or makes an evaluation due ends by making it. -/
theorem betweenCommands : Obligations.BetweenCommands := by
  intro s t hs ht
  unfold step at ht
  split at ht
  · cases ht
    exact ⟨hs, id⟩
  · rename_i rest _
    exact ⟨exec_oneLead (s := { s with pending := rest }) hs ht,
      fun hq => exec_quiescent (s := { s with pending := rest }) hs hq ht⟩

end Sys2Proof.Machine
end

section
/-! SUPPORT. What the packet assembler, the lane store and the route engine do, told more finely than by `Engine`:
a property that the updates of `Lower` keep is kept by all their operations. `Lower` has no update of a tracker, of
the interruption stack or of the live table, and it counts the blocks that groups and assemblies hold (R128). -/

namespace Sys2Proof.Machine

/-! ### Blocks -/

/-- Blocks that the groups of a queue hold. -/
def heldBlocks (q : List Item) : Nat := (q.map Item.blocks).sum

theorem heldBlocks_le_of_sublist {p q : List Item} (h : p.Sublist q) : heldBlocks p ≤ heldBlocks q :=
  (h.map Item.blocks).sum_le_sum fun _ _ => Nat.zero_le _

theorem heldBlocks_append (p q : List Item) : heldBlocks (p ++ q) = heldBlocks p + heldBlocks q := by
  simp [heldBlocks]

theorem displace_sublist (b : Bool) (q : List Item) : (displace b q).1.Sublist q := by
  unfold displace
  split
  · exact List.eraseP_sublist
  · exact .refl _

/-- Replacing one entry changes a sum by the difference of the two. -/
theorem sum_map_set {α : Type} (f : α → Nat) : ∀ (l : List α) (i : Nat) (x y : α), l[i]? = some x →
    ((l.set i y).map f).sum + f x = (l.map f).sum + f y
  | [], i, x, y, h => by simp at h
  | a :: l, 0, x, y, h => by
    simp only [List.getElem?_cons_zero, Option.some.injEq] at h
    simp only [List.set_cons_zero, List.map_cons, List.sum_cons, h]
    omega
  | a :: l, i + 1, x, y, h => by
    have ih := sum_map_set f l i x y (by simpa using h)
    simp only [List.set_cons_succ, List.map_cons, List.sum_cons]
    omega

theorem sum_map_modify_le {α : Type} (g : α → Nat) (f : α → α) (l : List α) (n : Nat)
    (h : ∀ x, l[n]? = some x → g (f x) ≤ g x) : ((l.modify n f).map g).sum ≤ (l.map g).sum := by
  cases hx : l[n]? with
  | none => rw [List.modify_eq_self (List.getElem?_eq_none_iff.mp hx)]
  | some x =>
    have hset := sum_map_set g l n x (f x) hx
    have hle := h x hx
    have hmod : l.modify n f = l.set n (f x) := by
      rw [List.modify_eq_set_getElem?, hx]
      rfl
    rw [hmod]
    omega

/-- The blocks an entry of the assembly table holds. -/
def recordBlocks (x : Option Assembly) : Nat := (x.map fun a => blocksFor a.bytes.length).getD 0

theorem Assembler.blocks_eq (a : Assembler) : a.blocks = (a.table.map recordBlocks).sum := rfl

/-- Filing into a record of the table. Past the table nothing is filed. -/
theorem blocks_set_le (table : List (Option Assembly)) (order : List Nat) (i : Nat) (x : Option Assembly) :
    (Assembler.mk (table.set i x) order).blocks + recordBlocks (table.getD i none) ≤
      (table.map recordBlocks).sum + recordBlocks x := by
  rw [Assembler.blocks_eq]
  cases h : table[i]? with
  | none =>
    rw [List.set_eq_of_length_le (List.getElem?_eq_none_iff.mp h)]
    simp [List.getD, h, recordBlocks]
  | some y =>
    have hset := sum_map_set recordBlocks table i y x h
    simp only [List.getD, h, Option.getD_some]
    omega

theorem freeRecord_blocks (i : Nat) (s : State) :
    (freeRecord i s).packets.blocks + recordBlocks (s.packets.table.getD i none) ≤ s.packets.blocks := by
  have h := blocks_set_le s.packets.table (s.packets.order.filter (· ≠ i)) i none
  exact h

/-! ### The updates -/

/-- What these blocks do to a route record. -/
structure RouteWorked (r r' : Route) : Prop where
  program : r'.program = r.program
  component : r'.component = r.component
  channel : r'.channel = r.channel
  listening : r'.listening = r.listening
  pin : r'.pin = r.pin
  addrs : r'.addrs = r.addrs
  blocks : heldBlocks r'.queue ≤ heldBlocks r.queue

/-- The part of a route record that none of these blocks changes but by its queue. -/
def Route.fixed (r : Route) : Id16 × Nat × Option Nat × Bool × Bool × List Nat × List Item :=
  (r.program, r.component, r.channel, r.listening, r.pin, r.addrs, r.queue)

theorem RouteWorked.of_fixed {r r' : Route} (h : r'.fixed = r.fixed) : RouteWorked r r' := by
  simp only [Route.fixed, Prod.mk.injEq] at h
  obtain ⟨h1, h2, h3, h4, h5, h6, h7⟩ := h
  exact ⟨h1, h2, h3, h4, h5, h6, h7 ▸ le_rfl⟩

theorem RouteWorked.countUnit (k : UnitKind) (r : Route) : RouteWorked r (r.countUnit k) := by
  cases k <;> exact .of_fixed rfl

theorem blocksFor_mono {a b : Nat} (h : a ≤ b) : blocksFor a ≤ blocksFor b :=
  Nat.div_le_div_right (Nat.add_le_add_right h 63)

/-- The updates of which the operations of these blocks are made. -/
structure Lower (P : State → Prop) : Prop where
  rest : ∀ s t, P s → t.routes = s.routes → t.packets = s.packets → t.ann = s.ann →
    t.leadTracker = s.leadTracker → t.scoutTracker = s.scoutTracker → P t
  route : ∀ s n f, P s → (∀ r, s.routes[n]? = some r → RouteWorked r (f r)) → P (s.modRoute n f)
  packets : ∀ s x, P s → x.blocks ≤ s.packets.blocks ∨ x.blocks + s.queueBlocks ≤ poolBlocks →
    P { s with packets := x }
  deliver : ∀ s i a n g, P s → s.packets.table.getD i none = some a → g.bytes = a.bytes →
    P (placeGroup n g (freeRecord i s))
  air : ∀ s a, P s → a.stack = s.ann.stack → a.live = s.ann.live → a.level = s.ann.level →
    P { s with ann := a }

namespace Lower

variable {P : State → Prop} (h : Lower P) {s : State}
include h

/-- A change of a route that keeps its written fields and its queue. -/
theorem record (n : Nat) (f : Route → Route) (hs : P s) (hf : ∀ r, (f r).fixed = r.fixed) : P (s.modRoute n f) :=
  h.route s n f hs fun r _ => .of_fixed (hf r)

theorem modAir (f : Announcer → Announcer) (hs : P s) (h1 : (f s.ann).stack = s.ann.stack)
    (h2 : (f s.ann).live = s.ann.live) (h3 : (f s.ann).level = s.ann.level) : P (s.modAnn f) :=
  h.air s _ hs h1 h2 h3

theorem dueEval (hs : P s) : P s.dueEval := h.modAir _ hs rfl rfl rfl

theorem raiseAt (fn : Option Fn) (b : NoticeBody) (hs : P s) : P (s.raiseAt fn b) :=
  h.rest s _ hs (by simp) (by simp) (by simp) (by simp) (by simp)

theorem raiseNow (b : NoticeBody) (hs : P s) : P (s.raise b) := h.raiseAt _ b hs

theorem modSticky (f : Sticky → Sticky) (hs : P s) : P (s.modSticky f) := h.rest s _ hs rfl rfl rfl rfl rfl

/-! ### Packet assembler -/

/-- R104: a unit holds no blocks, so a queue that takes one holds no more than before. -/
theorem enqueueUnit (n : Nat) (u : StreamUnit) (hs : P s) : P (s.enqueue n (.ofUnit u)) := by
  refine h.route s n _ hs fun r _ => ⟨rfl, rfl, rfl, rfl, rfl, rfl, ?_⟩
  dsimp only
  rw [heldBlocks_append]
  exact heldBlocks_le_of_sublist (displace_sublist _ _)

theorem countAbort (n : Nat) (why : AbortReason) (hs : P s) : P (countAbort n why s) :=
  h.record n _ hs fun _ => rfl

theorem freeRecord (i : Nat) (hs : P s) : P (freeRecord i s) :=
  h.packets s _ hs (.inl ((Nat.le_add_right _ _).trans (freeRecord_blocks i s)))

theorem abortRecord (i : Nat) (why : AbortReason) (hs : P s) : P (abortRecord i why s) := by
  unfold Machine.abortRecord
  split
  · exact hs
  · exact h.countAbort _ _ (h.freeRecord i hs)

theorem abortWhere (p : Assembly → Bool) (why : AbortReason) (hs : P s) : P (abortWhere p why s) :=
  foldl_keeps (fun b i hb => by
    split
    · exact h.abortRecord i why hb
    · exact hb) _ s hs

theorem abortRoute (n : Nat) (why : AbortReason) (hs : P s) : P (abortRoute n why s) := h.abortWhere _ why hs

theorem finishGroup (i : Nat) (u : StreamUnit) (hs : P s) : P (finishGroup i u s) := by
  unfold Machine.finishGroup
  split
  · exact hs
  rename_i a ha
  split
  · exact h.abortRecord i _ hs
  split
  · exact h.deliver s i a _ _ hs ha rfl
  · exact h.record _ _ (h.freeRecord i hs) fun _ => rfl

/-- R128: filing bytes for which the pool has room. -/
theorem file (i : Nat) (x : Assembly) (order : List Nat) (hs : P s)
    (hroom : blocksFor x.bytes.length ≤ s.freeBlocks + recordBlocks (s.packets.table.getD i none)) :
    P { s with packets := { table := s.packets.table.set i (some x), order := order } } := by
  refine h.packets s _ hs ?_
  have hset := blocks_set_le s.packets.table order i (some x)
  have hx : recordBlocks (some x) = blocksFor x.bytes.length := rfl
  rw [hx, ← Assembler.blocks_eq] at hset
  unfold State.freeBlocks at hroom
  omega

theorem openRecord (n : Nat) (u : StreamUnit) (x : PacketHead) (data : List Byte) (d : Nat)
    (hd : data.length ≤ x.useful) (hs : P s) : P (openRecord n u x data d s) := by
  unfold Machine.openRecord
  extract_lets isFree t i b _ c
  have ht : P t := by
    unfold t
    split
    · exact hs
    · exact h.abortRecord _ _ hs
  split
  · exact h.countAbort _ _ ht
  rename_i hroom
  have hc : P c := h.file i _ _ ht
    ((blocksFor_mono hd).trans ((Nat.not_lt.mp hroom).trans (Nat.le_add_right _ _)))
  clear_value c
  split
  · exact h.finishGroup _ u hc
  · exact hc

theorem openGroup (n : Nat) (u : StreamUnit) (x : PacketHead) (data : List Byte)
    (hd : data.length ≤ x.useful) (hs : P s) : P (openGroup n u x data s) := by
  unfold Machine.openGroup
  extract_lets t d
  have ht : P t := by
    unfold t
    split
    · exact h.abortRecord _ _ hs
    · exact hs
  clear_value t d
  split
  · exact h.countAbort _ _ ht
  · exact h.openRecord n u x data _ hd ht

theorem continueGroup (n : Nat) (u : StreamUnit) (x : PacketHead) (data : List Byte)
    (hd : data.length ≤ x.useful) (hs : P s) : P (continueGroup n u x data s) := by
  unfold Machine.continueGroup
  dsimp only
  split
  · exact hs
  rename_i i _
  split
  · exact hs
  rename_i a ha
  split
  · exact h.abortRecord _ _ hs
  split
  · exact h.abortRecord _ _ hs
  split
  · exact h.abortRecord _ _ hs
  rename_i hroom
  have hmono : blocksFor (a.bytes ++ data).length ≤ blocksFor (a.bytes.length + x.useful) :=
    blocksFor_mono (by simpa using hd)
  have hfiled := h.file i
    { a with continuity := (x.continuity + 1) % 4, bytes := a.bytes ++ data, lastProgress := u.number }
    s.packets.order hs (by
      have hrec : recordBlocks (some a) = blocksFor a.bytes.length := rfl
      rw [ha, hrec]
      dsimp only
      omega)
  split
  · exact h.finishGroup _ u hfiled
  · exact hfiled

theorem usePacket (n : Nat) (u : StreamUnit) (as : List Nat) (x : PacketHead) (data : List Byte)
    (hd : data.length ≤ x.useful) (hs : P s) : P (usePacket n u as x data s) := by
  unfold Machine.usePacket
  split
  · exact hs
  split
  · exact h.openGroup n u x data hd hs
  · exact h.continueGroup n u x data hd hs

theorem takePacket (n : Nat) (u : StreamUnit) (as : List Nat) (x : PacketHead) (cells : List Cell)
    (hs : P s) : P (takePacket n u as x cells s) := by
  unfold Machine.takePacket
  dsimp only
  split
  · exact hs
  · exact h.usePacket n u as x _ (List.length_take_le _ _) hs

theorem walk (n : Nat) (u : StreamUnit) (as : List Nat) (fuel : Nat) (cells : List Cell) (hs : P s) :
    P (walk n u as fuel cells s) := by
  induction fuel generalizing cells s with
  | zero => exact hs
  | succ k ih =>
    cases cells with
    | nil => exact hs
    | cons c rest =>
      unfold Machine.walk
      dsimp only
      split
      · exact hs
      · exact ih _ (h.takePacket n u as _ _ hs)

theorem assemble (n : Nat) (u : StreamUnit) (hs : P s) : P (assemble n u s) := by
  have hp : P (assemble.parse n u s) := h.walk n u _ _ _ (h.abortWhere _ _ hs)
  unfold Machine.assemble
  split
  · exact h.abortRoute n _ hs
  · exact h.abortRoute n _ hs
  · exact hp
  · exact hp

theorem assembleUnit (u : Formed) (hs : P s) : P (assembleUnit s u) := by
  unfold Machine.assembleUnit
  split
  · exact h.assemble _ _ hs
  · exact hs

/-! ### Lane store -/

theorem endRun (n : Nat) (hs : P s) : P (endRun n s) :=
  h.abortRoute n _ (h.record n _ hs fun _ => rfl)

theorem unbindRoute (n : Nat) (hs : P s) : P (s.modRoute n Route.unbind) :=
  h.record n _ hs fun _ => rfl

theorem allocTurn (asks : List Nat) (imm : Option Nat) (n : Nat) (hs : P s) : P (allocTurn asks imm s n) := by
  unfold Machine.allocTurn
  split
  · dsimp only
    split
    · exact h.record n _ hs fun _ => rfl
    · have hr : P (if n ∈ asks then
          { s with store := { s.store with refusals := bump s.store.refusals } } else s) := by
        split
        · exact h.rest s _ hs rfl rfl rfl rfl rfl
        · exact hs
      split
      · exact h.unbindRoute n hr
      · exact h.endRun n hr
  · exact hs

theorem allocPass (asks : List Nat) (imm : Option Nat) (hs : P s) : P (allocPass asks imm s) :=
  foldl_keeps (fun _ n hb => h.allocTurn asks imm n hb) _ s hs

theorem closeStep (before : State) (asks : List Nat) (imm : Option Nat) (hs : P s) :
    P (closeStep before asks imm s) := by
  unfold Machine.closeStep
  extract_lets returned t
  have ht : P t := by
    unfold t
    split
    · exact h.allocPass asks imm hs
    · exact hs
  clear_value t
  split
  · exact h.dueEval ht
  · exact ht

/-! ### Route engine -/

theorem toPending (n : Nat) (hs : P s) : P (toPending n s) :=
  h.endRun n (h.record n _ hs fun _ => rfl)

theorem toWaiting (n : Nat) (lane : Lane) (hs : P s) : P (toWaiting n lane s) :=
  h.record n _ hs fun _ => rfl

theorem resolveRoute (x : State × List Nat) (n : Nat) (hs : P x.1) : P (resolveRoute x n).1 := by
  unfold Machine.resolveRoute
  extract_lets t
  have ht : P t := h.endRun n (h.record n _ hs fun _ => rfl)
  clear_value t
  split
  · dsimp only
    exact h.toPending n ht
  split
  · dsimp only
    exact h.record n _ ht fun _ => rfl
  · dsimp only
    exact h.toWaiting n _ ht

theorem resolvePair (asks : List Nat) (n : Nat) (hs : P s) : P (Machine.resolveRoute (s, asks) n).1 :=
  h.resolveRoute (s, asks) n hs

theorem rebindRoute (x : State × List Nat) (n : Nat) (lane : Lane) (hs : P x.1) : P (rebindRoute x n lane).1 := by
  unfold Machine.rebindRoute
  split
  · exact h.record n _ hs fun _ => rfl
  · exact h.toWaiting n _ hs

theorem remapRoute (x : State × List Nat) (n : Nat) (hs : P x.1) : P (remapRoute x n).1 := by
  unfold Machine.remapRoute
  dsimp only
  split
  · exact hs
  · exact hs
  · dsimp only
    exact h.toPending n hs
  · dsimp only
    exact h.toWaiting n _ hs
  · dsimp only
    exact h.record n _ hs fun _ => rfl
  · dsimp only
    split
    · exact h.abortRoute n _ (h.rebindRoute x n _ hs)
    · exact h.rebindRoute x n _ hs

theorem remapRoutes (hs : P s) : P (remapRoutes s) :=
  h.closeStep _ _ _ (Engine.foldPairs _ h.remapRoute _ _ hs)

theorem followRoute (x : State × List Nat) (n : Nat) (hs : P x.1) : P (followRoute x n).1 := by
  unfold Machine.followRoute
  split
  · exact hs
  · exact hs
  · exact h.resolvePair _ n (h.toPending n hs)

theorem followRoutes (before : State) (hs : P s) : P (followRoutes before s) :=
  h.closeStep _ _ _ (Engine.foldPairs _ h.followRoute _ _ hs)

theorem departRoute (n : Nat) (hs : P s) : P (departRoute s n) := by
  refine h.endRun n (h.route s n _ hs fun r _ => ?_)
  split
  · exact .of_fixed rfl
  · exact .of_fixed rfl

theorem departAll (hs : P s) : P ((List.range 18).foldl Machine.departRoute s) :=
  foldl_keeps (fun _ n hb => h.departRoute n hb) _ s hs

theorem cutQueue (n : Nat) (hs : P s) : P (cutQueue n s) :=
  h.route s n _ hs fun _ _ => ⟨rfl, rfl, rfl, rfl, rfl, rfl, heldBlocks_le_of_sublist List.filter_sublist⟩

theorem suspendRoute (why : SuspendReason) (n : Nat) (hs : P s) : P (suspendRoute why n s) := by
  unfold Machine.suspendRoute
  extract_lets t
  have ht : P t := h.endRun n (h.record n _ hs fun _ => rfl)
  clear_value t
  split
  · exact ht
  · exact h.cutQueue n ht

theorem suspendAll (why : SuspendReason) (ns : List Nat) (hs : P s) :
    P (ns.foldl (fun s n => Machine.suspendRoute why n s) s) :=
  foldl_keeps (fun _ n hb => h.suspendRoute why n hb) ns s hs

theorem resumeRoutes (hs : P s) : P (resumeRoutes s) := by
  unfold Machine.resumeRoutes
  extract_lets x
  have hx : P x.1 := Engine.foldPairs _ (fun y n hy => by
    split
    · exact h.resolveRoute y n hy
    · exact hy) _ _ hs
  exact h.closeStep _ _ _ hx

theorem completeRoute (n : Nat) (fn : Fn) (g : Geometry) (hs : P s) : P (completeRoute n fn g s).1 :=
  h.route s n _ hs fun r _ => by
    obtain ⟨h1, h2, h3, h4, h5, h6, h7⟩ := RouteWorked.countUnit
      (unitKind (s.route n).damage ((s.route n).tallies.getD ((logicalFn fn g.depth).toNat % g.depth) 0)) r
    exact ⟨h1, h2, h3, h4, h5, h6, h7⟩

theorem gapRoute (n : Nat) (fn : Fn) (g : Geometry) (hs : P s) : P (gapRoute n fn g s).1 := by
  unfold Machine.gapRoute
  dsimp only
  split
  · exact h.route s n _ hs fun r _ => .countUnit _ r
  · exact hs

theorem laneWrite (n : Nat) (g : Geometry) (f : Frame) (hs : P s) : P (laneWrite n g f s) :=
  h.record n _ (h.rest s { s with store := _ } hs rfl rfl rfl rfl rfl) fun _ => rfl

theorem formUnit (f : Frame) (x : State × List Formed) (n : Nat) (hs : P x.1) : P (formUnit f x n).1 := by
  unfold Machine.formUnit
  dsimp only
  split
  · have hw := h.laneWrite n ‹_› f hs
    split
    · exact h.completeRoute n _ _ hw
    · exact h.gapRoute n _ _ hw
  · exact hs

theorem formUnits (f : Frame) (hs : P s) : P (formUnits f s).1 := Engine.foldPairs _ (h.formUnit f) _ _ hs

/-! ### Sources and carriers -/

theorem announce (ev : AnnounceEvent) (e : StackEntry) (route : Option Nat) (why : Option RemoveReason)
    (hs : P s) : P (announce ev e route why s) := h.raiseNow _ hs

theorem announceProgram (hs : P s) : P (announceProgram s) := by
  unfold Machine.announceProgram
  split
  · exact h.announce _ _ _ _ hs
  · exact h.raiseNow _ hs

theorem setSource (source : Option Nat) (hs : P s) : P (setSource source s) := by
  unfold Machine.setSource
  split
  · exact hs
  · exact h.modAir _ hs rfl rfl rfl

theorem setHeld (held : Bool) (hs : P s) : P (setHeld held s) := by
  unfold Machine.setHeld
  split
  · exact h.record _ _ hs fun _ => rfl
  · exact hs

theorem unbindRoutes (ns : List Nat) (hs : P s) : P (unbindRoutes ns s) :=
  foldl_keeps (fun _ n hb => h.unbindRoute n hb) ns s hs

theorem releaseCarriers (ns : List Nat) (hs : P s) : P (releaseCarriers ns s) :=
  h.closeStep _ _ _ (h.unbindRoutes ns hs)

theorem returnToProgram (hs : P s) : P (returnToProgram s) := by
  unfold Machine.returnToProgram
  extract_lets t
  exact h.announceProgram (h.modAir _ (h.setHeld _ (h.releaseCarriers _ hs)) rfl rfl rfl)

theorem askCarrier (n : Nat) (lane : Lane) (cls : Nat) (hs : P s) : P (askCarrier n lane cls s) :=
  h.record n _ (h.unbindRoutes [n] hs) fun _ => rfl

theorem bindCarrier (n : Nat) (lane : Lane) (cls : Nat) (hs : P s) : P (bindCarrier n lane cls s) := by
  unfold Machine.bindCarrier
  extract_lets u
  have hu : P u := h.closeStep _ _ _ (h.askCarrier n lane cls hs)
  clear_value u
  split
  · split
    · exact h.record n _ hu fun _ => rfl
    · exact hu
  · exact hu

theorem keepCarrier (n cls : Nat) (hs : P s) : P (keepCarrier n cls s) := by
  unfold Machine.keepCarrier
  extract_lets changed t u others
  have ht : P t := h.record n _ hs fun _ => rfl
  clear_value t
  have hu : P u := by
    unfold u
    split
    · exact h.modAir _ ht rfl rfl rfl
    · exact ht
  clear_value u
  split
  · exact hu
  · exact h.releaseCarriers _ hu

theorem matchTo (lane cls : Nat) (hs : P s) : P (matchTo lane cls s) := by
  unfold Machine.matchTo
  split
  · exact h.keepCarrier _ _ hs
  · split
    · exact h.bindCarrier _ _ _ hs
    · exact hs
  · exact hs

theorem matchProgram (hs : P s) : P (matchProgram s) := by
  unfold Machine.matchProgram
  split
  · exact hs
  · extract_lets old t u
    have hu : P u := h.setSource _ (h.releaseCarriers _ hs)
    clear_value u
    split
    · exact hu
    · exact h.announceProgram hu

theorem switchTo (n : Nat) (e : StackEntry) (hs : P s) : P (switchTo n e s) := by
  unfold Machine.switchTo
  extract_lets old t u
  have ht : P t := h.setHeld _ (h.setSource _ hs)
  clear_value t old
  have hu : P u := by
    unfold u
    split
    · split
      · exact h.releaseCarriers _ ht
      · exact ht
    · exact ht
  exact h.announce _ _ _ _ hu

theorem decideOnAir (formed : List Formed) (hs : P s) : P (decideOnAir formed s) := by
  unfold Machine.decideOnAir
  split
  · split
    · split
      · exact h.switchTo _ _ hs
      · exact hs
    · exact hs
  · exact hs

theorem placeOnAir (m : Nat) (u : Formed) (hs : P s) : P (placeOnAir m u s) :=
  h.enqueueUnit _ _ (h.record _ _ (h.modAir _ hs rfl rfl rfl) fun _ => rfl)

theorem placeUnit (u : Formed) (hs : P s) : P (placeUnit s u) := by
  unfold Machine.placeUnit
  split
  · exact hs
  split
  · split
    · split
      · exact h.placeOnAir _ _ hs
      · exact hs
    · exact hs
  · exact h.enqueueUnit _ _ (h.record _ _ hs fun _ => rfl)

end Lower

end Sys2Proof.Machine
end

section
/-! SUPPORT. What the announcement controller does, told more finely than by `Engine`: a property that the updates
of `Works` keep is kept by its operations. Entries leave the stack from above its bottom, a push goes on top, and a
live entry keeps its key. -/

namespace Sys2Proof.Machine

/-! ### Changes of the stack and of the live table -/

/-- The classes of the stack, from the bottom up, are a part of what they were, the bottom's first. -/
structure StackKept (st st' : List StackEntry) : Prop where
  classes : (st'.map StackEntry.cls).Sublist (st.map StackEntry.cls)
  bottom : st'.head?.map StackEntry.cls = st.head?.map StackEntry.cls

theorem StackKept.refl (st : List StackEntry) : StackKept st st := ⟨.refl _, rfl⟩

theorem StackKept.of_classes {st st' : List StackEntry} (h : st'.map StackEntry.cls = st.map StackEntry.cls) :
    StackKept st st' :=
  ⟨h ▸ .refl _, by rw [← List.head?_map, ← List.head?_map, h]⟩

/-- R145: a removal above the bottom. -/
theorem StackKept.eraseIdx {st : List StackEntry} {i : Nat} (hi : 0 < i) : StackKept st (st.eraseIdx i) where
  classes := (List.eraseIdx_sublist st i).map _
  bottom := by
    obtain ⟨k, rfl⟩ := Nat.exists_eq_succ_of_ne_zero hi.ne'
    cases st with
    | nil => rfl
    | cons a rest => rfl

/-- The key of a live entry. -/
def LiveEntry.key (e : LiveEntry) : Nat × Nat := (e.cls, e.cluster)

/-- Place by place, an entry goes or keeps its key. -/
def LiveKept (l l' : List (Option LiveEntry)) : Prop :=
  List.Forall₂ (fun x y => y = none ∨ y.map LiveEntry.key = x.map LiveEntry.key) l l'

theorem LiveKept.refl (l : List (Option LiveEntry)) : LiveKept l l := List.forall₂_same.mpr fun _ _ => .inr rfl

theorem LiveKept.map (l : List (Option LiveEntry)) (f : Option LiveEntry → Option LiveEntry)
    (hf : ∀ x, f x = none ∨ (f x).map LiveEntry.key = x.map LiveEntry.key) : LiveKept l (l.map f) := by
  unfold LiveKept
  rw [List.forall₂_map_right_iff]
  exact List.forall₂_same.mpr fun x _ => hf x

theorem LiveKept.modify (l : List (Option LiveEntry)) (i : Nat) (f : Option LiveEntry → Option LiveEntry)
    (hf : ∀ x, f x = none ∨ (f x).map LiveEntry.key = x.map LiveEntry.key) : LiveKept l (l.modify i f) := by
  refine List.forall₂_iff_get.mpr ⟨by simp, fun j h1 h2 => ?_⟩
  simp only [List.get_eq_getElem, List.getElem_modify]
  split
  · exact hf _
  · exact .inr rfl

/-- An update of the entry itself that keeps its key. -/
theorem key_map_kept {f : LiveEntry → LiveEntry} (hf : ∀ e, (f e).key = e.key) (x : Option LiveEntry) :
    (x.map f).map LiveEntry.key = x.map LiveEntry.key := by
  cases x with
  | none => rfl
  | some e => exact congrArg some (hf e)

/-! ### The updates -/

/-- The updates of which the operations of the controller are made. -/
structure Works (P : State → Prop) : Prop extends Lower P where
  ann : ∀ s a, P s → StackKept s.ann.stack a.stack → LiveKept s.ann.live a.live → P { s with ann := a }
  push : ∀ s e, P s → s.ann.stack.length < 4 →
    (∃ top, s.ann.stack.getLast? = some top ∧ e.priority < top.priority) →
    P (s.modAnn fun a => { a with stack := a.stack ++ [e] })
  enterLive : ∀ s i x, P s → findLive s x.cluster x.cls = none → freeLive s = some i →
    P (modLive i (fun _ => some x) s)

/-- R129: a group that enters a queue changes the routes alone. -/
theorem placeGroup_eq (n : Nat) (g : Group) (s : State) :
    placeGroup n g s = { s with routes := (placeGroup n g s).routes } := by
  unfold placeGroup
  split <;> rfl

/-- The engine leaves stack, live table and level. -/
theorem airOnly (st : List StackEntry) (lv : List (Option LiveEntry)) (lvl : OpLevel) :
    Lower fun s => s.ann.stack = st ∧ s.ann.live = lv ∧ s.ann.level = lvl where
  rest _ _ hs _ _ h _ _ := h ▸ hs
  route _ _ _ hs _ := hs
  packets _ _ hs _ := hs
  deliver s i _ n g hs _ _ := by rw [placeGroup_eq]; exact hs
  air _ _ hs h1 h2 h3 := ⟨h1.trans hs.1, h2.trans hs.2.1, h3.trans hs.2.2⟩

theorem matchTo_stack (lane cls : Nat) (s : State) : (matchTo lane cls s).ann.stack = s.ann.stack :=
  ((airOnly _ _ _).matchTo lane cls ⟨rfl, rfl, rfl⟩).1

theorem matchTo_live (lane cls : Nat) (s : State) : (matchTo lane cls s).ann.live = s.ann.live :=
  ((airOnly _ _ _).matchTo lane cls ⟨rfl, rfl, rfl⟩).2.1

theorem bestLive_fits {p : LiveEntry → Bool} {s : State} {e : LiveEntry} (h : bestLive p s = some e) :
    p e = true := by
  obtain ⟨c, -, hc⟩ := List.exists_of_findSome?_eq_some h
  have := List.find?_some hc
  simp only [Bool.and_eq_true] at this
  exact this.2

/-- R140: a candidate outranks the top. -/
theorem candidate_outranks {s : State} {e : LiveEntry} (h : candidate s = some e) :
    ∃ top, s.ann.stack.getLast? = some top ∧ e.cls < top.priority := by
  unfold candidate at h
  split at h
  · rename_i bottom top _ htop
    have hfit := bestLive_fits h
    simp only [Bool.and_eq_true, decide_eq_true_eq] at hfit
    exact ⟨top, htop, hfit.2⟩
  · cases h

theorem mem_positionsFromTop {p : StackEntry → Bool} {st : List StackEntry} {i : Nat}
    (h : i ∈ positionsFromTop p st) : 0 < i := by
  simp only [positionsFromTop, List.mem_reverse, List.mem_filter, Bool.and_eq_true, decide_eq_true_eq] at h
  exact h.2.1

namespace Works

variable {P : State → Prop} (h : Works P) {s : State}
include h

theorem modAnn (f : Announcer → Announcer) (hs : P s) (h1 : StackKept s.ann.stack (f s.ann).stack)
    (h2 : LiveKept s.ann.live (f s.ann).live) : P (s.modAnn f) := h.ann s _ hs h1 h2

theorem modLive (i : Nat) (f : Option LiveEntry → Option LiveEntry) (hs : P s)
    (hf : ∀ x, f x = none ∨ (f x).map LiveEntry.key = x.map LiveEntry.key) : P (modLive i f s) :=
  h.modAnn _ hs (.refl _) (.modify _ i f hf)

theorem mapLive (f : Announcer → Announcer) (g : Option LiveEntry → Option LiveEntry) (hs : P s)
    (h1 : (f s.ann).stack = s.ann.stack) (h2 : (f s.ann).live = s.ann.live.map g)
    (hg : ∀ x, g x = none ∨ (g x).map LiveEntry.key = x.map LiveEntry.key) : P (s.modAnn f) :=
  h.modAnn f hs (h1 ▸ .refl _) (h2 ▸ .map _ g hg)

theorem modEntry (i : Nat) (f : LiveEntry → LiveEntry) (hs : P s) (hf : ∀ e, (f e).key = e.key) :
    P (Machine.modLive i (fun x => x.map f) s) := h.modLive i _ hs fun x => .inr (key_map_kept hf x)

theorem mapEntries (f : Announcer → Announcer) (g : LiveEntry → LiveEntry) (hs : P s)
    (h1 : (f s.ann).stack = s.ann.stack) (h2 : (f s.ann).live = s.ann.live.map fun x => x.map g)
    (hg : ∀ e, (g e).key = e.key) : P (s.modAnn f) :=
  h.mapLive f _ hs h1 h2 fun x => .inr (key_map_kept hg x)

theorem rereadBottom (hs : P s) : P (rereadBottom s) := by
  unfold Machine.rereadBottom
  split
  · rename_i hst
    refine h.modAnn _ hs (.of_classes ?_) (.refl _)
    rw [hst]
    rfl
  · exact hs

theorem removeAt (why : RemoveReason) {i : Nat} (hi : 0 < i) (hs : P s) : P (removeAt why s i) := by
  unfold Machine.removeAt
  split
  · exact hs
  · exact h.announce _ _ _ _ (h.dueEval (h.modAnn _ hs (.eraseIdx hi) (.refl _)))

theorem removeAll (why : RemoveReason) (ps : List Nat) (hp : ∀ i ∈ ps, 0 < i) (hs : P s) :
    P (ps.foldl (Machine.removeAt why) s) := by
  induction ps generalizing s with
  | nil => exact hs
  | cons i rest ih =>
    exact ih (fun j hj => hp j (.tail _ hj)) (h.removeAt why (hp i (.head _)) hs)

theorem removeWhere (why : RemoveReason) (p : StackEntry → Bool) (hs : P s) : P (removeWhere why p s) := by
  unfold Machine.removeWhere
  extract_lets ps t
  have ht : P t := h.removeAll why ps (fun _ => mem_positionsFromTop) hs
  clear_value t
  split
  · exact h.returnToProgram ht
  · exact ht

theorem refreshBottom (hs : P s) : P (refreshBottom s) := by
  unfold Machine.refreshBottom
  extract_lets t
  have ht : P t := h.rereadBottom hs
  clear_value t
  split
  · exact h.removeWhere _ _ ht
  · exact ht

theorem controllerMapChange (hs : P s) : P (controllerMapChange s) := by
  unfold Machine.controllerMapChange
  extract_lets t u
  exact h.dueEval (h.refreshBottom (h.removeWhere _ _ (h.rereadBottom hs)))

theorem leadMapChanged (hs : P s) : P (leadMapChanged s) := h.controllerMapChange (h.remapRoutes hs)

theorem noteRefusal (cluster cls : Nat) (what : NotedRefusal) (b : NoticeBody) (hs : P s) :
    P (noteRefusal cluster cls what b s) := by
  unfold Machine.noteRefusal
  split
  · split
    · exact hs
    · exact h.raiseNow _ (h.modEntry _ _ hs fun _ => rfl)
  · exact hs

theorem tryPush (e : LiveEntry) (he : ∃ top, s.ann.stack.getLast? = some top ∧ e.cls < top.priority) (hs : P s) :
    P (tryPush e s) := by
  unfold Machine.tryPush
  split
  · exact h.noteRefusal _ _ _ _ (h.modSticky _ hs)
  · rename_i hroom
    extract_lets refusal t entry u v
    have ht : P t := h.matchTo _ _ hs
    have hst : t.ann.stack = s.ann.stack := matchTo_stack _ _ s
    have hu : P u := h.push t entry ht (by rw [hst]; omega) (by rw [hst]; exact he)
    have hv : P v := by
      unfold v
      split
      · exact h.modEntry _ _ hu fun _ => rfl
      · exact hu
    clear_value v
    split
    · exact h.noteRefusal _ _ _ _ ht
    · exact h.announce _ _ _ _ hv

theorem matchTop (hs : P s) : P (matchTop s) := by
  unfold Machine.matchTop
  split
  · split
    · extract_lets refusal t
      have ht : P t := h.matchTo _ _ hs
      clear_value t
      split
      · exact ht
      · exact h.noteRefusal _ _ _ _ ht
    · exact hs
  · exact h.matchProgram hs

theorem evaluateRun (hs : P s) : P (evaluateRun s) := by
  unfold Machine.evaluateRun
  extract_lets t
  have ht : P t := by
    unfold t
    split
    · exact h.tryPush _ (candidate_outranks ‹_›) hs
    · exact hs
  exact h.modAir _ (h.matchTop ht) rfl rfl rfl

theorem wake (source : WakeSource) (e : Option LiveEntry) (hs : P s) : P (wake source e s) := by
  unfold Machine.wake
  extract_lets t u v
  have ht : P t := h.mapEntries _ _ hs rfl rfl fun _ => rfl
  exact h.evaluateRun (h.raiseNow _ (h.refreshBottom (h.resumeRoutes ht)))

theorem evaluate (hs : P s) : P (evaluate s) := by
  unfold Machine.evaluate
  split
  · exact h.evaluateRun hs
  · split
    · exact h.wake _ _ hs
    · exact h.modAir _ hs rfl rfl rfl

theorem settle (hs : P s) : P (settle s) := by
  unfold Machine.settle
  split
  · exact h.evaluate hs
  · exact hs

theorem dropLive (why : RemoveReason) (i : Nat) (e : LiveEntry) (hs : P s) : P (dropLive why i e s) :=
  h.removeWhere _ _ (h.dueEval (h.modLive _ _ hs fun _ => .inl rfl))

theorem refreshLive (after : Option MuxMap) (i : Nat) (e : LiveEntry) (lane : Nat) (r : Fn) (hs : P s) :
    P (refreshLive after i e lane r s) := by
  unfold Machine.refreshLive
  split
  · exact h.modEntry _ _ hs fun _ => rfl
  · extract_lets t u v
    have ht : P t := h.modEntry _ _ hs fun _ => rfl
    have hu : P u := h.modAnn _ ht (.of_classes (by
      rw [List.map_map]
      refine List.map_congr_left fun x _ => ?_
      simp only [Function.comp_apply]
      split <;> rfl)) (.refl _)
    have hv : P v := h.dueEval hu
    clear_value v
    split
    · exact hv
    · exact h.removeWhere _ _ hv

theorem liveRecord (after : Option MuxMap) (r : Fn) (x : LiveRecord) (hs : P s) :
    P (liveRecord after r s x) := by
  unfold Machine.liveRecord
  split
  · exact hs
  split
  · split
    · exact h.refreshLive _ _ _ _ _ hs
    · exact h.dueEval (h.enterLive s _ _ hs ‹_› ‹_›)
    · exact hs
  split
  · split
    · exact h.dropLive _ _ _ hs
    · exact hs
  · exact hs

theorem liveSweep (r : Fn) (fresh : Bool) (hs : P s) : P (liveSweep r fresh s) := by
  unfold Machine.liveSweep
  extract_lets t limit old gone u
  have ht : P t := by
    unfold t
    split
    · exact h.mapEntries _ _ hs rfl rfl fun _ => rfl
    · exact hs
  clear_value t
  split
  · exact ht
  · refine h.removeWhere _ _ (h.dueEval (h.mapLive _ _ ht rfl rfl fun x => ?_))
    cases x with
    | none => exact .inl rfl
    | some e =>
      rw [Option.filter_some]
      split
      · exact .inr rfl
      · exact .inl rfl

theorem followController (hs : P s) : P (followController s) := by
  unfold Machine.followController
  extract_lets aired a b c d
  have ha : P a := h.removeAll _ _ (fun _ => mem_positionsFromTop) hs
  have hc : P c := h.setHeld _ (h.mapLive _ (fun _ => none) (h.unbindRoutes _ ha) rfl rfl fun _ => .inl rfl)
  have hd : P d := h.rereadBottom hc
  clear_value d
  split
  · exact h.announceProgram hd
  · exact hd

theorem levelController (hs : P s) : P (levelController s) := by
  unfold Machine.levelController
  extract_lets aired a b c d
  have ha : P a := h.removeAll _ _ (fun _ => mem_positionsFromTop) hs
  have hc : P c := h.setHeld _ (h.modAir _ (h.unbindRoutes _ ha) rfl rfl rfl)
  have hd : P d := h.rereadBottom hc
  clear_value d
  split
  · exact h.announceProgram hd
  · exact hd

theorem cutListening (hs : P s) : P (cutListening s) := by
  unfold Machine.cutListening
  split
  · exact h.cutQueue _ hs
  · exact hs

theorem dismiss (cluster cls : Nat) (hs : P s) : P (dismiss cluster cls s) := by
  unfold Machine.dismiss
  split
  · exact h.modEntry _ _ hs fun _ => rfl
  · exact hs

end Works

end Sys2Proof.Machine
end

section
/-! SUPPORT. A collection that has passed every check of R35 makes a sound map (2.1, 2.2). -/

namespace Sys2Proof.Machine

/-! ### Lanes in order of id -/

theorem insertLane_perm (l : Lane) : ∀ ls : List Lane, (insertLane l ls).Perm (l :: ls)
  | [] => .refl _
  | x :: rest => by
    unfold insertLane
    split
    · exact .refl _
    · exact ((insertLane_perm l rest).cons x).trans (.swap l x rest)

theorem insertLane_sorted (l : Lane) : ∀ ls : List Lane, ls.Pairwise (fun x y => x.id ≤ y.id) →
    (insertLane l ls).Pairwise fun x y => x.id ≤ y.id
  | [], _ => by simp [insertLane]
  | x :: rest, h => by
    obtain ⟨hx, hrest⟩ := List.pairwise_cons.mp h
    unfold insertLane
    split
    · rename_i hlx
      refine List.pairwise_cons.mpr ⟨fun y hy => ?_, h⟩
      obtain rfl | hy := List.mem_cons.mp hy
      · exact hlx
      · exact hlx.trans (hx y hy)
    · rename_i hlx
      refine List.pairwise_cons.mpr ⟨fun y hy => ?_, insertLane_sorted l rest hrest⟩
      obtain rfl | hy := List.mem_cons.mp ((insertLane_perm l rest).mem_iff.mp hy)
      · exact (Nat.le_of_not_le hlx)
      · exact hx y hy

theorem sortLanes_perm (ls : List Lane) : (ls.foldr insertLane []).Perm ls := by
  induction ls with
  | nil => exact .refl _
  | cons l rest ih => exact (insertLane_perm l _).trans (ih.cons l)

theorem sortLanes_sorted (ls : List Lane) : (ls.foldr insertLane []).Pairwise fun x y => x.id ≤ y.id := by
  induction ls with
  | nil => exact .nil
  | cons l rest ih => exact insertLane_sorted l _ ih

/-! ### What the checks say -/

theorem distinct_iff {α : Type} [DecidableEq α] {l : List α} : distinct l = true ↔ l.Nodup := by
  induction l with
  | nil => simp [distinct]
  | cons a rest ih => simp [distinct, ih]

/-- Two lanes share no payload cell. -/
def Lane.Apart (x y : Lane) : Prop :=
  ∀ k, ¬ (x.geometry.start ≤ k ∧ k < x.geometry.start + x.geometry.size
    ∧ y.geometry.start ≤ k ∧ k < y.geometry.start + y.geometry.size)

theorem Lane.Apart.symm {x y : Lane} (h : x.Apart y) : y.Apart x :=
  fun k ⟨h1, h2, h3, h4⟩ => h k ⟨h3, h4, h1, h2⟩

theorem Lane.apart_of_not_meet {x y : Lane} (h : lanesMeet x.geometry y.geometry = false) : x.Apart y := by
  intro k hk
  simp only [lanesMeet, Bool.and_eq_false_iff, decide_eq_false_iff_not] at h
  omega

theorem pairwise_of_noOverlap {ls : List Lane} (h : noOverlap ls = true) : ls.Pairwise Lane.Apart := by
  induction ls with
  | nil => exact .nil
  | cons x rest ih =>
    simp only [noOverlap, Bool.and_eq_true, List.all_eq_true, Bool.not_eq_true'] at h
    exact List.pairwise_cons.mpr ⟨fun y hy => Lane.apart_of_not_meet (h.1 y hy), ih h.2⟩

/-- R35: the nine checks, passed. -/
structure Checked (rs : List (List Byte)) : Prop where
  fields : ∀ r ∈ rs, fieldsOk r = true
  laneIds : (((recordsOf 1 rs).map laneOf).map Lane.id).Nodup
  extent : ∀ l ∈ (recordsOf 1 rs).map laneOf, l.geometry.start + l.geometry.size ≤ 720
  apart : ((recordsOf 1 rs).map laneOf).Pairwise Lane.Apart
  depth : ∀ l ∈ (recordsOf 1 rs).map laneOf, l.geometry.depth ∈ [1, 2, 4, 8, 16]
  lanes : ∀ p ∈ (recordsOf 2 rs).map programOf, programLanesOk ((recordsOf 1 rs).map laneOf) p = true
  programIds : (((recordsOf 2 rs).map programOf).map Program.id).Nodup
  alternateIds : (((recordsOf 3 rs).map alternateOf).map Alternate.id).Nodup
  limits : ((recordsOf 1 rs).map laneOf).length ≤ 63 ∧ ((recordsOf 2 rs).map programOf).length ≤ 32 ∧
    ((recordsOf 3 rs).map alternateOf).length ≤ 16

theorem checked_of_consistency {rs : List (List Byte)} (h : ∀ x ∈ consistency rs, x.1 = true) : Checked rs := by
  simp only [consistency, List.mem_cons, List.not_mem_nil, or_false, forall_eq_or_imp, forall_eq,
    List.all_eq_true, distinct_iff, Bool.and_eq_true, decide_eq_true_eq] at h
  obtain ⟨h1, h2, h3, h4, h5, h6, h7, h8, h9⟩ := h
  exact ⟨h1, h2, h3, pairwise_of_noOverlap h4, by simpa using h5, h6, h7, h8, h9.1.1, h9.1.2, h9.2⟩

/-- R35: a collection is complete when its summary is there, its indices and its sum agree with it, and every check
has passed. -/
theorem consistent_of_complete {c : Collection} (h : judge c = .complete) :
    ∀ x ∈ consistency (c.records.map Prod.snd), x.1 = true := by
  unfold judge at h
  split at h
  · cases h
  dsimp only at h
  split at h
  · cases h
  split at h
  · cases h
  split at h
  · cases h
  split at h
  · cases h
  · rename_i hnone
    intro x hx
    simpa using List.find?_eq_none.mp hnone x hx

/-! ### The fields of checked records -/

theorem mem_recordsOf {kind : Byte} {rs : List (List Byte)} {r : List Byte} :
    r ∈ recordsOf kind rs ↔ r ∈ rs ∧ recordKind r = kind := by simp [recordsOf]

namespace Checked

variable {rs : List (List Byte)} (h : Checked rs)
include h

theorem lane {l : Lane} (hl : l ∈ (recordsOf 1 rs).map laneOf) :
    (1 ≤ l.id ∧ l.id ≤ 63) ∧ 1 ≤ l.geometry.size := by
  obtain ⟨r, hr, rfl⟩ := List.mem_map.mp hl
  obtain ⟨hm, hk⟩ := mem_recordsOf.mp hr
  have hf := h.fields r hm
  simp only [fieldsOk, hk, if_pos, Bool.and_eq_true, decide_eq_true_eq] at hf
  obtain ⟨⟨⟨⟨hid, -⟩, hsize⟩, -⟩, -⟩ := hf
  exact ⟨hid, hsize⟩

theorem program {p : Program} (hp : p ∈ (recordsOf 2 rs).map programOf) :
    p.id ≠ 0 ∧ p.companions.length ≤ 3 ∧ p.cluster ≤ 31 := by
  obtain ⟨r, hr, rfl⟩ := List.mem_map.mp hp
  obtain ⟨hm, hk⟩ := mem_recordsOf.mp hr
  have hf := h.fields r hm
  have h21 : ¬ ((2 : Byte) = 1) := by decide
  simp only [fieldsOk, hk, if_neg h21, if_pos, Bool.and_eq_true, decide_eq_true_eq, bne_iff_ne] at hf
  obtain ⟨⟨⟨⟨hid, -⟩, -⟩, -⟩, hcluster⟩ := hf
  refine ⟨hid, ?_, hcluster⟩
  simp only [programOf, List.length_map, List.length_take]
  omega

theorem alternate {a : Alternate} (ha : a ∈ (recordsOf 3 rs).map alternateOf) :
    a.id ≠ 0 ∧ 1 ≤ a.others.length ∧ a.others.length ≤ 4 ∧ ∀ x ∈ a.others, x ≠ 0x0000 ∧ x ≠ 0xFFFF := by
  obtain ⟨r, hr, rfl⟩ := List.mem_map.mp ha
  obtain ⟨hm, hk⟩ := mem_recordsOf.mp hr
  have hf := h.fields r hm
  have h31 : ¬ ((3 : Byte) = 1) := by decide
  have h32 : ¬ ((3 : Byte) = 2) := by decide
  simp only [fieldsOk, hk, if_neg h31, if_neg h32, Bool.and_eq_true, decide_eq_true_eq, bne_iff_ne,
    List.all_eq_true] at hf
  obtain ⟨⟨⟨hid, hlo⟩, hhi⟩, hothers⟩ := hf
  have hlen : (alternateOf r).others.length = min (byteAt r 5).toNat 4 := by simp [alternateOf]
  exact ⟨hid, by omega, by omega, hothers⟩

end Checked

/-- R35, R37: the map of a complete collection. -/
theorem mapOf_sound {c : Collection} (hv : c.version < 16) (h : judge c = .complete) : (mapOf c).Sound := by
  have k := checked_of_consistency (consistent_of_complete h)
  have hperm := sortLanes_perm ((recordsOf 1 (c.records.map Prod.snd)).map laneOf)
  have hmem : ∀ l ∈ (mapOf c).lanes, l ∈ (recordsOf 1 (c.records.map Prod.snd)).map laneOf :=
    fun l hl => hperm.mem_iff.mp hl
  refine
    { version := hv
      laneOrder := ?_
      laneIds := fun l hl => (k.lane (hmem l hl)).1
      laneCells := fun l hl => ⟨(k.lane (hmem l hl)).2, k.extent l (hmem l hl)⟩
      laneDepths := fun l hl => k.depth l (hmem l hl)
      lanesApart := (hperm.pairwise_iff fun h => Lane.Apart.symm h).mpr k.apart
      programIds := ⟨k.programIds, fun p hp => (k.program hp).1⟩
      programLanes := fun p hp => ?_
      alternateIds := ⟨k.alternateIds, fun a ha => (k.alternate ha).1⟩
      alternateLists := fun a ha => (k.alternate ha).2
      limits := ⟨hperm.length_eq ▸ k.limits.1, k.limits.2⟩ }
  · have hnodup : ((mapOf c).lanes.map Lane.id).Nodup := (hperm.map Lane.id).nodup_iff.mpr k.laneIds
    have hsorted : ((mapOf c).lanes.map Lane.id).Pairwise (· ≤ ·) :=
      List.pairwise_map.mpr (sortLanes_sorted _)
    exact (hsorted.and hnodup).imp fun ⟨hle, hne⟩ => lt_of_le_of_ne hle hne
  · have hok := k.lanes p hp
    simp only [programLanesOk, Bool.and_eq_true, distinct_iff, List.all_eq_true, decide_eq_true_eq] at hok
    exact ⟨hok.2, fun i hi => ((hperm.map Lane.id).mem_iff).mpr (hok.1 i hi), (k.program hp).2⟩

/-! ### What a tracker holds -/

theorem judge_complete_flag (c : Collection) (b : Bool) : judge { c with complete := b } = judge c := rfl

theorem Tracker.Sound.install {y : Tracker} {c : Collection} (hv : c.version < 16) (hc : judge c = .complete)
    (hm : y.map = some (mapOf c)) (hn : y.collection = none) : y.Sound where
  map m h := by
    rw [hm] at h
    cases h
    exact mapOf_sound hv hc
  version _ h := by rw [hn] at h; cases h
  complete _ h := by rw [hn] at h; cases h

/-- The map goes or stays, and the collection goes or stays. -/
theorem Tracker.Sound.part {x y : Tracker} (h : x.Sound) (hm : y.map = x.map ∨ y.map = none)
    (hc : y.collection = x.collection ∨ y.collection = none) : y.Sound where
  map m e := by
    obtain hm | hm := hm
    · exact h.map m (hm ▸ e)
    · rw [hm] at e; cases e
  version c e := by
    obtain hc | hc := hc
    · exact h.version c (hc ▸ e)
    · rw [hc] at e; cases e
  complete c e := by
    obtain hc | hc := hc
    · exact h.complete c (hc ▸ e)
    · rw [hc] at e; cases e

/-- A collection is filed. -/
theorem Tracker.Sound.collect {x y : Tracker} (h : x.Sound) {c : Collection} (hm : y.map = x.map)
    (hc : y.collection = some c) (hv : c.version < 16) (hj : c.complete = true → judge c = .complete) :
    y.Sound where
  map m e := h.map m (hm ▸ e)
  version d e := by rw [hc] at e; cases e; exact hv
  complete d e := by rw [hc] at e; cases e; exact hj

theorem recordVersion_lt (r : List Byte) : recordVersion r < 16 := by
  unfold recordVersion
  exact ((byteAt r 1).extractLsb' 0 4).isLt

theorem collectionFor_version (x : Tracker) (v : Nat) : (collectionFor x v).version = v := by
  unfold collectionFor
  split
  · split
    · assumption
    · rfl
  · rfl

theorem withRecord_version (c : Collection) (i : Option Nat) (r : List Byte) :
    (withRecord c i r).version = c.version := by cases i <;> rfl

end Sys2Proof.Machine
end

section
/-! SUPPORT. What every command can do, told more finely than by `Commands` for a property that reads nothing but
routes, assembler, announcement controller and trackers: a tracker takes nothing unsound, and what comes to the
blocks, the stack and the live table is told by `Works`. -/

namespace Sys2Proof.Machine

/-! ### The actions that may change the listening route -/

/-- Blocks that the groups of a route table hold. -/
def tableBlocks (rs : List Route) : Nat := (rs.map fun r => heldBlocks r.queue).sum

theorem State.queueBlocks_eq (s : State) : s.queueBlocks = tableBlocks s.routes := rfl

/-- A property that any rewriting of the routes keeps, and any rebuilding of the stack. -/
structure Restacks (P : State → Prop) : Prop extends Works P where
  table : ∀ s rs, P s → tableBlocks rs ≤ tableBlocks s.routes → P { s with routes := rs }
  restack : ∀ s a, P s → a.live = s.ann.live → P { s with ann := a }

namespace Restacks

variable {P : State → Prop} (h : Restacks P) {s : State}
include h

theorem rewrite (n : Nat) (f : Route → Route) (hs : P s) (hf : ∀ r, (f r).queue = r.queue) :
    P (s.modRoute n f) :=
  h.table s _ hs (sum_map_modify_le _ f s.routes n fun r _ => by rw [hf])

theorem vacateRoute (n : Nat) (hs : P s) : P (vacateRoute n s) :=
  h.endRun n (h.cutQueue n (h.rewrite n _ hs fun _ => rfl))

theorem vacateAll (ns : List Nat) (hs : P s) : P (ns.foldl (fun s n => Machine.vacateRoute n s) s) :=
  foldl_keeps (fun _ n hb => h.vacateRoute n hb) ns s hs

theorem applyStep (kind : ApplyKind) (hs : P s) : P (applyStep kind s) := by
  unfold Machine.applyStep
  extract_lets ns x
  split
  · exact h.closeStep _ _ _ (h.vacateAll ns hs)
  · exact h.closeStep _ _ _ (h.suspendAll _ ns hs)
  · exact h.closeStep _ _ _ (Engine.foldPairs _ h.resolveRoute _ _ hs)

theorem listeningChanged (hs : P s) : P (listeningChanged s) := by
  unfold Machine.listeningChanged
  extract_lets old ps a b c d e
  have hb : P b := h.releaseCarriers _ (h.removeAll _ _ (fun _ => mem_positionsFromTop) hs)
  have hc : P c := h.table b _ hb (by simp [tableBlocks, Function.comp_def])
  have hd : P d := by
    unfold d
    split
    · exact h.restack _ _ hc rfl
    · exact h.restack _ _ hc rfl
  have he : P e := by
    unfold e
    split
    · exact hd
    · exact h.announceProgram hd
  exact h.dueEval he

theorem tellController (before : Option Nat) (hs : P s) : P (tellController before s) := by
  unfold Machine.tellController
  split
  · exact h.refreshBottom hs
  · exact h.listeningChanged hs

theorem actApply (hs : P s) : P (actApply s) := by
  unfold Machine.actApply
  split
  · extract_lets found changed skipped _ a b _ c
    have ha : P a := h.applyStep _ (h.rest s { s with mgmt := _ } hs rfl rfl rfl rfl rfl)
    have hb : P b := h.settle (h.tellController _ ha)
    exact h.rest b _ hb rfl rfl rfl rfl rfl
  · exact hs

theorem takeListening (n : Nat) (f : RouteFields) (hs : P s) : P (takeListening n f s) := by
  unfold Machine.takeListening
  split
  · refine h.table s _ hs (le_of_eq ?_)
    unfold tableBlocks
    refine congrArg List.sum (List.ext_getElem (by simp) fun m h₁ h₂ => ?_)
    simp only [List.getElem_map, List.getElem_mapIdx]
    split <;> rfl
  · exact hs

theorem routeConsequence (n : Nat) (f : RouteFields) (r : Route) (hs : P s) :
    P (routeConsequence n f r s).1 := by
  unfold Machine.routeConsequence
  extract_lets watch t
  have ht : P t := by
    unfold t
    split
    · exact h.cutQueue n hs
    · exact hs
  clear_value t
  have hr := h.resolvePair [] n ht
  split
  · dsimp only
    exact h.vacateRoute n hs
  split
  · split
    · exact hr
    · dsimp only
      exact ht
  split
  · dsimp only
    exact h.suspendRoute _ n ht
  split
  · exact hr
  · dsimp only
    exact ht

theorem applyRoute (n : Nat) (f : RouteFields) (hs : P s) : P (applyRoute n f s) := by
  unfold Machine.applyRoute
  extract_lets x
  have hw : P (s.modRoute n (Route.written f)) := h.rewrite n _ hs fun _ => rfl
  have hx : P x.1 := h.routeConsequence n f _ (h.takeListening n f hw)
  exact h.tellController _ (h.closeStep _ _ _ hx)

end Restacks

/-! ### The updates of every command -/

/-- The updates of which every command is made, but for the resets. -/
structure Inner (P : State → Prop) : Prop extends Works P where
  tracker : ∀ s t f, P s → ((s.tracker t).Sound → (f (s.tracker t)).Sound) → P (s.modTracker t f)
  exchange : ∀ s, P s → P (exchangeTrackers s)
  act : ∀ s, P s → P (actApply s)
  applied : ∀ s n f, P s → n < 16 → P (applyRoute n f s)

namespace Inner

variable {P : State → Prop} (h : Inner P) {s : State}
include h

/-! ### Map trackers -/

theorem mapChanged (t : TrackerId) (hs : P s) : P (mapChanged t s) := by
  cases t
  · exact h.leadMapChanged hs
  · exact hs

theorem installMap (t : TrackerId) (c : Collection) (why : SwitchReason) (fn : Fn)
    (hc : (s.tracker t).Sound → c.version < 16 ∧ judge c = .complete) (hs : P s) :
    P (installMap t c why fn s) :=
  h.mapChanged t (h.raiseAt _ _ (h.tracker s t _ hs fun hx => .install (hc hx).1 (hc hx).2 rfl rfl))

theorem emptyMap (t : TrackerId) (why : LostReason) (fn : Option Fn) (hs : P s) : P (emptyMap t why fn s) := by
  unfold Machine.emptyMap
  split
  · exact hs
  · exact h.mapChanged t (h.raiseAt _ _ (h.tracker s t _ hs fun hx => hx.part (.inr rfl) (.inl rfl)))

theorem emptyTracker (t : TrackerId) (why : LostReason) (hs : P s) : P (emptyTracker t why s) :=
  h.emptyMap t why _ (h.tracker s t _ hs fun hx => hx.part (.inl rfl) (.inr rfl))

theorem clearTarget (t : TrackerId) (hs : P s) : P (clearTarget t s) :=
  h.tracker s t _ hs fun hx => hx.part (.inl rfl) (.inl rfl)

theorem rejectMap (t : TrackerId) (why : RejectReason) (v : Nat) (i : Option Nat) (fn : Fn) (hs : P s) :
    P (rejectMap t why v i fn s) :=
  h.raiseAt _ _ (h.modSticky _ (h.tracker s t _ hs fun hx => hx.part (.inl rfl) (.inr rfl)))

theorem takeVerdict (t : TrackerId) (f : Frame) (c : Collection) (hv : c.version < 16) (hs : P s) :
    P (takeVerdict t f c s) := by
  unfold Machine.takeVerdict
  split
  · exact h.tracker s t _ hs fun hx =>
      hx.collect (c := { c with complete := false }) rfl rfl hv fun hc => absurd hc Bool.false_ne_true
  · rename_i hj
    split
    · exact h.installMap t c _ _ (fun _ => ⟨hv, hj⟩) hs
    · exact h.tracker s t _ hs fun hx => hx.collect (c := { c with complete := true }) rfl rfl hv fun _ => hj
  · exact h.rejectMap _ _ _ _ _ hs

theorem fileRecord (t : TrackerId) (f : Frame) (i : Option Nat) (r : List Byte) (hs : P s) :
    P (fileRecord t f i r s) := by
  unfold Machine.fileRecord
  extract_lets c
  split
  · split
    · exact hs
    · exact h.rejectMap _ _ _ _ _ hs
  · refine h.takeVerdict _ _ _ ?_ hs
    rw [withRecord_version, collectionFor_version]
    exact recordVersion_lt r

theorem takeRecord (t : TrackerId) (f : Frame) (live : State → LiveRecord → State)
    (hl : ∀ b x, P b → P (live b x)) (p : Option (List Byte)) (hs : P s) : P (takeRecord t f live s p) := by
  have offered : ∀ i r, P (offerRecord t f i r s) := fun i r => by
    unfold offerRecord
    split
    · exact h.fileRecord t f i r hs
    · exact hs
  unfold Machine.takeRecord
  split
  · exact hs
  split
  · split
    · exact hs
    · exact hl _ _ hs
    · exact offered _ _
    · exact offered _ _
  · exact hs

theorem takeRecords (t : TrackerId) (f : Frame) (live : State → LiveRecord → State)
    (hl : ∀ b x, P b → P (live b x)) (hs : P s) : P (takeRecords t f live s) :=
  foldl_keeps (fun _ p hb => h.takeRecord t f live hl p hb) _ s hs

theorem leadRecords (f : Frame) (hs : P s) : P (leadRecords f s) :=
  h.takeRecords _ f _ (fun _ x hb => h.liveRecord _ _ x hb) hs

theorem switchFrame (t : TrackerId) (f : Frame) (hs : P s) : P (switchFrame t f s) := by
  unfold Machine.switchFrame
  split
  · exact hs
  split
  · extract_lets u
    have hu : P u := h.clearTarget t hs
    clear_value u
    split
    · rename_i c hc
      split
      · rename_i hready
        exact h.installMap _ _ _ _ (fun hx => ⟨hx.version c hc, hx.complete c hc hready.1⟩) hu
      · exact h.emptyMap _ _ _ hu
    · exact h.emptyMap _ _ _ hu
  · exact hs

omit h in
theorem filter_eq_or {α : Type} (p : α → Bool) (x : Option α) : x.filter p = x ∨ x.filter p = none := by
  cases x with
  | none => exact .inl rfl
  | some a =>
    rw [Option.filter_some]
    split
    · exact .inl rfl
    · exact .inr rfl

theorem takeCountdown (t : TrackerId) (f : Frame) (hs : P s) : P (takeCountdown t f s) := by
  unfold Machine.takeCountdown
  extract_lets hd
  split
  · exact h.tracker s t _ hs fun hx => hx.part (.inl rfl) (filter_eq_or _ _)
  · refine h.tracker s t _ hs fun hx => ?_
    split
    · exact hx
    · exact hx.part (.inl rfl) (filter_eq_or _ _)

theorem versionCheck (t : TrackerId) (f : Frame) (hs : P s) : P (versionCheck t f s) := by
  unfold Machine.versionCheck
  extract_lets v x ready
  have hready : ∀ c, ready = some c → x.Sound → c.version < 16 ∧ judge c = .complete := fun c hc hx => by
    obtain ⟨hxc, hp⟩ := Option.filter_eq_some_iff.mp hc
    simp only [Bool.and_eq_true] at hp
    exact ⟨hx.version c hxc, hx.complete c hxc hp.1⟩
  clear_value ready
  split
  · split
    · exact hs
    · split
      · rename_i c
        refine h.installMap _ _ _ _ (fun hx => ?_) (h.clearTarget t hs)
        have hsame : (Machine.clearTarget t s).tracker t = { x with target := none } :=
          State.tracker_modTracker s t _
        have hxs : x.Sound := (hsame ▸ hx).part (.inl rfl) (.inl rfl)
        exact hready c rfl hxs
      · exact h.emptyMap _ _ _ (h.tracker s t _ hs fun hx => hx.part (.inl rfl) (filter_eq_or _ _))
  · rename_i c _
    split
    · exact h.installMap _ _ _ _ (hready c rfl) hs
    · exact hs
  · exact hs

theorem trackerHead (t : TrackerId) (f : Frame) (hs : P s) : P (trackerHead t f s) := by
  unfold Machine.trackerHead
  extract_lets u v
  have hv : P v := h.switchFrame t f (h.tracker s t _ hs fun hx => hx.part (.inl rfl) (.inl rfl))
  clear_value v
  split
  · exact h.versionCheck t f (h.takeCountdown t f hv)
  · exact hv

theorem scoutFrame (f : Frame) (hs : P s) : P (scoutFrame f s) :=
  h.takeRecords _ f _ (fun _ _ hb => hb) (h.trackerHead _ f hs)

/-! ### Merge stage and roles -/

theorem modLink (l : LinkId) (f : Link → Link) (hs : P s) : P (s.modLink l f) :=
  h.rest s _ hs (by simp) (by simp) (by simp) (by simp) (by simp)

theorem dropHeld (p : HeldFrame → Bool) (hs : P s) : P (dropHeld p s) := by
  unfold Machine.dropHeld
  extract_lets gone _ t
  exact foldl_keeps (fun b x hb => h.modLink _ _ hb) _ _ (h.rest s t hs rfl rfl rfl rfl rfl)

theorem clearMerge (hs : P s) : P (clearMerge s) := by
  unfold Machine.clearMerge
  extract_lets _ t
  have ht : P t := h.dropHeld _ (h.rest s { s with merge := _ } hs rfl rfl rfl rfl rfl)
  exact h.rest t _ ht rfl rfl rfl rfl rfl

theorem setRole (l : LinkId) (r : Role) (hs : P s) : P (setRole l r s) := h.modLink l _ hs

theorem clearMarks (hs : P s) : P (clearMarks s) := h.rest s _ hs rfl rfl rfl rfl rfl

theorem roleNotice (why : RoleReason) (k : Option HandoverKind) (hs : P s) : P (roleNotice why k s) :=
  h.raiseNow _ hs

theorem handover (l : LinkId) (role : Role) (seamless : Bool) (why : RoleReason) (hs : P s) :
    P (handover l role seamless why s) := by
  unfold Machine.handover
  extract_lets t
  have ht : P t := h.clearMarks (h.setRole _ _ (h.setRole _ _ hs))
  clear_value t
  split
  · exact h.roleNotice _ _ ht
  · exact h.roleNotice _ _ (h.emptyTracker _ _ (h.clearMerge ht))

theorem swapRoles (why : RoleReason) (hs : P s) : P (swapRoles why s) := by
  unfold Machine.swapRoles
  extract_lets l
  split
  · exact h.handover _ _ _ _ hs
  · exact hs

theorem follow (why : RoleReason) (hs : P s) : P (follow why s) := by
  unfold Machine.follow
  extract_lets l t u
  have ht : P t := h.clearMarks (h.setRole _ _ (h.setRole _ _ hs))
  have hu : P u := h.roleNotice _ _ (h.clearMerge (h.exchange t ht))
  exact h.dueEval (h.rereadBottom (h.followRoutes u (h.followController hu)))

theorem setRoles (r : RoleController) (hs : P s) : P { s with roles := r } := h.rest s _ hs rfl rfl rfl rfl rfl

theorem armedCheck (r : Fn) (hs : P s) : P (armedCheck r s) := by
  unfold Machine.armedCheck
  split
  · extract_lets _ t
    have ht : P t := h.setRoles _ hs
    clear_value t
    split
    · exact h.setRoles _ ht
    · exact h.raiseAt _ _ ht
  · exact hs

theorem autoSwapCheck (hs : P s) : P (autoSwapCheck s) := by
  unfold Machine.autoSwapCheck
  extract_lets usable
  split
  · exact h.setRoles _ hs
  · exact hs

theorem followDwell (r : Fn) (q : Nat) (hs : P s) : P (followDwell r q s) := by
  unfold Machine.followDwell
  extract_lets poor _ t _ dwell u
  have ht : P t := by
    unfold t
    split
    · exact hs
    · exact h.setRoles _ hs
  have hu : P u := h.setRoles _ ht
  clear_value u t
  split
  · split
    · exact ht
    · exact h.raiseAt _ _ (h.setRoles _ ht)
  · split
    · exact h.setRoles _ hu
    · exact hu
  · exact h.setRoles _ ht

theorem roleChecks (r : Fn) (q : Nat) (hs : P s) : P (roleChecks r q s) := by
  unfold Machine.roleChecks
  split
  · exact hs
  extract_lets t u
  have ht : P t := h.armedCheck r hs
  have hu : P u := h.autoSwapCheck ht
  clear_value u t
  split
  · exact ht
  split
  · exact hu
  · exact h.followDwell r q hu

theorem actIfDue (hs : P s) : P (actIfDue s) := by
  unfold Machine.actIfDue
  split
  · exact h.act s hs
  · exact hs

theorem markDue (hs : P s) : P (markDue s) := h.rest s _ hs rfl rfl rfl rfl rfl

/-! ### Releases and entries -/

theorem downstream (f : Frame) (fresh : Bool) (hs : P s) : P (downstream f fresh s) := by
  unfold Machine.downstream
  extract_lets a x b c d
  have hx : P x.1 := h.formUnits f (h.trackerHead _ f hs)
  have hb : P b := h.liveSweep _ _ (h.leadRecords f hx)
  have hc : P c := h.settle (h.decideOnAir _ (h.settle hb))
  have hp : P (x.2.foldl placeUnit c) := foldl_keeps (fun _ u hb => h.placeUnit u hb) _ _ hc
  have hd : P d := foldl_keeps (fun _ u hb => h.assembleUnit u hb) _ _ hp
  exact h.roleChecks _ _ (h.markDue (h.abortWhere _ _ hd))

theorem releaseFront (hs : P s) : P (releaseFront s) := by
  unfold Machine.releaseFront
  split
  · exact hs
  · extract_lets partner fresh f b _ d
    have hb : P b := by
      unfold b
      clear_value partner
      split
      · exact h.modLink _ _ hs
      · exact hs
    have hd : P d := h.rest b _ hb rfl rfl rfl rfl rfl
    exact h.downstream _ _ (h.dropHeld _ hd)

theorem releaseMany (k : Nat) (hs : P s) : P (releaseMany k s) := by
  induction k generalizing s with
  | zero => exact hs
  | succ k ih => exact ih (h.releaseFront (h.actIfDue hs))

theorem releaseTest (hs : P s) : P (releaseTest s) := h.releaseMany _ hs

theorem releaseAll (hs : P s) : P (releaseAll s) := Flow.iterate_keeps (fun _ hb => h.releaseFront hb) _ hs

theorem setMerge (m : MergeStage) (hs : P s) : P { s with merge := m } := h.rest s _ hs rfl rfl rfl rfl rfl

theorem enterWaiting (f : Frame) (hs : P s) : P (enterWaiting s f) := h.releaseTest (h.setMerge _ hs)

theorem mergeLateFrame (l : LinkId) (hs : P s) : P (mergeLateFrame l s) := h.modSticky _ (h.modLink _ _ hs)

theorem placeHeld (l : LinkId) (f : Frame) (hs : P s) : P (placeHeld l f s) := by
  unfold Machine.placeHeld
  split
  · exact h.mergeLateFrame l hs
  split
  · exact h.modLink _ _ hs
  extract_lets _ t
  have ht : P t := by
    unfold t
    split
    · split
      · exact h.modLink _ _ (h.setMerge _ hs)
      · exact hs
    · exact hs
  clear_value t
  exact h.releaseTest (h.setMerge _ ht)

theorem partnerEntry (l : LinkId) (f : Frame) (hs : P s) : P (partnerEntry l f s) := by
  unfold Machine.partnerEntry
  extract_lets lead
  split
  · exact h.placeHeld l f hs
  · exact h.modLink _ _ hs

theorem leadEntry (l : LinkId) (f : Frame) (hs : P s) : P (leadEntry l f s) := by
  unfold Machine.leadEntry
  extract_lets e
  clear_value e
  split
  · exact h.enterWaiting f hs
  split
  · exact foldl_keeps (fun _ f hb => h.enterWaiting f hb) _ s hs
  split
  · exact h.mergeLateFrame l hs
  · exact h.placeHeld l f hs

theorem handOn (l : LinkId) (f : Frame) (hs : P s) : P (handOn l f s) := by
  unfold Machine.handOn
  split
  · exact h.leadEntry l f hs
  · split
    · exact h.partnerEntry l f hs
    · exact hs
  · split
    · exact h.scoutFrame f hs
    · exact hs
  · exact hs

/-! ### Departures, frames and misses -/

theorem missArm (hs : P s) : P (missArm s) := by
  unfold Machine.missArm
  split
  · exact hs
  · exact h.raiseAt _ _ (h.setRoles _ hs)

theorem leadDeparture (hs : P s) : P (leadDeparture s) := by
  unfold Machine.leadDeparture
  extract_lets a b c d
  have hb : P b := h.departAll (h.clearTarget _ (h.releaseAll (h.actIfDue hs)))
  have hc : P c := h.missArm (h.markDue hb)
  exact h.setMerge _ (h.dropHeld _ hc)

theorem setLevel (l : LinkId) (v : QLevel) (hs : P s) : P (setLevel l v s) := by
  unfold Machine.setLevel
  extract_lets old t
  have ht : P t := h.modLink _ _ hs
  clear_value t
  split
  · exact ht
  · exact h.raiseNow _ ht

theorem depart (l : LinkId) (v : SyncState) (hs : P s) : P (depart l v s) := by
  unfold Machine.depart
  extract_lets t
  have ht : P t := h.setLevel _ _ (h.modLink _ _ hs)
  clear_value t
  split
  · exact h.leadDeparture ht
  · exact h.dropHeld _ ht
  · exact h.clearTarget _ ht
  · exact ht

theorem goHunt (l : LinkId) (hs : P s) : P (goHunt l s) := by
  unfold Machine.goHunt
  split
  · exact h.depart _ _ hs
  · exact h.modLink _ _ hs

theorem startConfirm (l : LinkId) (f : Frame) (hs : P s) : P (startConfirm l f s) := by
  unfold Machine.startConfirm
  extract_lets old t
  have ht : P t := h.modLink _ _ hs
  clear_value t
  split
  · split
    · exact h.emptyTracker _ _ (h.actIfDue ht)
    · exact h.emptyTracker _ _ ht
    · exact ht
    · exact ht
  · exact ht

theorem updateQuality (l : LinkId) (q : Nat) (hs : P s) : P (updateQuality l q s) :=
  h.setLevel _ _ (h.modLink _ _ hs)

theorem takeFrame (l : LinkId) (t : Nat) (f : Frame) (hs : P s) : P (takeFrame l t f s) :=
  h.handOn l f (h.updateQuality l _ (h.modLink _ _ hs))

theorem confirmFrame (l : LinkId) (t : Nat) (f : Frame) (hs : P s) : P (confirmFrame l t f s) := by
  unfold Machine.confirmFrame
  extract_lets x
  split
  · split
    · exact h.handOn l f (h.setLevel _ _ (h.modLink _ _ (h.modLink _ _ hs)))
    · exact h.modLink _ _ hs
  · exact h.startConfirm l f hs

theorem declareMiss (l : LinkId) (hs : P s) : P (declareMiss l s) := by
  have hm : P (Machine.handOn l _ _) :=
    h.handOn l (s.link l).substitute (h.updateQuality l 0 (h.modLink l Link.missed hs))
  unfold Machine.declareMiss checkCoast
  dsimp only
  split
  · exact h.raiseNow _ (h.modSticky _ (h.modLink _ _ (h.depart l _ hm)))
  · exact hm

theorem gapMisses (l : LinkId) (k : Nat) (hs : P s) : P (gapMisses l k s) := by
  induction k generalizing s with
  | zero => exact hs
  | succ k ih =>
    unfold Machine.gapMisses
    split
    · exact ih (h.declareMiss l hs)
    · exact hs

theorem gapFrame (l : LinkId) (t d : Nat) (f : Frame) (hs : P s) : P (gapFrame l t d f s) := by
  unfold Machine.gapFrame
  extract_lets u
  have hu : P u := h.gapMisses l d hs
  clear_value u
  split
  · exact h.takeFrame l t f hu
  · exact h.startConfirm l f hu

theorem syncedFrame (l : LinkId) (t : Nat) (f : Frame) (hs : P s) : P (syncedFrame l t f s) := by
  unfold Machine.syncedFrame
  extract_lets x d
  split
  · exact h.startConfirm l f (h.depart l _ hs)
  split
  · exact h.takeFrame l t f hs
  split
  · exact h.gapFrame l t _ f hs
  split
  · exact h.startConfirm l f (h.depart l _ (h.modLink _ _ hs))
  · exact h.modSticky _ (h.modLink _ _ hs)

theorem judgeArrival (l : LinkId) (t : Nat) (bs : List Byte) (ms : List Bool) (hs : P s) :
    P (judgeArrival l t bs ms s) := by
  unfold Machine.judgeArrival
  extract_lets x f
  split
  · exact hs
  split
  · exact h.modLink _ _ hs
  split
  · exact h.modLink _ _ hs
  split
  · exact h.startConfirm l f hs
  · exact h.confirmFrame l t f hs
  · exact h.syncedFrame l t f hs
  · exact h.syncedFrame l t f hs

theorem finishEvent (hs : P s) : P (finishEvent s) := by
  unfold Machine.finishEvent
  split
  · exact hs
  extract_lets _ t acts u v
  have ht : P t := h.setRoles _ hs
  have hu : P u := h.rest t _ ht rfl rfl rfl rfl rfl
  have hv : P v := by
    unfold v
    split
    · split
      · exact h.act u hu
      · exact hu
    · exact ht
  clear_value v
  split
  · exact h.swapRoles _ hv
  · exact h.swapRoles _ hv
  · split
    · exact h.follow _ hv
    · exact hv

theorem finishFrame (hs : P s) : P (finishFrame s) := h.settle (h.finishEvent hs)

/-! ### Requests -/

theorem setMgmt (m : Management) (hs : P s) : P { s with mgmt := m } := h.rest s _ hs rfl rfl rfl rfl rfl

theorem setTrunk (t : Trunk) (hs : P s) : P { s with trunk := t } := h.rest s _ hs rfl rfl rfl rfl rfl

theorem answer (req : Request) (last : LastFlags) (cells : List (List Byte)) (hs : P s) :
    P (answer req last cells s) := h.rest s _ hs rfl rfl rfl rfl rfl

theorem replyAfter (s₀ : State) (req : Request) (o : Outcome) (cells : State → List (List Byte)) (hs : P s) :
    P (replyAfter s₀ req o cells s) := h.answer _ _ _ (h.settle hs)

theorem readEntry (t : Table) (i : Nat) (req : Request) (hs : P s) : P (readEntry t i req s) := by
  unfold Machine.readEntry clearOverrun
  extract_lets u
  have hu : P u := h.setMgmt _ hs
  split
  · exact h.record _ _ (h.answer _ _ _ hu) fun _ => rfl
  · exact h.answer _ _ _ hu

theorem serveRead (table index : Byte) (req : Request) (hs : P s) : P (serveRead table index req s) := by
  unfold Machine.serveRead
  split
  · exact h.answer _ _ _ hs
  · split
    · exact h.answer _ _ _ hs
    · exact h.readEntry _ _ _ hs

theorem serveWrite (table index : Byte) (req : Request) (hs : P s) : P (serveWrite table index req s) := by
  unfold Machine.serveWrite
  extract_lets t
  have ht : P t := h.setMgmt _ hs
  clear_value t
  split
  · exact h.answer _ _ _ ht
  · split
    · exact h.answer _ _ _ ht
    · exact h.answer _ _ _ (h.setMgmt _ ht)

theorem selectionReply (req : Request) (o : Outcome) (b : Bool) (x : Selection) (hs : P s) :
    P (selectionReply req o b x s) := h.answer _ _ _ (h.setMgmt _ hs)

theorem serveMarkFrom (r : Byte) (req : Request) (hs : P s) : P (serveMarkFrom r req s) := by
  unfold Machine.serveMarkFrom
  split <;> exact h.selectionReply _ _ _ _ hs

theorem serveMarkTo (r : Byte) (req : Request) (hs : P s) : P (serveMarkTo r req s) := by
  unfold Machine.serveMarkTo
  dsimp only
  split
  · exact h.selectionReply _ _ _ _ hs
  · split <;> exact h.selectionReply _ _ _ _ hs

theorem serveUnmark (r : Byte) (req : Request) (hs : P s) : P (serveUnmark r req s) := by
  unfold Machine.serveUnmark
  dsimp only
  repeat' split
  all_goals exact h.selectionReply _ _ _ _ hs

theorem leavePartner (l : LinkId) (hs : P s) : P (leavePartner l s) := by
  unfold Machine.leavePartner
  split
  · exact h.dropHeld _ hs
  · exact hs

theorem changeRole (l : LinkId) (r : Role) (hs : P s) : P (changeRole l r s) := by
  unfold Machine.changeRole
  cases r with
  | lead => exact hs
  | off => exact h.clearMarks (h.setRole _ _ (h.leavePartner l (h.goHunt l hs)))
  | scout => exact h.emptyTracker _ _ (h.clearMarks (h.setRole _ _ (h.leavePartner l hs)))
  | partner => exact h.clearMarks (h.setRole _ _ hs)

theorem manualHandover (l : LinkId) (hs : P s) : P (manualHandover l s) := by
  unfold Machine.manualHandover
  split
  · exact h.follow _ hs
  · exact h.handover _ _ _ _ hs
  · exact h.goHunt _ (h.handover _ _ _ _ hs)
  · exact hs

theorem applyLink (l : LinkId) (f : LinkFields) (hs : P s) : P (applyLink l f s) := by
  have he : P (writeExpectedId l f.expectedId s) := by
    unfold writeExpectedId
    extract_lets m x t
    have ht : P t := h.modLink _ _ hs
    clear_value t
    split
    · exact h.goHunt l ht
    · exact ht
  refine h.finishEvent ?_
  unfold writeRole
  split
  · exact he
  · split
    · exact h.manualHandover l he
    · exact h.changeRole l _ he

theorem serveWriteLink (l : LinkId) (f : LinkFields) (req : Request) (hs : P s) :
    P (serveWriteLink l f req s) := by
  unfold Machine.serveWriteLink
  extract_lets t outcome
  have ht : P t := h.setMgmt _ (h.setMgmt _ hs)
  refine h.replyAfter _ _ _ _ ?_
  split
  · exact h.applyLink l f ht
  · exact ht

theorem serveWriteRoute (n : Nat) (hn : n < 16) (f : RouteFields) (req : Request) (hs : P s) :
    P (serveWriteRoute n f req s) := by
  unfold Machine.serveWriteRoute
  extract_lets t
  have ht : P t := h.setMgmt _ (h.setMgmt _ hs)
  clear_value t
  split
  · exact h.replyAfter _ _ _ _ ht
  · exact h.replyAfter _ _ _ _ (h.applied t n f ht hn)

theorem applySettings (new : Settings) (hs : P s) : P (applySettings new s) := by
  unfold Machine.applySettings
  extract_lets old _ a b
  have ha : P a := by
    unfold a restartDwell
    have hv : P { s with mgmt := { s.mgmt with settings := new } } := h.setMgmt _ hs
    split
    · exact h.setRoles _ hv
    · exact hv
  have hb : P b := by
    unfold b
    split
    · exact h.finishEvent (h.releaseTest ha)
    · exact ha
  clear_value b
  split
  · exact h.dueEval hb
  · exact hb

theorem serveWriteSettings (f : SettingsFields) (req : Request) (hs : P s) : P (serveWriteSettings f req s) := by
  unfold Machine.serveWriteSettings
  extract_lets t
  have ht : P t := h.setMgmt _ (h.setMgmt _ hs)
  clear_value t
  split
  · exact h.replyAfter _ _ _ _ ht
  · exact h.replyAfter _ _ _ _ (h.applySettings _ ht)

theorem serveApplyOf (req : Request) (hs : P s) : P (serveApplyOf req s) := by
  have refused : ∀ o, P (refuseApply req o s) := fun o => h.answer _ _ _ (h.setMgmt _ hs)
  unfold Machine.serveApplyOf
  split
  · unfold serveApply
    split
    · exact refused _
    split
    · exact refused _
    split
    · exact refused _
    · extract_lets _ t
      have ht : P t := h.setMgmt _ hs
      clear_value t
      split
      · exact ht
      · exact h.act t ht
  · exact hs

theorem serveArm (n : Fn) (req : Request) (hs : P s) : P (serveArm n req s) := by
  unfold Machine.serveArm
  extract_lets t
  have ht : P t := h.setMgmt _ hs
  clear_value t
  split
  · exact h.replyAfter _ _ _ _ ht
  split
  · exact h.replyAfter _ _ _ _ (h.setRoles _ ht)
  · exact h.replyAfter _ _ _ _ ht

theorem serveFollow (force : Bool) (req : Request) (hs : P s) : P (serveFollow force req s) := by
  unfold Machine.serveFollow
  extract_lets t
  have ht : P t := h.setMgmt _ hs
  clear_value t
  split
  · exact h.replyAfter _ _ _ _ ht
  split
  · exact h.replyAfter _ _ _ _ (h.follow _ ht)
  · exact h.replyAfter _ _ _ _ ht

theorem serveCancel (req : Request) (hs : P s) : P (serveCancel req s) := by
  unfold Machine.serveCancel
  extract_lets t
  have ht : P t := h.setMgmt _ hs
  clear_value t
  split
  · exact h.replyAfter _ _ _ _ ht
  · exact h.replyAfter _ _ _ _ (h.removeWhere _ _ (h.dismiss _ _ ht))

theorem levelRoles (hs : P s) : P (levelRoles s) := by
  unfold Machine.levelRoles
  extract_lets l
  split
  · exact h.setRoles _ hs
  · exact h.roleNotice _ _ (h.changeRole _ _ hs)

theorem enterWatch (hs : P s) : P (enterWatch s) := by
  unfold Machine.enterWatch
  extract_lets a b c
  have hb : P b := h.suspendAll _ _ (h.levelRoles hs)
  have hc : P c := h.closeStep _ _ _ (h.levelController (h.cutListening hb))
  exact h.dueEval (h.mapEntries _ _ hc rfl rfl fun _ => rfl)

theorem serveLevel (code : Byte) (req : Request) (hs : P s) : P (serveLevel code req s) := by
  unfold Machine.serveLevel
  extract_lets t
  have ht : P t := h.setMgmt _ hs
  clear_value t
  split
  · refine h.replyAfter _ _ _ _ ?_
    split
    · exact h.wake _ _ ht
    · exact ht
  split
  · refine h.replyAfter _ _ _ _ ?_
    split
    · exact h.enterWatch ht
    · exact ht
  · exact h.replyAfter _ _ _ _ ht

theorem serveLevelOf (req : Request) (hs : P s) : P (serveLevelOf req s) := by
  unfold Machine.serveLevelOf
  split
  · exact h.serveLevel _ req hs
  · exact hs

/-! ### Trunk -/

theorem judgeCell (cell : List Byte) (hs : P s) : P (judgeCell cell s) := by
  unfold Machine.judgeCell admitRequest
  split
  · exact h.modSticky _ hs
  split
  · exact h.modSticky _ hs
  split
  · exact h.setMgmt _ hs
  · exact h.modSticky _ hs

/-- R128: the cells of a group that has begun hold its blocks until the last. -/
theorem startCell (hs : P s) : P (startCell s) := by
  unfold Machine.startCell
  split
  · exact h.setTrunk _ hs
  unfold startChosen
  split
  · exact h.setTrunk _ hs
  · exact h.setTrunk _ hs
  · rename_i n _ _ _
    unfold startRoute
    split
    · exact hs
    · rename_i i rest hq
      refine h.setTrunk _ (h.route s n _ hs fun r hr => ⟨rfl, rfl, rfl, rfl, rfl, rfl, ?_⟩)
      have hrn : r.queue = i :: rest := by rw [← State.route_of_getElem? hr]; exact hq
      rw [hrn]
      exact le_of_eq rfl
  · exact hs

theorem finishOrigin (o : Origin) (hs : P s) : P (finishOrigin o s) := by
  unfold Machine.finishOrigin
  split
  · exact h.setTrunk _ hs
  · exact h.setTrunk _ hs
  · refine h.route s _ _ hs fun r _ => ⟨rfl, rfl, rfl, rfl, rfl, rfl, heldBlocks_le_of_sublist ?_⟩
    unfold finishItem
    split
    · rename_i i rest hq
      dsimp only at hq ⊢
      split
      · exact .refl _
      · rw [hq]
        exact List.sublist_cons_self _ _
    · exact List.nil_sublist _
  · exact hs

/-! ### Every command -/

theorem exec (hreset : P State.reset) {t : State} (c : Instr) (hs : P s)
    (ht : Machine.exec c s = .next t) : P t := by
  have served : ∀ {tag op} {body : Request → State → State}, serve tag op body s = .next t →
      (∀ req, P (body req s)) → P t := fun ht hb =>
    Commands.serve (P := P) _ _ _ (fun req _ _ _ => hb req) hs ht
  have servedIf : ∀ {tag isOp} {body : Request → State → State}, serveIf tag isOp body s = .next t →
      (∀ req, P (body req s)) → P t := fun ht hb =>
    Commands.serveIf (P := P) _ _ _ (fun req _ _ _ _ => hb req) hs ht
  cases c with
  | powerOnReset => cases ht; exact h.rest State.reset _ hreset rfl rfl rfl rfl rfl
  | pinReset => cases ht; exact h.rest State.reset _ hreset rfl rfl rfl rfl rfl
  | wakeInput =>
    simp only [Machine.exec, execWakeInput] at ht
    split at ht
    · cases ht; exact hs
    · cases ht; exact h.wake _ _ hs
  | holdAsserted => cases ht; exact h.setTrunk _ hs
  | holdDeasserted => cases ht; exact h.setTrunk _ hs
  | resetReleased => cases ht; exact h.setTrunk _ hs
  | arrival l time bs ms =>
    simp only [Machine.exec, execArrival] at ht
    split at ht
    · cases ht
      exact h.finishFrame (h.judgeArrival l _ bs ms (h.rest s { s with clock := _ } hs rfl rfl rfl rfl rfl))
    · cases ht
  | miss l =>
    simp only [Machine.exec, execMiss] at ht
    split at ht
    · cases ht; exact hs
    · split at ht
      · cases ht
        exact h.finishFrame (h.declareMiss l (h.modLink _ _
          (h.rest s { s with clock := _ } hs rfl rfl rfl rfl rfl)))
      · cases ht; exact hs
  | upstreamArrival cell =>
    simp only [Machine.exec, execUpstreamArrival] at ht
    split at ht
    · cases ht; exact h.judgeCell cell hs
    · cases ht
  | cellBrokenOff => cases ht; exact h.modSticky _ hs
  | cellStart =>
    simp only [Machine.exec, execCellStart] at ht
    split at ht
    · cases ht; exact h.startCell hs
    · cases ht; exact hs
  | cellFinish =>
    simp only [Machine.exec, execCellFinish] at ht
    split at ht
    · cases ht; exact hs
    · cases ht; exact h.finishOrigin _ (h.setTrunk _ hs)
  | status tag => exact served ht fun req => h.modSticky _ (h.answer _ _ _ hs)
  | read tag table index => exact served ht fun req => h.serveRead table index req hs
  | step tag => exact served ht fun req => h.readEntry _ _ req hs
  | write tag table index => exact served ht fun req => h.serveWrite table index req hs
  | writeLink tag l f => exact served ht fun req => h.serveWriteLink l f req hs
  | writeRoute tag n f => exact served ht fun req => h.serveWriteRoute n n.isLt f req hs
  | writeSettings tag f => exact served ht fun req => h.serveWriteSettings f req hs
  | markFrom tag r => exact served ht fun req => h.serveMarkFrom r req hs
  | markTo tag r => exact served ht fun req => h.serveMarkTo r req hs
  | unmark tag r => exact served ht fun req => h.serveUnmark r req hs
  | applyRelease tag => exact servedIf ht fun req => h.serveApplyOf req hs
  | applySuspend tag => exact servedIf ht fun req => h.serveApplyOf req hs
  | applyEngage tag => exact servedIf ht fun req => h.serveApplyOf req hs
  | applyAction => cases ht; exact h.actIfDue hs
  | arm tag n => exact served ht fun req => h.serveArm n req hs
  | disarm tag =>
    rw [Machine.exec, execDisarm] at ht
    exact served ht fun req => h.replyAfter _ _ _ _ (h.setRoles _ (h.setMgmt _ hs))
  | follow tag force => exact served ht fun req => h.serveFollow force req hs
  | cancel tag => exact served ht fun req => h.serveCancel req hs
  | levelWatch tag => exact servedIf ht fun req => h.serveLevelOf req hs
  | levelRun tag => exact servedIf ht fun req => h.serveLevelOf req hs
  | reset tag =>
    refine served ht fun req => ?_
    unfold serveReset resetNotice
    refine h.raiseAt _ _ (h.answer _ _ _ ?_)
    exact h.rest State.reset _ hreset rfl rfl rfl rfl rfl
  | unknownRequest tag code => exact served ht fun req => h.answer _ _ _ (h.setMgmt _ hs)

end Inner

end Sys2Proof.Machine
end

section
/-! SUPPORT. What every command keeps of the maps (O17), of the block pool (O45), of the interruption stack and of the
live table (O46), each by the updates of which the commands are made. -/

namespace Sys2Proof.Machine

/-- A property that the updates of `Restacks` keep takes every command, when the trackers keep it too. -/
theorem Restacks.inner {P : State → Prop} (h : Restacks P)
    (htracker : ∀ s t f, P s → ((s.tracker t).Sound → (f (s.tracker t)).Sound) → P (s.modTracker t f))
    (hexchange : ∀ s, P s → P (exchangeTrackers s)) : Inner P where
  toWorks := h.toWorks
  tracker := htracker
  exchange := hexchange
  act _ hs := h.actApply hs
  applied _ n f hs _ := h.applyRoute n f hs

/-- A property of every command is one of every step. -/
theorem Inner.step {P : State → Prop} (h : Inner P) (hreset : P State.reset) {s t : State} (hs : P s)
    (ht : Machine.step s = .next t) : P t :=
  step_keeps hs (fun _ hu => h.rest _ _ hu rfl rfl rfl rfl rfl) (fun c _ hu hn => h.exec hreset c hu hn) ht

/-! ### Maps -/

theorem mapsRestacked : Restacks State.mapsSound where
  rest _ _ hs _ _ _ hl hc := ⟨hl ▸ hs.1, hc ▸ hs.2⟩
  route _ _ _ hs _ := hs
  packets _ _ hs _ := hs
  deliver _ _ _ _ _ hs _ _ := by rw [placeGroup_eq]; exact hs
  air _ _ hs _ _ _ := hs
  ann _ _ hs _ _ := hs
  push _ _ hs _ _ := hs
  enterLive _ _ _ hs _ _ := hs
  table _ _ hs _ := hs
  restack _ _ hs _ := hs

theorem mapsInner : Inner State.mapsSound :=
  mapsRestacked.inner
    (fun s t f hs hf => by
      obtain ⟨hl, hc⟩ := hs
      cases t
      · exact ⟨hf hl, hc⟩
      · exact ⟨hl, hf hc⟩)
    (fun _ hs => ⟨hs.2, hs.1⟩)

theorem reset_mapsSound : State.reset.mapsSound :=
  have h : Tracker.reset.Sound := ⟨fun _ h => (nomatch h), fun _ h => (nomatch h), fun _ h => (nomatch h)⟩
  ⟨h, h⟩

/-- Settles O17: a tracker takes no map but from a collection that has passed every check of R35. -/
theorem mapsStaySound : Obligations.MapsStaySound :=
  fun _ _ hs ht => mapsInner.step reset_mapsSound hs ht

/-! ### Blocks -/

theorem State.queueBlocks_modRoute_le (s : State) (n : Nat) (f : Route → Route)
    (hf : ∀ r, s.routes[n]? = some r → heldBlocks (f r).queue ≤ heldBlocks r.queue) :
    (s.modRoute n f).queueBlocks ≤ s.queueBlocks :=
  sum_map_modify_le _ f s.routes n hf

/-- R129: a group that enters a queue brings its own blocks, and no more. -/
theorem State.queueBlocks_enqueue_le (s : State) (n : Nat) (g : Group) :
    (s.enqueue n (.ofGroup g)).queueBlocks ≤ s.queueBlocks + blocksFor g.bytes.length := by
  unfold State.enqueue
  rw [State.queueBlocks_eq, State.queueBlocks_eq, State.modRoute_routes]
  cases hr : s.routes[n]? with
  | none => rw [List.modify_eq_self (List.getElem?_eq_none_iff.mp hr)]; omega
  | some r =>
    have hset := sum_map_set (fun r => heldBlocks r.queue) s.routes n r
    rw [List.modify_eq_set_getElem?, hr]
    refine Nat.le_of_add_le_add_right (b := heldBlocks r.queue) ((hset _ hr).le.trans ?_)
    dsimp only
    rw [heldBlocks_append]
    have hd := heldBlocks_le_of_sublist (displace_sublist (Item.isUnit
      { channel := r.channel.getD 0, started := 0, content := .ofGroup g }) r.queue)
    have hg : heldBlocks [{ channel := r.channel.getD 0, started := 0, content := .ofGroup g }] =
        blocksFor g.bytes.length := by simp [heldBlocks, Item.blocks]
    unfold tableBlocks
    omega

theorem placeGroup_blocks (n : Nat) (g : Group) (s : State) :
    (placeGroup n g s).queueBlocks ≤ s.queueBlocks + blocksFor g.bytes.length := by
  unfold placeGroup
  split
  · exact Nat.le_add_right _ _
  · refine (State.queueBlocks_enqueue_le _ _ _).trans
      (Nat.add_le_add_right (State.queueBlocks_modRoute_le _ _ _ ?_) _)
    exact fun _ _ => le_rfl

theorem blocksRestacked : Restacks State.blocksFit where
  rest s t hs hr hp _ _ _ := by
    unfold State.blocksFit State.queueBlocks
    rw [hr, hp]
    exact hs
  route s n f hs hf :=
    (Nat.add_le_add_left (State.queueBlocks_modRoute_le s n f fun r hr => (hf r hr).blocks) _).trans hs
  packets s x hs hx := hx.elim (fun hle => (Nat.add_le_add_right hle _).trans hs) id
  deliver s i a n g hs ha hg := by
    have hfree := freeRecord_blocks i s
    have hput := placeGroup_blocks n g (freeRecord i s)
    have hrec : recordBlocks (some a) = blocksFor a.bytes.length := rfl
    have hpackets : (placeGroup n g (freeRecord i s)).packets = (freeRecord i s).packets := by rw [placeGroup_eq]
    have hqueues : (freeRecord i s).queueBlocks = s.queueBlocks := rfl
    unfold State.blocksFit at hs ⊢
    rw [ha, hrec] at hfree
    rw [hg, hqueues] at hput
    rw [hpackets]
    omega
  air _ _ hs _ _ _ := hs
  ann _ _ hs _ _ := hs
  push _ _ hs _ _ := hs
  enterLive _ _ _ hs _ _ := hs
  table _ _ hs hle := (Nat.add_le_add_left hle _).trans hs
  restack _ _ hs _ := hs

theorem blocksInner : Inner State.blocksFit := by
  refine blocksRestacked.inner (fun s t f hs _ => ?_) (fun _ hs => hs)
  cases t <;> exact hs

theorem reset_blocksFit : State.reset.blocksFit := by
  unfold State.blocksFit
  decide

/-- Settles O45: what is filed finds room in the pool, and a delivered group takes over the blocks of its record. -/
theorem blocksStayInPool : Obligations.BlocksStayInPool := by
  refine ⟨fun _ _ hs ht => blocksInner.step reset_blocksFit hs ht, fun s hs => ?_⟩
  unfold State.freeBlocks
  exact Nat.sub_add_cancel hs

/-! ### The live table -/

/-- The keys of the live entries in a table. -/
def liveKeys (l : List (Option LiveEntry)) : List (Nat × Nat) := l.reduceOption.map LiveEntry.key

theorem liveKeys_cons (x : Option LiveEntry) (l : List (Option LiveEntry)) :
    liveKeys (x :: l) = (x.map LiveEntry.key).toList ++ liveKeys l := by
  cases x <;> rfl

theorem State.liveKeysApart_iff {s : State} :
    s.LiveKeysApart ↔ s.ann.live.length = 16 ∧ (liveKeys s.ann.live).Nodup := by
  have hkeys : (liveKeys s.ann.live).Nodup ↔
      s.ann.live.reduceOption.Pairwise fun x y => ¬ (x.cls = y.cls ∧ x.cluster = y.cluster) := by
    unfold liveKeys List.Nodup
    rw [List.pairwise_map]
    simp [LiveEntry.key]
  rw [hkeys]
  exact ⟨fun h => ⟨h.length, h.apart⟩, fun h => ⟨h.1, h.2⟩⟩

theorem LiveKept.keys {l l' : List (Option LiveEntry)} (h : LiveKept l l') :
    (liveKeys l').Sublist (liveKeys l) := by
  induction h with
  | nil => exact .refl _
  | cons hx _ ih =>
    rw [liveKeys_cons, liveKeys_cons]
    refine List.Sublist.append ?_ ih
    obtain rfl | hx := hx
    · exact List.nil_sublist _
    · rw [hx]

theorem liveKeys_modify_perm {l : List (Option LiveEntry)} {i : Nat} (x : LiveEntry) (h : l[i]? = some none) :
    (liveKeys (l.modify i fun _ => some x)).Perm (x.key :: liveKeys l) := by
  induction l generalizing i with
  | nil => simp at h
  | cons y l ih =>
    cases i with
    | zero =>
      simp only [List.getElem?_cons_zero, Option.some.injEq] at h
      subst h
      exact .refl _
    | succ i =>
      rw [List.modify_succ_cons, liveKeys_cons, liveKeys_cons]
      exact ((ih (by simpa using h)).append_left _).trans List.perm_middle

theorem mem_liveKeys {l : List (Option LiveEntry)} {k : Nat × Nat} (h : k ∈ liveKeys l) :
    ∃ (i : Nat) (e : LiveEntry), l[i]? = some (some e) ∧ e.key = k := by
  obtain ⟨e, he, rfl⟩ := List.mem_map.mp h
  obtain ⟨i, hi⟩ := List.mem_iff_getElem?.mp (List.reduceOption_mem_iff.mp he)
  exact ⟨i, e, hi, rfl⟩

theorem findLive_none {s : State} (hlen : s.ann.live.length = 16) {cluster cls : Nat}
    (h : findLive s cluster cls = none) : (cls, cluster) ∉ liveKeys s.ann.live := by
  intro hk
  obtain ⟨i, e, hi, hkey⟩ := mem_liveKeys hk
  have hlt : i < 16 := hlen ▸ (List.getElem?_eq_some_iff.mp hi).1
  have hnone := List.findSome?_eq_none_iff.mp h i (List.mem_range.mpr hlt)
  simp only [LiveEntry.key, Prod.mk.injEq] at hkey
  simp [List.getD, hi, hkey] at hnone

theorem freeLive_some {s : State} (hlen : s.ann.live.length = 16) {i : Nat} (h : freeLive s = some i) :
    s.ann.live[i]? = some none := by
  have hi := List.mem_range.mp (List.mem_of_find?_eq_some h)
  have hnone := List.find?_some h
  have hlt : i < s.ann.live.length := hlen ▸ hi
  simp only [List.getD, List.getElem?_eq_getElem hlt, Option.getD_some, Option.isNone_iff_eq_none] at hnone
  rw [List.getElem?_eq_getElem hlt, hnone]

theorem State.LiveKeysApart.of_live {s t : State} (h : s.LiveKeysApart) (hl : t.ann.live = s.ann.live) :
    t.LiveKeysApart :=
  ⟨hl ▸ h.length, hl ▸ h.apart⟩

theorem liveRestacked : Restacks State.LiveKeysApart where
  rest _ _ hs _ _ ha _ _ := hs.of_live (by rw [ha])
  route _ _ _ hs _ := hs.of_live rfl
  packets _ _ hs _ := hs.of_live rfl
  deliver _ _ _ _ _ hs _ _ := hs.of_live (by rw [placeGroup_eq]; rfl)
  air _ _ hs _ hl _ := hs.of_live hl
  ann s a hs _ hl := by
    rw [State.liveKeysApart_iff] at hs ⊢
    exact ⟨hl.length_eq ▸ hs.1, hl.keys.nodup hs.2⟩
  push _ _ hs _ _ := hs.of_live rfl
  enterLive s i x hs hfind hfree := by
    rw [State.liveKeysApart_iff] at hs ⊢
    refine ⟨(List.length_modify _ _ _).trans hs.1, ?_⟩
    exact (liveKeys_modify_perm x (freeLive_some hs.1 hfree)).nodup_iff.mpr
      (List.nodup_cons.mpr ⟨findLive_none hs.1 hfind, hs.2⟩)
  table _ _ hs _ := hs.of_live rfl
  restack _ _ hs hl := hs.of_live hl

theorem liveInner : Inner State.LiveKeysApart := by
  refine liveRestacked.inner (fun s t f hs _ => ?_) (fun _ hs => hs.of_live rfl)
  exact hs.of_live (by cases t <;> rfl)

theorem reset_liveKeysApart : State.reset.LiveKeysApart :=
  ⟨by decide, List.Pairwise.nil⟩

/-! ### The stack -/

/-- R137: the stack is sound, and stands exactly when the listening route m is not none. -/
structure StackOn (m : Option Nat) (stack : List StackEntry) : Prop where
  depth : stack.length ≤ 4
  bottom : ∀ e, stack.head? = some e → e.cls = none
  rising : stack.Pairwise fun lower upper => upper.priority < lower.priority
  stands : stack = [] ↔ m = none

theorem State.stackRises_iff {s : State} : s.StackRises ↔ StackOn s.listening s.ann.stack :=
  ⟨fun h => ⟨h.depth, h.bottom, h.rising, h.listening⟩, fun h => ⟨h.depth, h.bottom, h.rising, h.stands⟩⟩

theorem rising_iff_classes (stack : List StackEntry) :
    (stack.Pairwise fun lower upper => upper.priority < lower.priority) ↔
      (stack.map StackEntry.cls).Pairwise fun lower upper => upper.getD 8 < lower.getD 8 := by
  rw [List.pairwise_map]
  rfl

theorem StackOn.kept {m : Option Nat} {st st' : List StackEntry} (h : StackOn m st) (hk : StackKept st st') :
    StackOn m st' where
  depth := by
    have := hk.classes.length_le
    simp only [List.length_map] at this
    exact this.trans h.depth
  bottom e he := by
    have hb := hk.bottom
    rw [he, Option.map_some, eq_comm, Option.map_eq_some_iff] at hb
    obtain ⟨e', he', hcls⟩ := hb
    exact hcls ▸ h.bottom e' he'
  rising := (rising_iff_classes _).mpr (((rising_iff_classes _).mp h.rising).sublist hk.classes)
  stands := by
    rw [← h.stands, ← List.head?_eq_none_iff, ← List.head?_eq_none_iff (l := st),
      ← Option.map_eq_none_iff (f := StackEntry.cls), hk.bottom, Option.map_eq_none_iff]

theorem StackOn.push {m : Option Nat} {st : List StackEntry} (h : StackOn m st) {e top : StackEntry}
    (hlen : st.length < 4) (htop : st.getLast? = some top) (he : e.priority < top.priority) :
    StackOn m (st ++ [e]) := by
  obtain ⟨below, rfl⟩ := List.getLast?_eq_some_iff.mp htop
  have hne : below ++ [top] ≠ [] := by simp
  refine ⟨by rw [List.length_append]; exact hlen, fun x hx => h.bottom x ?_, ?_, ?_⟩
  · rwa [List.head?_append_of_ne_nil _ hne] at hx
  · refine List.pairwise_append.mpr ⟨h.rising, List.pairwise_singleton _ _, fun x hx y hy => ?_⟩
    rw [List.mem_singleton.mp hy]
    obtain hx | hx := List.mem_append.mp hx
    · exact he.trans ((List.pairwise_append.mp h.rising).2.2 x hx top (List.mem_singleton_self _))
    · rwa [List.mem_singleton.mp hx]
  · rw [← h.stands]
    simp

/-! ### The listening flag -/

theorem State.listening_congr {s t : State} (h : ∀ n, (t.route n).listening = (s.route n).listening) :
    t.listening = s.listening := by
  unfold State.listening
  simp only [h]

theorem State.oneListener.mono {s t : State} (hs : s.oneListener)
    (h : ∀ n, (t.route n).listening = true → (s.route n).listening = true) : t.oneListener :=
  fun m n hm hn => hs m n (h m hm) (h n hn)

theorem State.listening_modRoute {s : State} (n : Nat) (f : Route → Route)
    (hf : ∀ r, s.routes[n]? = some r → (f r).listening = r.listening) (k : Nat) :
    ((s.modRoute n f).route k).listening = (s.route k).listening := by
  rw [State.route, State.route, List.getD_eq_getElem?_getD, List.getD_eq_getElem?_getD, State.modRoute_routes,
    List.getElem?_modify]
  cases hk : s.routes[k]? with
  | none => rfl
  | some r =>
    by_cases hnk : n = k
    · subst hnk
      simpa using hf r hk
    · simp [hnk]

theorem placeGroup_listening (n : Nat) (g : Group) (s : State) (k : Nat) :
    ((placeGroup n g s).route k).listening = (s.route k).listening := by
  unfold placeGroup
  split
  · rfl
  · unfold State.enqueue
    refine (State.listening_modRoute _ _ ?_ k).trans (State.listening_modRoute _ _ ?_ k)
    · exact fun _ _ => rfl
    · exact fun _ _ => rfl

/-- One route listens at most, and the stack is sound for m. -/
def Stands (m : State → Option Nat) (s : State) : Prop := s.oneListener ∧ StackOn (m s) s.ann.stack

/-- The updates of the engine and the controller keep the stack, when m is read of the listening flags only. -/
theorem standsWorks (m : State → Option Nat)
    (hm : ∀ s t : State, (∀ n, (t.route n).listening = (s.route n).listening) → m t = m s) :
    Works (Stands m) := by
  have keeps : ∀ s t : State, Stands m s → (∀ n, (t.route n).listening = (s.route n).listening) →
      StackOn (m s) t.ann.stack → Stands m t := fun s t hs hl hst =>
    ⟨hs.1.mono fun n hn => hl n ▸ hn, (hm s t hl).symm ▸ hst⟩
  constructor
  · constructor
    · intro s t hs hr _ ha _ _
      exact keeps s t hs (fun n => by rw [State.route, hr, State.route]) (ha ▸ hs.2)
    · intro s n f hs hf
      exact keeps s _ hs (State.listening_modRoute n f fun r hr => (hf r hr).listening) hs.2
    · intro s x hs _
      exact keeps s _ hs (fun _ => rfl) hs.2
    · intro s i a n g hs _ _
      refine keeps s _ hs (fun k => placeGroup_listening n g _ k) ?_
      rw [placeGroup_eq]
      exact hs.2
    · intro s a hs ha _ _
      exact keeps s _ hs (fun _ => rfl) (ha.symm ▸ hs.2)
  · intro s a hs ha _
    exact keeps s _ hs (fun _ => rfl) (hs.2.kept ha)
  · intro s e hs hlen ⟨top, htop, he⟩
    exact keeps s _ hs (fun _ => rfl) (hs.2.push hlen htop he)
  · intro s i x hs _ _
    exact keeps s _ hs (fun _ => rfl) hs.2

/-- While the listening flags change, the stack stands for the route that listened before (R110). -/
theorem standsFor (m : Option Nat) : Works (Stands fun _ => m) := standsWorks _ fun _ _ _ => rfl

theorem standsNow : Works (Stands State.listening) := standsWorks _ fun _ _ => State.listening_congr

/-- Clearing listening flags. -/
theorem Stands.cleared {m : Option Nat} {s t : State} (hs : Stands (fun _ => m) s)
    (hl : ∀ n, (t.route n).listening = true → (s.route n).listening = true) (ha : t.ann = s.ann) :
    Stands (fun _ => m) t :=
  ⟨hs.1.mono hl, ha ▸ hs.2⟩

theorem State.listening_of_cleared {s : State} (n : Nat) (f : Route → Route)
    (hf : ∀ r, (f r).listening = true → r.listening = true) (k : Nat)
    (h : ((s.modRoute n f).route k).listening = true) : (s.route k).listening = true := by
  rw [State.route, List.getD_eq_getElem?_getD, State.modRoute_routes, List.getElem?_modify] at h
  rw [State.route, List.getD_eq_getElem?_getD]
  cases hk : s.routes[k]? with
  | none => simpa [hk] using h
  | some r =>
    by_cases hnk : n = k
    · exact hf r (by simpa [hk, hnk] using h)
    · simpa [hk, hnk] using h

theorem vacateRoute_stands {m : Option Nat} (n : Nat) {s : State} (hs : Stands (fun _ => m) s) :
    Stands (fun _ => m) (vacateRoute n s) :=
  (standsFor m).endRun n ((standsFor m).cutQueue n
    (hs.cleared (State.listening_of_cleared n _ fun _ h => absurd h Bool.false_ne_true) rfl))

/-- R138: whatever the stack was, it is built again for the route that listens. -/
theorem listeningChanged_stands {m : Option Nat} {s : State} (hs : Stands (fun _ => m) s) :
    Stands State.listening (listeningChanged s) := by
  have h := standsFor m
  unfold listeningChanged
  extract_lets old ps a b c d e
  have hb : Stands (fun _ => m) b := h.releaseCarriers _ (h.removeAll _ _ (fun _ => mem_positionsFromTop) hs)
  have hc : c.oneListener := hb.1.mono fun n hn => by
    simp only [c, State.route, List.getD_eq_getElem?_getD, List.getElem?_map] at hn ⊢
    cases hr : b.routes[n]? with
    | none => simpa [hr] using hn
    | some r => simpa [hr] using hn
  have hd : Stands State.listening d := by
    have hlist : d.listening = c.listening := by
      unfold d
      split <;> rfl
    have hone : d.oneListener := by
      unfold d
      split <;> exact hc
    refine ⟨hone, hlist ▸ ?_⟩
    unfold d
    split
    · rename_i n hn
      exact ⟨by simp, fun x hx => by cases hx; rfl, List.pairwise_singleton _ _, by simp [hn]⟩
    · rename_i hn
      exact ⟨by simp, fun x hx => (nomatch hx), .nil, by simp [hn]⟩
  have he : Stands State.listening e := by
    unfold e
    split
    · exact hd
    · exact standsNow.announceProgram hd
  exact standsNow.dueEval he

theorem tellController_stands {m : Option Nat} {s : State} (hs : Stands (fun _ => m) s) :
    Stands State.listening (tellController m s) := by
  unfold tellController
  split
  · rename_i hm
    exact standsNow.refreshBottom ⟨hs.1, hm.symm ▸ hs.2⟩
  · exact listeningChanged_stands hs

theorem applyStep_stands {m : Option Nat} (kind : ApplyKind) {s : State} (hs : Stands (fun _ => m) s) :
    Stands (fun _ => m) (applyStep kind s) := by
  have h := standsFor m
  unfold applyStep
  extract_lets ns x
  split
  · exact h.closeStep _ _ _ (foldl_keeps (fun _ n hb => vacateRoute_stands n hb) ns s hs)
  · exact h.closeStep _ _ _ (h.suspendAll _ ns hs)
  · exact h.closeStep _ _ _ (Engine.foldPairs _ h.resolveRoute _ _ hs)

theorem actApply_stands {s : State} (hs : Stands State.listening s) : Stands State.listening (actApply s) := by
  unfold actApply
  split
  · extract_lets found changed skipped _ a b _ c
    have ha : Stands (fun _ => s.listening) a :=
      applyStep_stands _ ((standsFor s.listening).rest s _ hs rfl rfl rfl rfl rfl)
    have hb : Stands State.listening b := standsNow.settle (tellController_stands ha)
    exact standsNow.rest b _ hb rfl rfl rfl rfl rfl
  · exact hs

/-- R110: the flag set on a route is cleared on every other one. -/
theorem takeListening_other {n k : Nat} {f : RouteFields} (s : State) (hf : f.listening ∧ f.program ≠ 0)
    (hk : k ≠ n) : ((takeListening n f s).route k).listening = false := by
  unfold takeListening
  rw [if_pos hf, State.route, List.getD_eq_getElem?_getD, List.getElem?_mapIdx]
  cases s.routes[k]? with
  | none => rfl
  | some r => simp [hk]

theorem written_oneListener {s : State} (n : Nat) (f : RouteFields) (hs : s.oneListener) :
    (takeListening n f (s.modRoute n (Route.written f))).oneListener := by
  by_cases hf : f.listening ∧ f.program ≠ 0
  · have only : ∀ k, ((takeListening n f (s.modRoute n (Route.written f))).route k).listening = true → k = n :=
      fun k hk => by
        by_contra hkn
        simp [takeListening_other _ hf hkn] at hk
    exact fun i j hi hj => (only i hi).trans (only j hj).symm
  · unfold takeListening
    rw [if_neg hf]
    refine hs.mono (State.listening_of_cleared n _ fun r hr => absurd ?_ hf)
    simpa [Route.written] using hr

theorem applyRoute_stands (n : Nat) (f : RouteFields) {s : State} (hs : Stands State.listening s) :
    Stands State.listening (applyRoute n f s) := by
  have h := standsFor s.listening
  unfold applyRoute
  extract_lets x
  have hw : Stands (fun _ => s.listening) (takeListening n f (s.modRoute n (Route.written f))) := by
    refine ⟨written_oneListener n f hs.1, ?_⟩
    rw [takeListening_ann]
    exact hs.2
  have hx : Stands (fun _ => s.listening) x.1 := by
    unfold x routeConsequence
    extract_lets watch t
    have ht : Stands (fun _ => s.listening) t := by
      unfold t
      split
      · exact h.cutQueue n hw
      · exact hw
    clear_value t
    have hr := h.resolvePair [] n ht
    split
    · dsimp only
      exact vacateRoute_stands n hw
    split
    · split
      · exact hr
      · dsimp only
        exact ht
    split
    · dsimp only
      exact h.suspendRoute _ n ht
    split
    · exact hr
    · dsimp only
      exact ht
  exact tellController_stands (h.closeStep _ _ _ hx)

theorem stackInner : Inner (Stands State.listening) where
  toWorks := standsNow
  tracker s t f hs _ := by cases t <;> exact hs
  exchange _ hs := hs
  act _ hs := actApply_stands hs
  applied _ n f hs _ := applyRoute_stands n f hs

theorem reset_stands : Stands State.listening State.reset := by
  have quiet : ∀ n, (State.reset.route n).listening = false := by
    intro n
    simp only [State.route, State.reset, List.getD_eq_getElem?_getD, List.getElem?_map]
    cases h : (List.range 18)[n]? <;> rfl
  refine ⟨fun m n hm => absurd hm (by simp [quiet]), by decide, fun e he => (nomatch he), .nil, ?_⟩
  exact iff_of_true rfl (by decide)

/-- Settles O46: entries leave the stack from above the bottom, a push outranks the top, and a change of listening
route builds the stack again; a live entry keeps its key, and takes a place only when no other has its key. -/
theorem stackStaysRising : Obligations.StackStaysRising := by
  refine ⟨fun s t hone hrises ht => ?_, fun s t hs ht => liveInner.step reset_liveKeysApart hs ht⟩
  have ⟨hone', hon⟩ := stackInner.step reset_stands ⟨hone, State.stackRises_iff.mp hrises⟩ ht
  exact ⟨hone', State.stackRises_iff.mpr hon⟩

end Sys2Proof.Machine
end

section
/-! SUPPORT. The part as a whole (O1 to O4): the state after each reset, and the queue of commands. -/

namespace Sys2Proof.Machine

/-! ### The reset state -/

theorem reset_poolShared : State.reset.PoolShared := .of_reset rfl

theorem reset_freePages : State.reset.freePages = List.range 384 :=
  List.filter_eq_self.mpr fun _ _ => rfl

theorem getD_replicate_none {α : Type} (k i : Nat) : (List.replicate k (none : Option α)).getD i none = none := by
  rw [List.getD_eq_getElem?_getD, List.getElem?_replicate]
  split <;> rfl

/-- Settles O1: every value is read off the reset state, and each invariant has its own lemma. -/
theorem resetState : Obligations.ResetState := by
  have hstack := State.stackRises_iff.mpr reset_stands.2
  refine ⟨rfl, rfl, fun l => by cases l <;> decide, fun t => by cases t <;> decide, rfl, rfl, rfl, rfl, rfl, rfl,
    rfl, reset_freePages, rfl, by decide, by decide, fun i => ?_, rfl, fun i => ?_, rfl, rfl, rfl, rfl, rfl, rfl, rfl,
    rfl, rfl, rfl, rfl, rfl, rfl, rfl, rfl, rfl, rfl, iff_of_true rfl (by decide), reset_linksCoherent, reset_mapsSound,
    reset_poolShared, rfl, reset_queuesFit, reset_stands.1, hstack, reset_liveKeysApart, reset_blocksFit, rfl, rfl⟩
  · exact getD_replicate_none _ i
  · exact getD_replicate_none _ i

/-- Settles O3: both reset commands are defined by the state they leave. -/
theorem resetCommands : Obligations.ResetCommands := fun _ => ⟨rfl, rfl⟩

/-! ### The queue of commands -/

/-- No command reads or changes the queue of commands. -/
theorem pendingEngine (p : List Instr) : Engine fun s => s.pending = p where
  routes _ _ hs _ := hs
  grant _ _ _ hs _ _ _ := hs
  refusal _ _ hs := hs
  write _ _ _ _ _ hs := hs
  packets _ _ hs := hs
  ann _ _ hs _ := hs
  tracker _ t _ hs := by cases t <;> exact hs
  sticky _ _ hs _ := hs
  raise _ _ _ hs := by
    unfold State.raiseAt
    dsimp only
    split <;> exact hs

theorem pendingKept (p : List Instr) : Commands fun s => s.pending = p where
  toEngine := pendingEngine p
  merge _ _ hs := hs
  marks _ _ hs _ := hs
  counters _ l _ hs _ := by cases l <;> exact hs
  act _ hs := (pendingEngine p).actApply (fun _ _ hs _ _ => hs) (fun _ _ hs => hs) hs
  due _ _ hs := hs
  decided _ _ hs := hs
  lead _ l _ hs _ := by cases l <;> exact hs
  other _ l _ hs _ _ := by cases l <;> exact hs
  free _ _ hs := hs
  undecide _ hs := hs
  port _ l _ hs _ _ := by cases l <;> exact hs
  clock _ _ hs := hs
  mgmt _ _ hs _ _ _ _ := hs
  answer _ _ _ _ hs _ _ := hs
  accept _ _ hs _ _ := hs
  queueRequest _ _ hs _ := hs
  trunk _ _ hs _ _ := hs
  written s n f _ hs := by unfold takeListening; split <;> exact hs

theorem exec_pending {s t : State} (c : Instr) (h : exec c s = .next t) : t.pending = s.pending := by
  refine (pendingKept s.pending).exec c ?_ rfl h
  cases c with
  | powerOnReset => intro t ht; cases ht; rfl
  | pinReset => intro t ht; cases ht; rfl
  | reset tag => rfl
  | status tag => exact fun _ h => h
  | writeSettings tag f => exact fun _ _ h => h
  | levelWatch tag => exact fun _ _ h => h
  | _ => trivial

/-- Settles O2: the step is defined by the front of the queue, and no command touches the rest. -/
theorem stepTakesFront : Obligations.StepTakesFront := by
  refine ⟨fun s c rest h => ?_, fun s h => ?_, fun c s t h => exec_pending c h⟩
  · rw [step, h]
  · rw [step, h]

/-! ### The trunk reset -/

theorem exec_reset_of_serves {s : State} {tag : Tag} (h : s.Serves { tag := tag, op := .reset }) :
    exec (.reset tag) s = .next (serveReset { tag := tag, op := .reset } s) :=
  serve_of_serves h

/-- A cell on the line at a trunk reset finishes whole (R164). -/
theorem detachLine_bytes (c : LineCell) : (detachLine c).bytes = c.bytes := by
  unfold detachLine
  split <;> rfl

/-- Settles O4: the trunk reset, its reply, and the notice into the emptied queue. -/
theorem trunkResetServed : Obligations.TrunkReset := by
  intro s tag hserves record restart
  refine ⟨_, exec_reset_of_serves hserves, rfl, rfl, rfl, rfl, rfl, rfl, rfl, rfl, rfl, rfl, ?mgmt, ?replies, rfl, rfl,
    rfl, rfl, rfl, rfl, ?line⟩
  case mgmt =>
    have hfront : (s.mgmt.requests.take 1).drop 1 = [] := by simp
    simp only [serveReset, resetNotice, State.raiseAt, answer, trunkReset, hfront, List.length_nil]
    rfl
  case replies =>
    have hrestart : BitVec.ofNat 8 (bit (selecting s) + 2 * bit false) = restart := by
      unfold restart selecting
      by_cases h : s.mgmt.selection.phase = .idle <;> simp [h, bit]
    rw [← hrestart]
    rfl
  case line =>
    show (s.trunk.line.map detachLine).map LineCell.bytes = _
    rw [Option.map_map]
    exact congrArg (s.trunk.line.map ·) (funext detachLine_bytes)

end Sys2Proof.Machine
end

section
/-! SUPPORT. The end of a measuring window (O12); READ, STEP, WRITE and unknown codes (O57, O58); an APPLY that is taken
(O39). -/

namespace Sys2Proof.Machine

/-! ### The measuring window -/

theorem trimOf_eq (sum : Nat) :
    trimOf sum =
      if (sum : Int) - 12288000 < -1280 then -1280
      else if 1279 < (sum : Int) - 12288000 then 1279 else (sum : Int) - 12288000 := by
  unfold trimOf
  omega

/-- R19: no period of a skip cycle is longer than its first, by the skip term. -/
theorem Link.period_zero (x : Link) : x.period 0 = (768000 + x.trimC).toNat := by
  have hf : x.trimF / 16 = 0 := by
    unfold Link.trimF Link.trimC
    omega
  simp [Link.period, skipTerm, framePeriod, hf]

theorem Link.measure_last {x : Link} {w : Window} (hw : x.window = some w) (hc : w.count = 15) (t : Nat) :
    x.measure t =
      { x with trim := trimOf (w.sum + (t - w.latest)), phase := 0, window := some (startWindow t) } := by
  unfold Link.measure
  rw [hw]
  exact if_neg (by omega)

/-- Settles O12: the sixteenth interval installs the trim, and the due time is set with its first period. -/
theorem windowInstallsTrim : Obligations.WindowInstallsTrim := by
  intro x w t hsync hw hc excess trim c
  have htrim : trim = trimOf (w.sum + (t - w.latest)) := (trimOf_eq _).symm
  rw [Link.timeTaken, if_pos hsync, Link.measure_last hw hc, ← htrim, Link.setDue, Link.period_zero]
  rfl

/-! ### READ and STEP -/

theorem tableOf_eq_none {b : Byte} (h : b.toNat = 0 ∨ 11 ≤ b.toNat) : tableOf b = none := by
  unfold tableOf
  split <;> first | rfl | omega

theorem exec_read_of_serves {s : State} {tag : Tag} {table index : Byte}
    (h : s.Serves { tag := tag, op := .read table index }) :
    exec (.read tag table index) s = .next (serveRead table index { tag := tag, op := .read table index } s) :=
  serve_of_serves h

theorem exec_step_of_serves {s : State} {tag : Tag} (h : s.Serves { tag := tag, op := .step }) :
    exec (.step tag) s =
      .next (readEntry s.mgmt.cursor.table s.mgmt.cursor.next { tag := tag, op := .step } s) :=
  serve_of_serves h

/-- The cursor and the selection record are shown in no entry. -/
theorem entryCells_cleared (s : State) (c : Cursor) (t : Table) (i : Nat) :
    entryCells (s.cleared c) t i = entryCells s t i := by
  cases t <;> rfl

theorem entryCells_setCursor (s : State) (k : Table) (j : Nat) (t : Table) (i : Nat) :
    entryCells (setCursor k j s) t i = entryCells s t i := by
  cases t <;> rfl

theorem readEntry_eq (t : Table) (i : Nat) (req : Request) (s : State) : readEntry t i req s = s.afterRead t i req := by
  unfold readEntry
  dsimp only
  rw [entryCells_setCursor]
  rfl

/-- Settles O57: the two refusals, and the read of an entry. -/
theorem readsAndSteps : Obligations.ReadsAndSteps := by
  refine fun s tag => ⟨fun table index hserves => ?_, fun hserves => ?_⟩
  · rw [exec_read_of_serves hserves, serveRead]
    refine ⟨fun hnone => ?_, fun t ht hi => ?_, fun t ht hi => ?_⟩
    · rw [tableOf_eq_none hnone]; rfl
    · rw [ht]
      dsimp only
      rw [if_pos hi]
      rfl
    · rw [ht]
      dsimp only
      rw [if_neg hi.not_ge, readEntry_eq]
  · rw [exec_step_of_serves hserves, readEntry_eq]
    rfl

/-! ### Refusals -/

theorem exec_write_of_serves {s : State} {tag : Tag} {table index : Byte}
    (h : s.Serves { tag := tag, op := .write table index }) :
    exec (.write tag table index) s = .next (serveWrite table index { tag := tag, op := .write table index } s) :=
  serve_of_serves h

theorem exec_unknownRequest_of_serves {s : State} {tag : Tag} {code : Byte}
    (h : s.Serves { tag := tag, op := .unknown code }) :
    exec (.unknownRequest tag code) s = .next (serveUnknown { tag := tag, op := .unknown code } s) :=
  serve_of_serves h

/-- Settles O58: the four refusals, each with the selection dropped. -/
theorem refusedRequests : Obligations.RefusedRequests := by
  refine fun s tag => ⟨fun table index hserves => ?_, fun code hserves => ?_⟩
  · rw [exec_write_of_serves hserves, serveWrite]
    refine ⟨fun hnone => ?_, fun t ht hi => ?_, fun t ht hi => ?_⟩
    · rw [tableOf_eq_none hnone]; rfl
    · rw [ht]
      dsimp only
      rw [if_pos hi]
      rfl
    · rw [ht]
      dsimp only
      rw [if_neg hi.not_ge, entryCells_setCursor, dropSelection_eq_cleared, entryCells_cleared]
      rfl
  · exact exec_unknownRequest_of_serves hserves

/-! ### APPLY -/

theorem exec_apply_of_serves {s : State} {tag : Tag} {c : Instr} {kind : ApplyKind} {action : Byte}
    (hc : (c, kind) ∈ [(Instr.applyRelease tag, ApplyKind.release), (.applySuspend tag, .suspend),
      (.applyEngage tag, .engage)])
    (h : s.Serves { tag := tag, op := .apply action }) (ha : applyOf action = some kind ∨ applyOf action = none) :
    exec c s = .next (serveApply action { tag := tag, op := .apply action } s) := by
  have row : ∀ k, k = kind → serveIf tag (isApply k) serveApplyOf s =
      .next (serveApply action { tag := tag, op := .apply action } s) := fun k hk =>
    serveIf_of_serves h (by simpa [isApply, hk] using ha)
  simp only [List.mem_cons, Prod.mk.injEq, List.not_mem_nil, or_false] at hc
  obtain ⟨rfl, rfl⟩ | ⟨rfl, rfl⟩ | ⟨rfl, rfl⟩ := hc
  · exact row .release rfl
  · exact row .suspend rfl
  · exact row .engage rfl

section Judged

variable {s : State} {action : Byte} {req : Request} (hp : s.mgmt.selection.phase = .toSet)
include hp

theorem serveApply_badValue (ha : applyOf action = none) :
    serveApply action req s = refuseApply req .badValue s := by
  rw [serveApply, if_neg (not_not_intro hp), ha]

theorem serveApply_level (ha : applyOf action = some .engage) (hw : s.ann.level = .watch) :
    serveApply action req s = refuseApply req .level s := by
  rw [serveApply, if_neg (not_not_intro hp), ha]
  exact if_pos ⟨rfl, hw⟩

theorem serveApply_accepted {kind : ApplyKind} (ha : applyOf action = some kind)
    (hr : kind = .engage → s.ann.level = .run) :
    serveApply action req s =
      (let t := { s with mgmt := { s.mgmt with held := some kind, applyDue := false } }
       if (s.link s.leadLink).synced then t else actApply t) := by
  have hlevel : ¬ (kind = .engage ∧ s.ann.level = .watch) := fun h => by
    have := hr h.1
    rw [h.2] at this
    cases this
  rw [serveApply, if_neg (not_not_intro hp), ha]
  exact if_neg hlevel

end Judged

theorem applyOf_eq_none {b : Byte} (h : 3 ≤ b.toNat) : applyOf b = none := by
  unfold applyOf
  split <;> first | rfl | omega

/-- A held APPLY that acts clears its mark, whatever it was. -/
theorem actApply_applyDue {s : State} (hne : s.mgmt.requests ≠ []) (k : ApplyKind) (d : Bool) :
    actApply { s with mgmt := { s.mgmt with held := some k, applyDue := d } } =
      actApply { s with mgmt := { s.mgmt with held := some k, applyDue := false } } := by
  unfold actApply
  dsimp only
  obtain ⟨req, rest, hr⟩ := List.exists_cons_of_ne_nil hne
  rw [hr]
  rfl

theorem State.Serves.requests_ne_nil {s : State} {req : Request} (h : s.Serves req) : s.mgmt.requests ≠ [] := by
  intro hnil
  have := h.1
  rw [hnil] at this
  cases this

/-- Settles O39: the two refusals of TO_SET, the APPLY that is held, and the one that acts at once. -/
theorem applyTaken : Obligations.ApplyTaken := by
  intro s tag action c kind hc hserves hphase x refused held
  refine ⟨fun hbad => ?bad, fun hk ha hwatch => ?level, fun ha hrun => ?accepted⟩
  case bad =>
    have hnone := applyOf_eq_none hbad
    show exec c s = _
    rw [exec_apply_of_serves hc hserves (.inr hnone), serveApply_badValue hphase hnone]
    rfl
  case level =>
    subst hk ha
    show exec c s = _
    rw [exec_apply_of_serves hc hserves (.inl rfl), serveApply_level hphase rfl hwatch]
    rfl
  case accepted =>
    rw [exec_apply_of_serves hc hserves (.inl ha), serveApply_accepted hphase ha hrun]
    refine ⟨fun hsynced => ?_, fun hsynced => ?_⟩
    · exact congrArg _ (if_pos hsynced)
    · have hacts := actApply_applyDue hserves.requests_ne_nil kind true
      exact congrArg _ ((if_neg (ne_true_of_eq_false hsynced)).trans hacts.symm)

end Sys2Proof.Machine
end

section
/-! SUPPORT. The egress arbiter (O53, O54, O55): the start and the end of a cell, and the round robin. -/

namespace Sys2Proof.Machine

/-! ### A cell starts -/

theorem exec_cellStart_idle {s : State}
    (h : s.trunk.line = none ∧ s.trunk.hold = false ∧ s.trunk.resetHeld = false) :
    exec .cellStart s = .next (startCell s) := by
  obtain ⟨hline, hhold, hreset⟩ := h
  show execCellStart s = _
  rw [execCellStart, hline, hhold, hreset]
  rfl

theorem exec_cellStart_busy {s : State}
    (h : ¬ (s.trunk.line = none ∧ s.trunk.hold = false ∧ s.trunk.resetHeld = false)) :
    exec .cellStart s = .next s := by
  refine if_neg fun hidle => h ?_
  simpa [and_assoc] using hidle

theorem startCell_notice {s : State} {x : Notice} {rest : List Notice} (hr : s.trunk.replies = [])
    (hn : s.trunk.notices = x :: rest) : startCell s = startNotice x s := by
  cases hf : s.trunk.resetFirst with
  | true => exact startCell_owed s hf hn
  | false => rw [startCell_chosen s (.inl hf), startChosen, hr, hn]

/-- Settles O53: the inputs, and the arbiter's order at a cell start point. -/
theorem cellStarts : Obligations.CellStarts := by
  intro s
  refine ⟨rfl, rfl, rfl, exec_cellStart_busy, fun hidle => ?_⟩
  rw [exec_cellStart_idle hidle]
  refine ⟨fun x rest hf hn => ?_, fun r rest hf hr => ?_, fun x rest hr hn => ?_, fun hr hn hnext => ?_,
    fun n i rest hr hn hnext hq => ?_⟩
  · rw [startCell_owed s hf hn]; rfl
  · rw [startCell_chosen s hf, startChosen, hr]; rfl
  · rw [startCell_notice hr hn]; rfl
  · rw [startCell_chosen s (.inr hn), startChosen, hr, hn, hnext]
  · rw [startCell_chosen s (.inr hn), startChosen, hr, hn, hnext]
    dsimp only
    rw [startRoute, hq]
    rfl

/-! ### A cell ends -/

theorem exec_cellFinish_of_line {s : State} {c : LineCell} (h : s.trunk.line = some c) :
    exec .cellFinish s = .next (finishOrigin c.origin { s with trunk := { s.trunk with line := none } }) := by
  show execCellFinish s = _
  rw [execCellFinish, h]

/-- What a change of a route record does is read off the record that stands there. -/
theorem State.modRoute_congr {s : State} {n : Nat} {f g : Route → Route}
    (h : ∀ r, s.routes[n]? = some r → f r = g r) : s.modRoute n f = s.modRoute n g := by
  have hroutes : s.routes.modify n f = s.routes.modify n g := by
    rw [List.modify_eq_set_getElem?, List.modify_eq_set_getElem?]
    cases hr : s.routes[n]? with
    | none => rfl
    | some r => exact congrArg (s.routes.set n) (h r hr)
  exact congrArg (fun rs => { s with routes := rs }) hroutes

theorem finishItem_cons (i : Item) (rest : List Item) :
    finishItem (i :: rest) = if i.started < i.cellCount then i :: rest else rest := by
  simp [finishItem, Item.unfinished]

/-- Settles O55: what the end of a cell does to the queue it came from. -/
theorem cellFinishes : Obligations.CellFinishes := by
  intro s idle
  refine ⟨fun hline => ?_, fun bytes r rest hline hr => ?_, fun bytes hline => ?_,
    fun bytes n i rest hline hq => ?_, fun bytes hline => ?_⟩
  · show execCellFinish s = _
    rw [execCellFinish, hline]
  · rw [exec_cellFinish_of_line hline, finishOrigin]
    dsimp only
    rw [hr]
    rfl
  · rw [exec_cellFinish_of_line hline, finishOrigin]
    dsimp only
    rw [List.drop_one]
  · rw [exec_cellFinish_of_line hline, finishOrigin]
    refine congrArg _ (State.modRoute_congr fun r hr => ?_)
    have hrq : r.queue = i :: rest := State.route_of_getElem? hr ▸ hq
    rw [hrq, finishItem_cons]
  · rw [exec_cellFinish_of_line hline]
    rfl

/-! ### The round robin -/

/-- R159: how many routes are looked at before route m. -/
def turnOf (pointer : Option Nat) (m : Nat) : Nat :=
  match pointer with
  | none => m
  | some p => (m + 16 - (p + 1) % 16) % 16

theorem searchOrder_length (pointer : Option Nat) : (searchOrder pointer).length = 16 := by
  cases pointer <;> simp [searchOrder]

theorem searchOrder_lt {pointer : Option Nat} {i : Nat} (h : i < (searchOrder pointer).length) :
    (searchOrder pointer)[i] < 16 := by
  rw [searchOrder_length] at h
  cases pointer with
  | none => simpa [searchOrder] using h
  | some p => simpa [searchOrder] using Nat.mod_lt _ (by decide)

/-- The order of the search is the order of the turns. -/
theorem turnOf_searchOrder {pointer : Option Nat} {i : Nat} (h : i < (searchOrder pointer).length) :
    turnOf pointer (searchOrder pointer)[i] = i := by
  have hi : i < 16 := searchOrder_length pointer ▸ h
  cases pointer with
  | none => simp [turnOf, searchOrder]
  | some p =>
    simp only [turnOf, searchOrder, List.getElem_map, List.getElem_range]
    omega

theorem turnOf_lt (pointer : Option Nat) {m : Nat} (h : m < 16) : turnOf pointer m < 16 := by
  cases pointer with
  | none => exact h
  | some p => exact Nat.mod_lt _ (by decide)

theorem searchOrder_turnOf (pointer : Option Nat) {m : Nat} (h : m < 16) :
    (searchOrder pointer)[turnOf pointer m]? = some m := by
  have hlt := turnOf_lt pointer h
  rw [List.getElem?_eq_getElem (by rwa [searchOrder_length])]
  cases pointer with
  | none => simp [turnOf, searchOrder]
  | some p =>
    simp only [turnOf, searchOrder, List.getElem_map, List.getElem_range, Option.some.injEq]
    omega

theorem channelBusy_eq_false_iff {s : State} {n channel : Nat} :
    channelBusy s n channel = false ↔
      ∀ k < 16, k ≠ n → ∀ x ∈ (s.route k).queue, 0 < x.started → x.channel ≠ channel := by
  simp [channelBusy, Item.begun, Nat.pos_iff_ne_zero]

theorem mayStart_iff {s : State} {m : Nat} :
    mayStart s m = true ↔ ∃ i rest, (s.route m).queue = i :: rest ∧ i.started < i.cellCount ∧
      (0 < i.started ∨ ∀ k < 16, k ≠ m → ∀ x ∈ (s.route k).queue, 0 < x.started → x.channel ≠ i.channel) := by
  unfold mayStart
  cases hq : (s.route m).queue with
  | nil => simp
  | cons i rest =>
    simp only [← channelBusy_eq_false_iff]
    simp [Item.unfinished, Item.begun, Nat.pos_iff_ne_zero]

/-- Settles O54: the search finds the route of lowest turn among those with a cell that may start. -/
theorem roundRobin : Obligations.RoundRobin := by
  intro s n rank ready
  have hready : ∀ m, ready m ↔ m < 16 ∧ mayStart s m = true := fun m => and_congr_right' mayStart_iff.symm
  have hrank : ∀ m, rank m = turnOf s.trunk.pointer m := fun _ => rfl
  rw [nextRoute, List.find?_eq_some_iff_getElem]
  simp only [hready, hrank]
  constructor
  · rintro ⟨hn, i, hi, rfl, hbefore⟩
    refine ⟨⟨searchOrder_lt hi, hn⟩, fun m ⟨hm, hstart⟩ => ?_⟩
    rw [turnOf_searchOrder hi]
    by_contra hlt
    have hm' := hbefore _ (Nat.not_le.mp hlt)
    have hget := searchOrder_turnOf s.trunk.pointer hm
    rw [List.getElem?_eq_some_iff] at hget
    obtain ⟨_, hget⟩ := hget
    simp [hget, hstart] at hm'
  · rintro ⟨⟨hn, hstart⟩, hleast⟩
    obtain ⟨hi, hget⟩ := List.getElem?_eq_some_iff.mp (searchOrder_turnOf s.trunk.pointer hn)
    refine ⟨hstart, _, hi, hget, fun j hj => ?_⟩
    have hjl := hj.trans hi
    rw [Bool.not_eq_true', ← Bool.not_eq_true]
    intro hj'
    have hle := hleast _ ⟨searchOrder_lt hjl, hj'⟩
    rw [turnOf_searchOrder hjl] at hle
    omega

end Sys2Proof.Machine
end

section
/-! SUPPORT. What the blocks behind the merge stage leave as it stands: the links, the merge stage, the role controller
and most of trunk and management unit; and what a release does to the links and the merge stage. -/

namespace Sys2Proof.Machine

/-! ### In front of the engine -/

/-- The blocks in front of the tracker heads stand: clock, links, merge stage, roles, and the model's own fields. -/
structure SamePorts (s t : State) : Prop where
  clock : t.clock = s.clock
  linkA : t.linkA = s.linkA
  linkB : t.linkB = s.linkB
  merge : t.merge = s.merge
  roles : t.roles = s.roles
  freeIndex : t.freeIndex = s.freeIndex
  pending : t.pending = s.pending

theorem SamePorts.refl (s : State) : SamePorts s s := ⟨rfl, rfl, rfl, rfl, rfl, rfl, rfl⟩

theorem SamePorts.link {s t : State} (h : SamePorts s t) (l : LinkId) : t.link l = s.link l := by
  cases l
  · exact h.linkA
  · exact h.linkB

theorem SamePorts.leadLink {s t : State} (h : SamePorts s t) : t.leadLink = s.leadLink := by
  unfold State.leadLink
  rw [h.linkA]

theorem SamePorts.lastFn {s t : State} (h : SamePorts s t) : t.lastFn = s.lastFn := by
  unfold State.lastFn
  rw [h.merge]

theorem SamePorts.lastQ {s t : State} (h : SamePorts s t) : t.lastQ = s.lastQ := by
  unfold State.lastQ
  rw [h.merge]

/-- The management unit but for the sticky flags. -/
def Management.asked (m : Management) : Management := { m with sticky := .clear }

/-- The trunk but for the notices. -/
def Trunk.egress (x : Trunk) : Trunk := { x with notices := [], noticeNumber := 0 }

theorem Management.eq_of_asked {m k : Management} (h : m.asked = k.asked) : m = { k with sticky := m.sticky } := by
  cases m
  cases k
  simpa [Management.asked] using h

theorem Trunk.eq_of_egress {x y : Trunk} (h : x.egress = y.egress) :
    x = { y with notices := x.notices, noticeNumber := x.noticeNumber } := by
  cases x
  cases y
  simpa [Trunk.egress] using h

/-- Besides, of trunk and management unit only notices and sticky flags differ. -/
structure SameFront (s t : State) : Prop extends SamePorts s t where
  asked : t.mgmt.asked = s.mgmt.asked
  egress : t.trunk.egress = s.trunk.egress

theorem SameFront.refl (s : State) : SameFront s s := ⟨.refl s, rfl, rfl⟩

theorem portsEngine (s : State) : Engine (SamePorts s) where
  routes _ _ hs _ := ⟨hs.1, hs.2, hs.3, hs.4, hs.5, hs.6, hs.7⟩
  grant _ _ _ hs _ _ _ := ⟨hs.1, hs.2, hs.3, hs.4, hs.5, hs.6, hs.7⟩
  refusal _ _ hs := ⟨hs.1, hs.2, hs.3, hs.4, hs.5, hs.6, hs.7⟩
  write _ _ _ _ _ hs := ⟨hs.1, hs.2, hs.3, hs.4, hs.5, hs.6, hs.7⟩
  packets _ _ hs := ⟨hs.1, hs.2, hs.3, hs.4, hs.5, hs.6, hs.7⟩
  ann _ _ hs _ := ⟨hs.1, hs.2, hs.3, hs.4, hs.5, hs.6, hs.7⟩
  tracker _ t _ hs := by cases t <;> exact ⟨hs.1, hs.2, hs.3, hs.4, hs.5, hs.6, hs.7⟩
  sticky _ _ hs _ := ⟨hs.1, hs.2, hs.3, hs.4, hs.5, hs.6, hs.7⟩
  raise _ _ _ hs := by
    unfold State.raiseAt
    dsimp only
    split <;> exact ⟨hs.1, hs.2, hs.3, hs.4, hs.5, hs.6, hs.7⟩

theorem SamePorts.congr {s t u : State} (h : SamePorts s t) (hu : SamePorts t u) : SamePorts s u :=
  ⟨hu.1.trans h.1, hu.2.trans h.2, hu.3.trans h.3, hu.4.trans h.4, hu.5.trans h.5, hu.6.trans h.6, hu.7.trans h.7⟩

theorem frontEngine (s : State) : Engine (SameFront s) where
  routes _ rs hs hk := ⟨(portsEngine s).routes _ rs hs.1 hk, hs.2, hs.3⟩
  grant _ n lane hs h1 h2 h3 := ⟨(portsEngine s).grant _ n lane hs.1 h1 h2 h3, hs.2, hs.3⟩
  refusal _ k hs := ⟨(portsEngine s).refusal _ k hs.1, hs.2, hs.3⟩
  write _ g pages r cells hs := ⟨(portsEngine s).write _ g pages r cells hs.1, hs.2, hs.3⟩
  packets _ x hs := ⟨(portsEngine s).packets _ x hs.1, hs.2, hs.3⟩
  ann _ a hs hl := ⟨(portsEngine s).ann _ a hs.1 hl, hs.2, hs.3⟩
  tracker _ t f hs := by cases t <;> exact ⟨(portsEngine s).tracker _ _ f hs.1, hs.2, hs.3⟩
  sticky _ f hs hf := ⟨(portsEngine s).sticky _ f hs.1 hf, hs.2, hs.3⟩
  raise _ fn b hs := by
    refine ⟨(portsEngine s).raise _ fn b hs.1, ?_, ?_⟩
    · unfold State.raiseAt
      dsimp only
      split <;> exact hs.asked
    · unfold State.raiseAt
      dsimp only
      split <;> exact hs.egress

/-- R115: the action of a held APPLY reaches neither links nor merge stage nor roles. -/
theorem actApply_ports (s : State) : SamePorts s (actApply s) :=
  (portsEngine s).actApply (fun _ _ h _ _ => h.congr ⟨rfl, rfl, rfl, rfl, rfl, rfl, rfl⟩)
    (fun _ _ h => h.congr ⟨rfl, rfl, rfl, rfl, rfl, rfl, rfl⟩) (.refl s)

theorem actIfDue_ports (s : State) : SamePorts s (actIfDue s) := by
  unfold actIfDue
  split
  · exact actApply_ports s
  · exact .refl s

/-! ### The checks at a release -/

/-- The checks of the role controller write its records and raise notices. -/
theorem roleChecks_keeps {P : State → Prop} (raise : ∀ s fn b, P s → P (s.raiseAt fn b))
    (roles : ∀ s r, P s → P { s with roles := r }) (r : Fn) (q : Nat) {s : State} (hs : P s) :
    P (roleChecks r q s) := by
  have armed : ∀ {s}, P s → P (armedCheck r s) := fun {s} hs => by
    unfold armedCheck
    split
    · extract_lets _ t
      have ht : P t := roles s _ hs
      clear_value t
      split
      · exact roles _ _ ht
      · exact raise _ _ _ ht
    · exact hs
  have auto : ∀ {s}, P s → P (autoSwapCheck s) := fun {s} hs => by
    unfold autoSwapCheck
    extract_lets usable
    split
    · exact roles _ _ hs
    · exact hs
  have dwells : ∀ {s}, P s → P (followDwell r q s) := fun {s} hs => by
    unfold followDwell
    extract_lets poor _ t _ dwell u
    have ht : P t := by
      unfold t
      split
      · exact hs
      · exact roles s _ hs
    have hu : P u := roles t _ ht
    clear_value u t
    split
    · split
      · exact ht
      · exact raise _ _ _ (roles t _ ht)
    · split
      · exact roles _ _ hu
      · exact hu
    · exact roles t _ ht
  unfold roleChecks
  split
  · exact hs
  extract_lets t u
  have ht : P t := armed hs
  have hu : P u := auto ht
  clear_value u t
  split
  · exact ht
  split
  · exact hu
  · exact dwells hu

theorem Engine.placeUnits {P : State → Prop} (h : Engine P) (us : List Formed) {s : State} (hs : P s) :
    P (us.foldl Machine.placeUnit s) :=
  foldl_keeps (fun _ u hb => h.placeUnit u hb) us s hs

theorem Engine.assembleUnits {P : State → Prop} (h : Engine P) (us : List Formed) {s : State} (hs : P s) :
    P (us.foldl Machine.assembleUnit s) :=
  foldl_keeps (fun _ u hb => h.assembleUnit u hb) us s hs

/-- What the engine keeps, and the role controller's records with a held APPLY's mark, a release keeps behind the
merge stage. -/
theorem Engine.downstream {P : State → Prop} (h : Engine P)
    (due : ∀ s, P s → P (markDue s))
    (roles : ∀ s r, P s → P { s with roles := r }) (f : Frame) (fresh : Bool) {s : State} (hs : P s) :
    P (downstream f fresh s) := by
  unfold Machine.downstream
  extract_lets a x b c d
  have ha : P a := h.trackerHead _ f hs
  have hx : P x.1 := h.formUnits f ha
  have hb : P b := h.liveSweep _ _ (h.leadRecords f hx)
  have hc : P c := h.settle (h.decideOnAir _ (h.settle hb))
  have hd : P d := h.assembleUnits _ (h.placeUnits _ hc)
  have he : P (Machine.markDue (Machine.timeoutSweep f.fn d)) := due _ (h.timeoutSweep _ hd)
  exact roleChecks_keeps h.raise roles _ _ he

/-! ### Links and merge stage -/

/-- Links and merge stage stand. -/
structure SameMerge (s t : State) : Prop where
  linkA : t.linkA = s.linkA
  linkB : t.linkB = s.linkB
  merge : t.merge = s.merge

theorem SameMerge.link {s t : State} (h : SameMerge s t) (l : LinkId) : t.link l = s.link l := by
  cases l
  · exact h.linkA
  · exact h.linkB

theorem mergeEngine (s : State) : Engine (SameMerge s) where
  routes _ _ hs _ := ⟨hs.1, hs.2, hs.3⟩
  grant _ _ _ hs _ _ _ := ⟨hs.1, hs.2, hs.3⟩
  refusal _ _ hs := ⟨hs.1, hs.2, hs.3⟩
  write _ _ _ _ _ hs := ⟨hs.1, hs.2, hs.3⟩
  packets _ _ hs := ⟨hs.1, hs.2, hs.3⟩
  ann _ _ hs _ := ⟨hs.1, hs.2, hs.3⟩
  tracker _ t _ hs := by cases t <;> exact ⟨hs.1, hs.2, hs.3⟩
  sticky _ _ hs _ := ⟨hs.1, hs.2, hs.3⟩
  raise _ _ _ hs := by
    unfold State.raiseAt
    dsimp only
    split <;> exact ⟨hs.1, hs.2, hs.3⟩

theorem downstream_merge (f : Frame) (fresh : Bool) (s : State) : SameMerge s (downstream f fresh s) :=
  (mergeEngine s).downstream (fun _ hs => ⟨hs.1, hs.2, hs.3⟩) (fun _ _ hs => ⟨hs.1, hs.2, hs.3⟩) f fresh
    ⟨rfl, rfl, rfl⟩

/-! ### Held frames -/

/-- R55: counts the held frames that are gone, each on its link. -/
def countDropped (gone : List HeldFrame) (s : State) : State :=
  gone.foldl (fun s h => s.modLink h.link fun x => { x with mergeDropped := bump x.mergeDropped }) s

theorem dropHeld_eq (p : HeldFrame → Bool) (s : State) :
    dropHeld p s = countDropped (s.merge.held.filter p)
      { s with merge := { s.merge with held := s.merge.held.filter fun h => !p h } } := rfl

/-- The part but for the link entries. -/
def State.sansLinks (s : State) : State := { s with linkA := .reset .off, linkB := .reset .off }

theorem State.eq_of_sansLinks {s t : State} (h : t.sansLinks = s.sansLinks) :
    t = { s with linkA := t.linkA, linkB := t.linkB } := by
  cases s
  cases t
  simpa [State.sansLinks] using h

theorem State.modLink_sansLinks (s : State) (l : LinkId) (f : Link → Link) :
    (s.modLink l f).sansLinks = s.sansLinks := by
  cases l <;> rfl

theorem countDropped_sansLinks (gone : List HeldFrame) (s : State) :
    (countDropped gone s).sansLinks = s.sansLinks := by
  induction gone generalizing s with
  | nil => rfl
  | cons h rest ih => exact (ih _).trans (s.modLink_sansLinks _ _)

theorem countDropped_eq (gone : List HeldFrame) (s : State) :
    countDropped gone s =
      { s with linkA := (countDropped gone s).linkA, linkB := (countDropped gone s).linkB } :=
  State.eq_of_sansLinks (countDropped_sansLinks gone s)

theorem State.link_modLink_of_ne (s : State) {l k : LinkId} (h : l ≠ k) (f : Link → Link) :
    (s.modLink l f).link k = s.link k := by
  cases l <;> cases k <;> first | rfl | exact absurd rfl h

theorem countDropped_link (gone : List HeldFrame) (s : State) (l : LinkId) :
    (countDropped gone s).link l =
      { s.link l with
        mergeDropped := bump^[(gone.filter fun h => h.link = l).length] (s.link l).mergeDropped } := by
  induction gone generalizing s with
  | nil => rfl
  | cons h rest ih =>
    refine (ih (s.modLink h.link _)).trans ?_
    by_cases hl : h.link = l
    · subst hl
      rw [State.link_modLink]
      simp [Function.iterate_succ_apply]
    · rw [State.link_modLink_of_ne s hl]
      simp [hl]

theorem dropHeld_link (p : HeldFrame → Bool) (s : State) (l : LinkId) :
    (dropHeld p s).link l =
      { s.link l with
        mergeDropped := bump^[(s.merge.held.filter fun h => p h && h.link = l).length] (s.link l).mergeDropped } := by
  rw [dropHeld_eq, countDropped_link, List.filter_filter]
  simp only [Bool.and_comm]
  cases l <;> rfl

theorem dropHeld_merge (p : HeldFrame → Bool) (s : State) :
    (dropHeld p s).merge = { s.merge with held := s.merge.held.filter fun h => !p h } := by
  rw [dropHeld_eq, countDropped_eq]

theorem dropHeld_links (p : HeldFrame → Bool) (s : State) :
    dropHeld p s = { s with
      merge := (dropHeld p s).merge, linkA := (dropHeld p s).linkA, linkB := (dropHeld p s).linkB } := by
  rw [dropHeld_merge, dropHeld_eq, countDropped_eq]

end Sys2Proof.Machine
end

section
/-! SUPPORT. The merge stage (O19 to O22): the partner hold buffer, a merged release, the release of the front frame,
and the release test with the entry of a lead frame. -/

namespace Sys2Proof.Machine

/-! ### A release and the merge stage -/

/-- R59: the partner frame held for the front frame. -/
def partnerOf (s : State) (n : Frame) : Option HeldFrame := s.merge.held.find? fun h => h.frame.fn = n.fn

/-- R59: the released frame. -/
def composed (n : Frame) (partner : Option HeldFrame) : Frame :=
  match partner with
  | some h => mergeFrames n h.frame
  | none => n

/-- R55: the merge is counted on the link that held the partner frame. -/
def countMerged (partner : Option HeldFrame) (s : State) : State :=
  match partner with
  | some h => s.modLink h.link fun x => { x with merged := bump x.merged }
  | none => s

/-- The merge stage once the front frame has left it. -/
def MergeStage.released (m : MergeStage) (n : Frame) (rest : List Frame) (q : Nat) : MergeStage where
  waiting := rest
  held := m.held.filter fun h => h.frame.fn ≠ n.fn && !fnAfter h.frame.fn n.fn
  releasePoint := some n.fn
  lastRelease := some (n.fn, q)

/-- The part as the front frame goes downstream: links counted, merge stage set. -/
def popFront (n : Frame) (rest : List Frame) (s : State) : State :=
  let t := countMerged (partnerOf s n) s
  dropHeld (fun h => fnAfter h.frame.fn n.fn)
    { t with merge :=
      { t.merge with
        waiting := rest
        held := t.merge.held.filter fun h => h.frame.fn ≠ n.fn
        releasePoint := some n.fn
        lastRelease := some (n.fn, (composed n (partnerOf s n)).q) } }

theorem releaseFront_cons {s : State} {n : Frame} {rest : List Frame} (h : s.merge.waiting = n :: rest) :
    releaseFront s =
      downstream (composed n (partnerOf s n)) s.merge.releasePoint.isNone (popFront n rest s) := by
  unfold releaseFront
  rw [h]
  rfl

theorem countMerged_merge (o : Option HeldFrame) (s : State) : (countMerged o s).merge = s.merge := by
  cases o with
  | none => rfl
  | some h => exact State.modLink_merge _ _ _

theorem countMerged_sansLinks (o : Option HeldFrame) (s : State) : (countMerged o s).sansLinks = s.sansLinks := by
  cases o with
  | none => rfl
  | some h => exact s.modLink_sansLinks _ _

theorem countMerged_link (o : Option HeldFrame) (s : State) (l : LinkId) :
    (countMerged o s).link l =
      { s.link l with merged := if o.any (·.link = l) then bump (s.link l).merged else (s.link l).merged } := by
  cases o with
  | none => rfl
  | some h =>
    by_cases hl : h.link = l
    · subst hl
      simp [countMerged]
    · simp [countMerged, hl, State.link_modLink_of_ne s hl]

theorem popFront_merge (n : Frame) (rest : List Frame) (s : State) :
    (popFront n rest s).merge = s.merge.released n rest (composed n (partnerOf s n)).q := by
  simp only [popFront, dropHeld_merge, countMerged_merge, List.filter_filter, MergeStage.released]
  simp only [Bool.and_comm]

theorem popFront_link (n : Frame) (rest : List Frame) (s : State) (l : LinkId) :
    (popFront n rest s).link l =
      { s.link l with
        merged := if (partnerOf s n).any (·.link = l) then bump (s.link l).merged else (s.link l).merged
        mergeDropped := bump^[(s.merge.held.filter fun h =>
          h.frame.fn ≠ n.fn && fnAfter h.frame.fn n.fn && h.link = l).length] (s.link l).mergeDropped } := by
  have hpass : ∀ m, (State.link { countMerged (partnerOf s n) s with merge := m } l) =
      (countMerged (partnerOf s n) s).link l := fun m => by cases l <;> rfl
  have horder : ∀ h : HeldFrame, (fnAfter h.frame.fn n.fn && decide (h.link = l) && decide (h.frame.fn ≠ n.fn)) =
      (decide (h.frame.fn ≠ n.fn) && fnAfter h.frame.fn n.fn && decide (h.link = l)) := fun h => by
    rw [Bool.and_comm, Bool.and_assoc]
  rw [popFront, dropHeld_link, hpass, countMerged_link]
  dsimp only
  rw [countMerged_merge, List.filter_filter]
  simp only [horder]

theorem popFront_links (n : Frame) (rest : List Frame) (s : State) :
    popFront n rest s = { s with
      merge := (popFront n rest s).merge, linkA := (popFront n rest s).linkA, linkB := (popFront n rest s).linkB } := by
  have hcount := State.eq_of_sansLinks (countMerged_sansLinks (partnerOf s n) s)
  unfold popFront
  rw [dropHeld_links]
  dsimp only
  rw [hcount]

/-- R60: what comes to links and merge stage of a release. -/
theorem releaseFront_merge {s : State} {n : Frame} {rest : List Frame} (h : s.merge.waiting = n :: rest) :
    (releaseFront s).merge = s.merge.released n rest (composed n (partnerOf s n)).q := by
  rw [releaseFront_cons h, (downstream_merge _ _ _).merge, popFront_merge]

theorem releaseFront_link {s : State} {n : Frame} {rest : List Frame} (h : s.merge.waiting = n :: rest)
    (l : LinkId) : (releaseFront s).link l = (popFront n rest s).link l := by
  rw [releaseFront_cons h, (downstream_merge _ _ _).link]

theorem composed_q (n : Frame) (o : Option HeldFrame) :
    (composed n o).q = (match o with | some h => max n.q h.frame.q | none => n.q) := by
  cases o <;> rfl

/-- Settles O21: the front frame leaves with the merge stage set and the links counted, and what goes downstream
leaves both. -/
theorem releaseSetsPoint : Obligations.ReleaseSetsPoint := by
  intro s n rest hw partner t
  have hpartner : partner = partnerOf s n := rfl
  have hmerge : t.merge = s.merge.released n rest (composed n partner).q := releaseFront_merge hw
  have hlink : ∀ l, t.link l = (popFront n rest s).link l := releaseFront_link hw
  refine ⟨?merge, fun h hp => ?merged, fun l hl => ?same, fun l => ?dropped, popFront n rest s, ?down, ?links,
    fun l => ?entry⟩
  case merge => rw [hmerge, composed_q]; rfl
  case merged => rw [hlink, popFront_link, ← hpartner, hp]; simp
  case same =>
    rw [hlink, popFront_link, ← hpartner]
    have hany : partner.any (fun h => decide (h.link = l)) = false := by
      cases hp : partner with
      | none => rfl
      | some h => simpa using hl h hp
    rw [hany]
    rfl
  case dropped => rw [hlink, popFront_link]
  case down => exact releaseFront_cons hw
  case links =>
    have hm : t.merge = (popFront n rest s).merge := hmerge.trans (popFront_merge n rest s).symm
    rw [hm]
    exact popFront_links n rest s
  case entry => rw [hlink, popFront_link]

/-! ### Composition -/

theorem mergeCell_erased (n p : Cell) : (mergeCell n p).erased = (n.erased && p.erased) := by
  unfold mergeCell
  cases hn : n.erased <;> cases hp : p.erased <;> simp [hn, hp]

theorem mergeFrames_cell {n p : Frame} (hn : n.cells.length = 720) (hp : p.cells.length = 720) {k : Nat}
    (hk : k < 720) : (mergeFrames n p).cells.getD k blankCell =
      mergeCell (n.cells.getD k blankCell) (p.cells.getD k blankCell) := by
  have hkn : k < n.cells.length := hn ▸ hk
  have hkp : k < p.cells.length := hp ▸ hk
  simp [mergeFrames, List.getD_eq_getElem?_getD, hkn, hkp]

theorem mergeFrames_record (n p : Frame) {i : Nat} (hi : i < 4) :
    (mergeFrames n p).records.getD i none =
      mergeRecord (n.records.getD i none) (p.records.getD i none) := by
  simp [mergeFrames, List.getD_eq_getElem?_getD, hi]

/-- Settles O20: cell by cell and record by record. -/
theorem mergedFrame : Obligations.MergedFrame := by
  intro n p hn hp m
  refine ⟨rfl, rfl, ?length, by simp [m, mergeFrames], fun k hk => ?cell, fun k hk => ?erased, fun i hi r hr hok => ?good,
    fun i hi hbad => ?bad, rfl, rfl, Bool.or_eq_true_iff⟩
  case length => simp [m, mergeFrames, hn, hp]
  case cell =>
    rw [mergeFrames_cell hn hp hk]
    simp [mergeCell]
  case erased =>
    rw [mergeFrames_cell hn hp hk, mergeCell_erased]
    exact Bool.and_eq_true_iff
  case good => rw [mergeFrames_record n p hi, hr, mergeRecord, Option.any_some, if_pos hok]
  case bad =>
    have hany : (n.records.getD i none).any recordOk = false := by
      cases hr : n.records.getD i none with
      | none => rfl
      | some r => simpa using hbad r hr
    rw [mergeFrames_record n p hi, mergeRecord, hany]
    rfl

/-! ### The release test -/

/-- R58: a waiting frame is due. -/
def frameDue (w : Nat) (held : List HeldFrame) (newest n : Frame) : Bool :=
  held.any (fun h => h.frame.fn = n.fn) || w = 0 || w ≤ fnDist n.fn newest.fn

theorem releaseCount_eq {w : Nat} {waiting : List Frame} {held : List HeldFrame} {newest : Frame}
    (h : waiting.getLast? = some newest) :
    releaseCount w waiting held = (waiting.rdropWhile fun n => !frameDue w held newest n).length := by
  unfold releaseCount
  rw [h, List.rdropWhile, List.length_reverse]
  rfl

theorem releaseCount_nil (w : Nat) (held : List HeldFrame) : releaseCount w [] held = 0 := rfl

theorem frameDue_iff {w : Nat} {held : List HeldFrame} {newest n : Frame} :
    frameDue w held newest n = true ↔
      (∃ h ∈ held, h.frame.fn = n.fn) ∨ (1 ≤ w ∧ w ≤ fnDist n.fn newest.fn) ∨ w = 0 := by
  simp only [frameDue, Bool.or_eq_true, List.any_eq_true, decide_eq_true_eq]
  by_cases hw : w = 0
  · simp [hw]
  · have : 1 ≤ w := Nat.one_le_iff_ne_zero.mpr hw
    simp [hw, this]

theorem releaseCount_due (w : Nat) (waiting : List Frame) (held : List HeldFrame) (newest : Frame)
    (h : waiting.getLast? = some newest) :
    releaseCount w waiting held ≤ waiting.length ∧
      (∀ n ∈ waiting.drop (releaseCount w waiting held), frameDue w held newest n = false) ∧
      (∀ n, 0 < releaseCount w waiting held → waiting[releaseCount w waiting held - 1]? = some n →
        frameDue w held newest n = true) ∧
      (w = 0 → releaseCount w waiting held = waiting.length) := by
  rw [releaseCount_eq h]
  have hsplit := List.rdropWhile_append_rtakeWhile (p := fun n => !frameDue w held newest n) (l := waiting)
  have htail := fun x => List.mem_rtakeWhile_imp (p := fun n => !frameDue w held newest n) (l := waiting) (x := x)
  have hlast := List.rdropWhile_last_not (fun n => !frameDue w held newest n) waiting
  have hnone := List.rtakeWhile_eq_nil_iff (p := fun n => !frameDue w held newest n) (l := waiting)
  generalize waiting.rdropWhile (fun n => !frameDue w held newest n) = front at *
  generalize waiting.rtakeWhile (fun n => !frameDue w held newest n) = tail at *
  subst hsplit
  refine ⟨by simp, fun n hn => ?_, fun n hpos hn => ?_, fun hw => ?_⟩
  · rw [List.drop_left] at hn
    simpa using htail n hn
  · have hne : front ≠ [] := List.length_pos_iff.mp hpos
    rw [List.getElem?_append_left (Nat.sub_lt hpos Nat.one_pos), ← List.getLast?_eq_getElem?,
      List.getLast?_eq_some_getLast hne, Option.some.injEq] at hn
    simpa [hn] using hlast hne
  · have hdue : ∀ x, frameDue w held newest x = true := fun x => frameDue_iff.mpr (.inr (.inr hw))
    have : tail = [] := hnone.mpr fun _ => by simp [hdue]
    simp [this]

/-! ### Releases one after another -/

theorem releaseFront_waiting (s : State) : (releaseFront s).merge.waiting = s.merge.waiting.tail := by
  cases hw : s.merge.waiting with
  | nil => simp [releaseFront, hw]
  | cons n rest => rw [releaseFront_merge hw]; rfl

theorem releaseFront_point {s : State} {n : Frame} {rest : List Frame} (hw : s.merge.waiting = n :: rest) :
    (releaseFront s).merge.releasePoint = some n.fn := by
  rw [releaseFront_merge hw]
  rfl

theorem releaseMany_waiting (k : Nat) (s : State) :
    (releaseMany k s).merge.waiting = s.merge.waiting.drop k := by
  induction k generalizing s with
  | zero => rfl
  | succ k ih =>
    rw [releaseMany, ih, releaseFront_waiting, (actIfDue_ports s).merge, List.drop_tail]

/-- The release point is the FN of the frame released last. -/
theorem releaseMany_point (k : Nat) (s : State) (n : Frame) (h : s.merge.waiting[k]? = some n) :
    (releaseMany (k + 1) s).merge.releasePoint = some n.fn := by
  induction k generalizing s with
  | zero =>
    obtain ⟨rest, hw⟩ : ∃ rest, (actIfDue s).merge.waiting = n :: rest := by
      rw [(actIfDue_ports s).merge]
      cases hs : s.merge.waiting with
      | nil => simp [hs] at h
      | cons x rest =>
        rw [hs, List.getElem?_cons_zero, Option.some.injEq] at h
        exact ⟨rest, h ▸ rfl⟩
    exact releaseFront_point hw
  | succ k ih =>
    rw [releaseMany]
    refine ih _ ?_
    rw [releaseFront_waiting, (actIfDue_ports s).merge, ← h]
    simp

theorem releaseTest_nil {s : State} (h : s.merge.waiting = []) : releaseTest s = s := by
  rw [releaseTest, h, releaseCount_nil]
  rfl

/-! ### The entry of a lead frame -/

/-- The FN after which a lead frame is expected. -/
def newestFn (s : State) : Option Fn :=
  match s.merge.waiting.getLast? with
  | some x => some x.fn
  | none => s.merge.releasePoint

theorem leadEntry_none {l : LinkId} {f : Frame} {s : State} (h : newestFn s = none) :
    leadEntry l f s = enterWaiting s f := by
  show (match newestFn s with
    | none => enterWaiting s f
    | some e => _) = _
  rw [h]

theorem leadEntry_some {l : LinkId} {f : Frame} {s : State} {e : Fn} (h : newestFn s = some e) :
    leadEntry l f s =
      if fnAfter e f.fn then fillAndEnter e (fnDist e f.fn) f s
      else if atOrBefore s.merge.releasePoint f.fn then mergeLateFrame l s
      else placeHeld l f s := by
  show (match newestFn s with
    | none => _
    | some e => if fnAfter e f.fn then fillAndEnter e (fnDist e f.fn) f s
      else if atOrBefore s.merge.releasePoint f.fn then mergeLateFrame l s
      else placeHeld l f s) = _
  rw [h]

theorem substituteFrame_fills (n : Fn) (f : Frame) : Frame.Fills n f (substituteFrame n f.mux f.header) where
  fn := rfl
  carried := ⟨rfl, rfl⟩
  records := rfl
  cells := ⟨List.length_replicate, fun c hc => by rw [List.eq_of_mem_replicate hc]⟩
  mark := ⟨rfl, rfl⟩

/-- Settles O22: the test counts up to the last frame that is due, each release takes the front frame, and a lead
frame enters by its distance from the newest. -/
theorem releaseCount_spec : Obligations.ReleaseCount := by
  refine ⟨?test, ?entry, ?count⟩
  case test =>
    intro s k
    refine ⟨releaseMany_waiting _ s, fun hk => ?_, fun n hk hn => ?_⟩
    · show releaseMany k s = s
      rw [hk]
      rfl
    · obtain ⟨j, hj⟩ := Nat.exists_eq_succ_of_ne_zero hk.ne'
      rw [hj] at hn
      show (releaseMany k s).merge.releasePoint = _
      rw [hj]
      exact releaseMany_point j s n hn
  case entry =>
    intro s l f newest enter
    refine ⟨leadEntry_none, fun e he => ⟨fun hlo hhi => ?_, fun rp hafter hrp => ?_⟩⟩
    · have hafter : fnAfter e f.fn = true := by
        simp only [fnAfter, Bool.and_eq_true, decide_eq_true_eq]
        omega
      refine ⟨_, by simp, fun i x hx => ?_, (leadEntry_some he).trans (if_pos hafter)⟩
      rw [List.getElem?_map, Option.map_eq_some_iff] at hx
      obtain ⟨j, hj, rfl⟩ := hx
      obtain ⟨_, hj⟩ := List.getElem?_eq_some_iff.mp hj
      rw [List.getElem_range] at hj
      subst hj
      exact substituteFrame_fills _ f
    · have hentry := (leadEntry_some (l := l) (f := f) he).trans (if_neg (ne_true_of_eq_false hafter))
      have hbefore : atOrBefore s.merge.releasePoint f.fn = !fnAfter rp f.fn := by rw [hrp]; rfl
      rw [hbefore] at hentry
      refine ⟨fun h => ?_, fun h => ?_⟩
      · rw [hentry, h]
        rfl
      · rw [hentry, h]
        rfl
  case count =>
    intro w waiting held newest hnewest due k
    obtain ⟨hle, hlate, hlast, hall⟩ := releaseCount_due w waiting held newest hnewest
    refine ⟨hle, fun n hn hdue => ?_, fun n hpos hn => frameDue_iff.mp (hlast n hpos hn), hall⟩
    have hdue' := frameDue_iff.mpr hdue
    rw [hlate n hn] at hdue'
    cases hdue'

/-! ### The partner hold buffer -/

theorem insertHeld_eq (h : HeldFrame) (xs : List HeldFrame) :
    insertHeld h xs = xs.takeWhile (fun x => !fnAfter h.frame.fn x.frame.fn) ++ h ::
      xs.dropWhile fun x => !fnAfter h.frame.fn x.frame.fn := by
  induction xs with
  | nil => rfl
  | cons x rest ih =>
    unfold insertHeld
    cases hx : fnAfter h.frame.fn x.frame.fn with
    | true => simp [hx]
    | false => simp [hx, ih]

theorem Link.synced_iff {x : Link} : x.synced = true ↔ x.sync = .locked ∨ x.sync = .coast := by
  simp [Link.synced]

theorem atOrBefore_iff {s : State} {n : Fn} :
    atOrBefore s.merge.releasePoint n = true ↔
      ∃ rp, s.merge.releasePoint = some rp ∧ fnAfter rp n = false := by
  cases h : s.merge.releasePoint <;> simp [atOrBefore]

/-- R57: a full buffer loses its first frame. -/
def makeRoom (s : State) : State :=
  match s.merge.held with
  | x :: rest =>
    if 4 ≤ s.merge.held.length then
      { s with merge := { s.merge with held := rest } }.modLink x.link
        fun x => { x with mergeDropped := bump x.mergeDropped }
    else s
  | [] => s

theorem placeHeld_new {l : LinkId} {f : Frame} {s : State} (hl : atOrBefore s.merge.releasePoint f.fn = false)
    (hh : (s.merge.held.any fun h => h.frame.fn = f.fn) = false) :
    placeHeld l f s = releaseTest { makeRoom s with merge :=
      { (makeRoom s).merge with held := insertHeld { link := l, frame := f } (makeRoom s).merge.held } } :=
  (if_neg (ne_true_of_eq_false hl)).trans (if_neg (ne_true_of_eq_false hh))

theorem makeRoom_of_lt {s : State} (h : s.merge.held.length < 4) : makeRoom s = s := by
  unfold makeRoom
  split
  · exact if_neg h.not_ge
  · rfl

theorem makeRoom_of_full {s : State} {x : HeldFrame} {rest : List HeldFrame} (hx : s.merge.held = x :: rest)
    (hrest : rest.length = 3) :
    makeRoom s = { s with merge := { s.merge with held := rest } }.modLink x.link
      fun x => { x with mergeDropped := bump x.mergeDropped } := by
  have hfull : 4 ≤ (x :: rest).length := by simp [hrest]
  unfold makeRoom
  rw [hx]
  exact if_pos hfull

theorem placeHeld_free {l : LinkId} {f : Frame} {s : State} (hw : s.merge.waiting = [])
    (hl : atOrBefore s.merge.releasePoint f.fn = false)
    (hh : (s.merge.held.any fun h => h.frame.fn = f.fn) = false) (hroom : s.merge.held.length < 4) :
    placeHeld l f s =
      { s with merge := { s.merge with held := insertHeld { link := l, frame := f } s.merge.held } } := by
  rw [placeHeld_new hl hh, makeRoom_of_lt hroom]
  exact releaseTest_nil hw

theorem placeHeld_full {l : LinkId} {f : Frame} {s : State} (hw : s.merge.waiting = [])
    (hl : atOrBefore s.merge.releasePoint f.fn = false)
    (hh : (s.merge.held.any fun h => h.frame.fn = f.fn) = false) {x : HeldFrame} {rest : List HeldFrame}
    (hx : s.merge.held = x :: rest) (hrest : rest.length = 3) :
    placeHeld l f s =
      ({ s with merge := { s.merge with held := insertHeld { link := l, frame := f } rest } }).modLink x.link
        fun x => { x with mergeDropped := bump x.mergeDropped } := by
  rw [placeHeld_new hl hh, makeRoom_of_full hx hrest]
  refine (releaseTest_nil ?_).trans ?_
  · exact (congrArg MergeStage.waiting (State.modLink_merge _ x.link _)).trans hw
  · cases x.link <;> rfl

/-- Settles O19: the table of R57, row by row; with no waiting frame the release test does nothing. -/
theorem partnerHold : Obligations.PartnerHold := by
  refine ⟨?admission, ?table⟩
  case admission =>
    intro s l f lead admitted
    exact ⟨fun h => if_pos ⟨Link.synced_iff.mpr h.1, h.2⟩,
      fun h => if_neg fun hc => h ⟨Link.synced_iff.mp hc.1, hc.2⟩⟩
  case table =>
    intro s l f hw hlen t late held placed dropped
    have hlate : late ↔ atOrBefore s.merge.releasePoint f.fn = true := atOrBefore_iff.symm
    have hheld : held ↔ (s.merge.held.any fun h => h.frame.fn = f.fn) = true := by simp [held]
    have hplaced : ∀ xs, placed xs = insertHeld { link := l, frame := f } xs := fun xs =>
      (insertHeld_eq { link := l, frame := f } xs).symm
    rw [hlate, hheld, Bool.not_eq_true, Bool.not_eq_true]
    refine ⟨fun hl => if_pos hl, fun hl hh => ?_, fun hl hh hroom => ?_, fun hl hh x rest hx hrest => ?_⟩
    · exact (if_neg (ne_true_of_eq_false hl)).trans (if_pos hh)
    · rw [hplaced]
      exact placeHeld_free hw hl hh hroom
    · rw [hplaced]
      exact placeHeld_full hw hl hh hx hrest

end Sys2Proof.Machine
end

section
/-! SUPPORT. A notice that is queued stays queued, or its loss is flagged, through every event of frame time (R161). -/

namespace Sys2Proof.Machine

/-- A notice that meets q is in the queue, or a notice has been lost. -/
def State.HasNotice (q : Notice → Prop) (s : State) : Prop :=
  (∃ n ∈ s.trunk.notices, q n) ∨ s.mgmt.sticky.noticeLost = true

theorem State.noticed_iff {s : State} {b : NoticeBody} : s.Noticed b ↔ s.HasNotice fun n => n.body = b := Iff.rfl

theorem State.HasNotice.congr {q : Notice → Prop} {s t : State} (h : s.HasNotice q)
    (hn : t.trunk.notices = s.trunk.notices) (hk : t.mgmt.sticky = s.mgmt.sticky) : t.HasNotice q := by
  unfold State.HasNotice
  rw [hn, hk]
  exact h

theorem State.HasNotice.raiseAt {q : Notice → Prop} {s : State} (h : s.HasNotice q) (fn : Option Fn)
    (b : NoticeBody) : (s.raiseAt fn b).HasNotice q := by
  unfold State.raiseAt
  dsimp only
  split
  · exact h.imp_left fun ⟨n, hn, hq⟩ => ⟨n, List.mem_append_left _ hn, hq⟩
  · exact .inr rfl

/-- R161: a notice that is raised is queued, or its loss is flagged. -/
theorem State.hasNotice_raiseAt (s : State) (fn : Option Fn) (b : NoticeBody) :
    (s.raiseAt fn b).HasNotice fun n => n.body = b ∧ n.fn = fn := by
  unfold State.raiseAt
  dsimp only
  split
  · exact .inl ⟨_, List.mem_append_right _ (List.mem_singleton_self _), rfl, rfl⟩
  · exact .inr rfl

theorem State.noticed_raiseAt (s : State) (fn : Option Fn) (b : NoticeBody) : (s.raiseAt fn b).Noticed b :=
  (s.hasNotice_raiseAt fn b).imp_left fun ⟨n, hn, hb, _⟩ => ⟨n, hn, hb⟩

theorem noticeEngine (q : Notice → Prop) : Engine (State.HasNotice q) where
  routes _ _ hs _ := hs
  grant _ _ _ hs _ _ _ := hs
  refusal _ _ hs := hs
  write _ _ _ _ _ hs := hs
  packets _ _ hs := hs
  ann _ _ hs _ := hs
  tracker _ t _ hs := by cases t <;> exact hs
  sticky s f hs hf := hs.imp_right fun hl => (hf _).1 hl
  raise _ fn b hs := hs.raiseAt fn b

theorem noticeKept (q : Notice → Prop) : Ports (State.HasNotice q) where
  toEngine := noticeEngine q
  merge _ _ hs := hs
  marks _ _ hs _ := hs
  counters _ l _ hs _ := by cases l <;> exact hs
  act _ hs := (noticeEngine q).actApply (fun _ _ hs _ hk => hs.congr rfl hk) (fun _ _ hs => hs) hs
  due _ _ hs := hs
  decided _ _ hs := hs
  lead _ l _ hs _ := by cases l <;> exact hs
  other _ l _ hs _ _ := by cases l <;> exact hs
  free _ _ hs := hs
  undecide _ hs := hs
  port _ l _ hs _ _ := by cases l <;> exact hs

end Sys2Proof.Machine
end

section
/-! SUPPORT. The checks of the role controller at a release (O29). -/

namespace Sys2Proof.Machine

section Checks

variable {s : State} {r : Fn} {q : Nat}

/-- R48: the link that holds a role other than LEAD is the other one. -/
theorem State.linkOf_other (h : s.oneLead) {v : Role} (hv : v ≠ .lead) :
    s.linkOf v = if (s.link (otherLink s.leadLink)).role = v then some (otherLink s.leadLink) else none := by
  have hlead : (s.link s.leadLink).role = .lead := (s.oneLead_leadLink h s.leadLink).mpr rfl
  unfold State.linkOf
  generalize s.leadLink = l at *
  cases l with
  | a =>
    have hne : s.linkA.role ≠ v := fun hc => hv (hc ▸ hlead)
    rw [if_neg hne]
    rfl
  | b =>
    have hne : s.linkB.role ≠ v := fun hc => hv (hc ▸ hlead)
    rw [if_neg hne]
    rfl

theorem partnerReady_iff (h : s.oneLead) :
    partnerReady s = true ↔ (s.link (otherLink s.leadLink)).role = .partner ∧
      (s.link (otherLink s.leadLink)).sync = .locked ∧
      (s.link (otherLink s.leadLink)).followedId = (s.link s.leadLink).followedId := by
  unfold partnerReady
  rw [State.linkOf_other h (by decide)]
  by_cases hp : (s.link (otherLink s.leadLink)).role = .partner
  · rw [if_pos hp]
    simp [hp]
  · rw [if_neg hp]
    simp [hp]

/-! ### Each check -/

theorem armedCheck_ready (ha : s.roles.arm = some r) (hp : partnerReady s = true) :
    armedCheck r s = { s with roles := { s.roles with arm := none, decision := some .armedSwap } } :=
  (if_pos ha).trans (if_pos hp)

/-- R66: the state as the armed check leaves it when it fails. -/
def armFails (r : Fn) (s : State) : State :=
  { s with roles := { s.roles with arm := none } }.raiseAt (some r)
    (.armFailed ((s.linkOf .partner).map fun l => (l, (s.link l).sync)))

theorem armedCheck_failed (ha : s.roles.arm = some r) (hp : ¬ partnerReady s = true) :
    armedCheck r s = armFails r s :=
  (if_pos ha).trans (if_neg hp)

theorem armedCheck_other (ha : s.roles.arm ≠ some r) : armedCheck r s = s := if_neg ha

/-- R64: the conditions of an auto-swap. -/
def autoSwaps (s : State) : Prop :=
  s.mgmt.settings.autoSwap = true ∧ (s.link s.leadLink).level = .poor ∧ partnerReady s = true ∧
    (s.linkOf .partner).any (fun l => (s.link l).level = .good || (s.link l).level = .weak) = true

theorem autoSwapCheck_swaps (h : autoSwaps s) : autoSwapCheck s = decide' .autoSwap s := if_pos h

theorem autoSwapCheck_stays (h : ¬ autoSwaps s) : autoSwapCheck s = s := if_neg h

theorem autoSwaps_iff (h : s.oneLead) :
    autoSwaps s ↔ s.mgmt.settings.autoSwap = true ∧ (s.link s.leadLink).level = .poor ∧
      ((s.link (otherLink s.leadLink)).role = .partner ∧ (s.link (otherLink s.leadLink)).sync = .locked ∧
        (s.link (otherLink s.leadLink)).followedId = (s.link s.leadLink).followedId) ∧
      ((s.link (otherLink s.leadLink)).level = .good ∨ (s.link (otherLink s.leadLink)).level = .weak) := by
  unfold autoSwaps
  rw [partnerReady_iff h, State.linkOf_other h (by decide)]
  by_cases hp : (s.link (otherLink s.leadLink)).role = .partner
  · rw [if_pos hp]
    simp
  · simp [hp]

/-- The follow dwell writes its own marks, and decides nothing but a following. -/
theorem followDwell_roles (r : Fn) (q : Nat) (s : State) :
    (followDwell r q s).roles.arm = s.roles.arm ∧
      ((followDwell r q s).roles.decision = s.roles.decision ∨
        (followDwell r q s).roles.decision = some .follow) := by
  unfold followDwell
  extract_lets poor _ t _ dwell u
  have ht : t.roles.arm = s.roles.arm ∧ t.roles.decision = s.roles.decision := by
    unfold t
    split <;> exact ⟨rfl, rfl⟩
  have hu : u.roles.arm = s.roles.arm ∧ u.roles.decision = s.roles.decision := ht
  clear_value u t
  split
  · split
    · exact ⟨ht.1, .inl ht.2⟩
    · rw [State.raiseAt_roles]
      exact ⟨ht.1, .inl ht.2⟩
  · split
    · exact ⟨hu.1, .inr rfl⟩
    · exact ⟨hu.1, .inl hu.2⟩
  · exact ⟨ht.1, .inl ht.2⟩

section Dwell

variable (hp : (s.link s.leadLink).level = .poor)
include hp

theorem followDwell_advise (hf : s.mgmt.settings.follow = .advise) {l : LinkId} {id : Id16}
    (hc : followCandidate false s = some (l, id)) :
    followDwell r q s =
      if s.roles.advised then s
      else
        { s with roles := { s.roles with advised := true } }.raiseAt (some r)
          (.followCandidate l (s.link l).followedId id (s.link l).quality q) := by
  unfold followDwell
  simp only [hp, if_true, hf, hc]

theorem followDwell_auto (hf : s.mgmt.settings.follow = .auto) (hc : (followCandidate false s).isSome = true) :
    followDwell r q s =
      { s with roles :=
        { s.roles with
          dwell := s.roles.dwell + 1
          decision := if s.mgmt.settings.dwell ≤ s.roles.dwell + 1 then some .follow else s.roles.decision } } := by
  obtain ⟨c, hc⟩ := Option.isSome_iff_exists.mp hc
  unfold followDwell
  simp only [hp, if_true, hf, hc]
  split
  · rfl
  · rfl

theorem followDwell_none (h : s.mgmt.settings.follow = .off ∨ followCandidate false s = none) :
    followDwell r q s = { s with roles := { s.roles with dwell := 0 } } := by
  unfold followDwell
  simp only [hp, if_true]
  obtain hf | hc := h
  · simp only [hf]
  · rw [hc]
    cases s.mgmt.settings.follow <;> rfl

end Dwell

theorem followDwell_fine (hp : (s.link s.leadLink).level ≠ .poor) :
    followDwell r q s = { s with roles := { s.roles with dwell := 0, advised := false } } := by
  unfold followDwell
  simp only [hp, if_false]
  cases s.mgmt.settings.follow <;> rfl

/-! ### The three checks in turn -/

theorem roleChecks_undecided (hd : s.roles.decision = none) (ha : s.roles.arm ≠ some r) (hs : ¬ autoSwaps s) :
    roleChecks r q s = followDwell r q s := by
  unfold roleChecks
  simp only [armedCheck_other ha, autoSwapCheck_stays hs, hd]
  rfl

theorem roleChecks_swaps (hd : s.roles.decision = none) (ha : s.roles.arm ≠ some r) (hs : autoSwaps s) :
    roleChecks r q s = decide' .autoSwap s := by
  unfold roleChecks
  simp only [armedCheck_other ha, autoSwapCheck_swaps hs, hd]
  rfl

theorem roleChecks_armed (hd : s.roles.decision = none) (ha : s.roles.arm = some r) (hp : partnerReady s = true) :
    roleChecks r q s = { s with roles := { s.roles with arm := none, decision := some .armedSwap } } := by
  unfold roleChecks
  simp only [armedCheck_ready ha hp, hd]
  rfl

theorem armFails_roles (r : Fn) (s : State) : (armFails r s).roles = { s.roles with arm := none } := by
  unfold armFails
  rw [State.raiseAt_roles]

theorem not_autoSwaps {u : State} (h : ¬ partnerReady u = true) : ¬ autoSwaps u := fun hs => h hs.2.2.1

theorem partnerReady_links (s t : State) :
    partnerReady t = partnerReady { s with linkA := t.linkA, linkB := t.linkB } := rfl

theorem armFails_partnerReady (r : Fn) (s : State) : partnerReady (armFails r s) = partnerReady s := by
  rw [partnerReady_links s, armFails, State.raiseAt_linkA, State.raiseAt_linkB]

theorem roleChecks_failed (hd : s.roles.decision = none) (ha : s.roles.arm = some r)
    (hp : ¬ partnerReady s = true) : roleChecks r q s = followDwell r q (armFails r s) := by
  have hnone : (armFails r s).roles.decision = none := by rw [armFails_roles]; exact hd
  have hs : ¬ autoSwaps (armFails r s) := not_autoSwaps (by rwa [armFails_partnerReady])
  unfold roleChecks
  simp only [armedCheck_failed ha hp, autoSwapCheck_stays hs, hd, hnone]
  rfl

theorem followDwell_notice (r : Fn) (q : Nat) {p : Notice → Prop} {u : State} (h : u.HasNotice p) :
    (followDwell r q u).HasNotice p :=
  (noticeKept p).followDwell r q h

end Checks

/-- Settles O29: the armed check, then the auto-swap check, then the follow dwell. -/
theorem releaseChecks : Obligations.ReleaseChecks := by
  intro s r q hlead hd lead p ready swap t
  have hready : ready ↔ partnerReady s = true := (partnerReady_iff hlead).symm
  have hswap : swap ↔ autoSwaps s := (autoSwaps_iff hlead).symm
  rw [hready, hswap]
  refine ⟨fun ha hp => roleChecks_armed hd ha hp, fun ha hp => ?failed, fun ha hs => roleChecks_swaps hd ha hs,
    fun ha hs => ?kept, fun ha hs => ?dwell⟩
  case failed =>
    have ht : t = followDwell r q (armFails r s) := roleChecks_failed hd ha hp
    obtain ⟨harm, hdec⟩ := followDwell_roles r q (armFails r s)
    rw [← ht, armFails_roles] at harm hdec
    refine ⟨harm, fun hc => ?_, ?_⟩
    · rw [hc] at hdec
      simp [hd] at hdec
    · rw [ht]
      refine followDwell_notice r q ?_
      have hbody : ((s.linkOf .partner).map fun l => (l, (s.link l).sync)) =
          if p.role = .partner then some (otherLink s.leadLink, p.sync) else none := by
        rw [State.linkOf_other hlead (by decide)]
        split <;> rfl
      rw [← hbody]
      exact State.noticed_raiseAt _ _ _
  case kept =>
    have ht : t = followDwell r q s := roleChecks_undecided hd ha hs
    obtain ⟨harm, hdec⟩ := followDwell_roles r q s
    rw [← ht] at harm hdec
    rw [hd] at hdec
    refine ⟨harm, fun hc => ?_, fun hc => ?_⟩
    · rw [hc] at hdec
      simp at hdec
    · rw [hc] at hdec
      simp at hdec
  case dwell =>
    intro poor candidate policy
    have ht : t = followDwell r q s := roleChecks_undecided hd ha hs
    refine ⟨fun hpoor hpol k id hc => ?_, fun hpoor hpol hc => ?_, fun h => ?_⟩
    · have hf : t = _ := ht.trans (followDwell_advise hpoor hpol hc)
      refine ⟨fun hadv => hf.trans (if_pos hadv), fun hadv => ?_⟩
      have hr := hf.trans (if_neg (ne_true_of_eq_false hadv))
      refine ⟨?_, ?_⟩
      · rw [hr, State.raiseAt_roles]
      · rw [hr]
        exact State.noticed_raiseAt _ _ _
    · rw [ht, followDwell_auto hpoor hpol hc, hd]
    · by_cases hpoor : poor
      · rw [ht, followDwell_none hpoor (h.resolve_left (not_not_intro hpoor)), if_pos hpoor]
      · rw [ht, followDwell_fine hpoor, if_neg hpoor]

end Sys2Proof.Machine
end

section
/-! SUPPORT. What the operations of a map tracker leave in it, and the notices they raise (O15, O16). -/

namespace Sys2Proof.Machine

/-! ### The trackers stand -/

/-- The blocks behind the trackers leave them as they are. -/
theorem trackersRestacked (x y : Tracker) : Restacks fun s => s.leadTracker = x ∧ s.scoutTracker = y where
  rest _ _ hs _ _ _ hl hc := ⟨hl.trans hs.1, hc.trans hs.2⟩
  route _ _ _ hs _ := hs
  packets _ _ hs _ := hs
  deliver _ _ _ _ _ hs _ _ := by rw [placeGroup_eq]; exact hs
  air _ _ hs _ _ _ := hs
  ann _ _ hs _ _ := hs
  push _ _ hs _ _ := hs
  enterLive _ _ _ hs _ _ := hs
  table _ _ hs _ := hs
  restack _ _ hs _ := hs

/-- Both trackers stand. -/
structure SameTrackers (s t : State) : Prop where
  lead : t.leadTracker = s.leadTracker
  scout : t.scoutTracker = s.scoutTracker

theorem SameTrackers.tracker {s t : State} (h : SameTrackers s t) (k : TrackerId) : t.tracker k = s.tracker k := by
  cases k
  · exact h.lead
  · exact h.scout

theorem actApply_trackers (s : State) : SameTrackers s (actApply s) :=
  have h := (trackersRestacked s.leadTracker s.scoutTracker).actApply ⟨rfl, rfl⟩
  ⟨h.1, h.2⟩

theorem settle_trackers (s : State) : SameTrackers s (settle s) :=
  have h := (trackersRestacked s.leadTracker s.scoutTracker).settle ⟨rfl, rfl⟩
  ⟨h.1, h.2⟩

theorem leadMapChanged_trackers (s : State) : SameTrackers s (leadMapChanged s) :=
  have h := (trackersRestacked s.leadTracker s.scoutTracker).leadMapChanged ⟨rfl, rfl⟩
  ⟨h.1, h.2⟩

theorem mapChanged_tracker (t k : TrackerId) (s : State) : (mapChanged t s).tracker k = s.tracker k := by
  cases t
  · exact (leadMapChanged_trackers s).tracker k
  · rfl

theorem mapChanged_notice (t : TrackerId) {q : Notice → Prop} {s : State} (h : s.HasNotice q) :
    (mapChanged t s).HasNotice q :=
  (noticeEngine q).mapChanged t h

/-! ### The feeding link -/

theorem State.feeder_links (s t : State) :
    t.feeder = ({ s with linkA := t.linkA, linkB := t.linkB } : State).feeder := rfl

theorem State.feeder_congr {s t : State} (ha : t.linkA = s.linkA) (hb : t.linkB = s.linkB) : t.feeder = s.feeder := by
  rw [State.feeder_links s, ha, hb]

theorem State.feeder_modTracker (s : State) (t : TrackerId) (f : Tracker → Tracker) :
    (s.modTracker t f).feeder = s.feeder :=
  State.feeder_congr (State.modTracker_linkA _ _ _) (State.modTracker_linkB _ _ _)

theorem State.tracker_raiseAt (s : State) (fn : Option Fn) (b : NoticeBody) (t : TrackerId) :
    (s.raiseAt fn b).tracker t = s.tracker t := by
  cases t
  · exact State.raiseAt_leadTracker _ _ _
  · exact State.raiseAt_scoutTracker _ _ _

/-! ### Maps installed, emptied and rejected -/

section Maps

variable (t : TrackerId) (c : Collection) (fn : Fn) (s : State)

theorem installMap_tracker (why : SwitchReason) :
    (installMap t c why fn s).tracker t = { s.tracker t with map := some (mapOf c), collection := none } := by
  unfold installMap
  rw [mapChanged_tracker, State.tracker_raiseAt, State.tracker_modTracker]

theorem installMap_noticed (why : SwitchReason) :
    (installMap t c why fn s).Noticed
      (.mapSwitch t (s.feeder t) why c.version ((s.tracker t).map.map MuxMap.version)) := by
  unfold installMap
  refine mapChanged_notice t ?_
  rw [State.feeder_modTracker]
  exact State.noticed_raiseAt _ _ _

theorem emptyMap_absent {why : LostReason} {at' : Option Fn} (h : (s.tracker t).map = none) :
    emptyMap t why at' s = s := by
  unfold emptyMap
  rw [h]

theorem emptyMap_present {why : LostReason} {at' : Option Fn} {m : MuxMap} (h : (s.tracker t).map = some m) :
    emptyMap t why at' s = mapChanged t
      ((s.modTracker t fun x => { x with map := none }).raiseAt at' (.mapLost t (s.feeder t) why m.version)) := by
  unfold emptyMap
  rw [h]
  dsimp only
  rw [State.feeder_modTracker]

theorem emptyMap_tracker (why : LostReason) (at' : Option Fn) :
    (emptyMap t why at' s).tracker t = { s.tracker t with map := none } := by
  cases h : (s.tracker t).map with
  | none =>
    rw [emptyMap_absent t s h, ← h]
  | some m => rw [emptyMap_present t s h, mapChanged_tracker, State.tracker_raiseAt, State.tracker_modTracker]

theorem emptyMap_noticed (why : LostReason) (at' : Option Fn) {m : MuxMap} (h : (s.tracker t).map = some m) :
    (emptyMap t why at' s).Noticed (.mapLost t (s.feeder t) why m.version) := by
  rw [emptyMap_present t s h]
  exact mapChanged_notice t (State.noticed_raiseAt _ _ _)

theorem emptyTracker_tracker (why : LostReason) :
    (emptyTracker t why s).tracker t = { s.tracker t with map := none, collection := none, target := none } := by
  unfold emptyTracker
  rw [emptyMap_tracker, State.tracker_modTracker]

theorem emptyTracker_noticed (why : LostReason) {m : MuxMap} (h : (s.tracker t).map = some m) :
    (emptyTracker t why s).Noticed (.mapLost t (s.feeder t) why m.version) := by
  have hn := emptyMap_noticed t (s.modTracker t fun x => { x with collection := none, target := none }) why
    (s.tracker t).lastFn (m := m) (by rw [State.tracker_modTracker]; exact h)
  rw [State.feeder_modTracker] at hn
  exact hn

theorem rejectMap_tracker (why : RejectReason) (v : Nat) (i : Option Nat) :
    (rejectMap t why v i fn s).tracker t = { s.tracker t with collection := none } := by
  unfold rejectMap
  rw [State.tracker_raiseAt]
  cases t <;> rfl

theorem rejectMap_noticed (why : RejectReason) (v : Nat) (i : Option Nat) :
    (rejectMap t why v i fn s).Noticed (.mapRejected t (s.feeder t) why v i) :=
  State.noticed_raiseAt _ _ _

theorem rejectMap_sticky (why : RejectReason) (v : Nat) (i : Option Nat) :
    (s.feeder t = .a → (rejectMap t why v i fn s).mgmt.sticky.mapRejectedA = true) ∧
      (s.feeder t = .b → (rejectMap t why v i fn s).mgmt.sticky.mapRejectedB = true) := by
  unfold rejectMap
  dsimp only
  have within := fun u b => State.raiseAt_within u (some fn) b
  refine ⟨fun hl => ?_, fun hl => ?_⟩
  · rw [hl]
    exact (within _ _).2.2.1 rfl
  · rw [hl]
    exact (within _ _).2.2.2.1 rfl

end Maps

/-! ### The switch frame -/

section Switch

variable {k : TrackerId} {f : Frame} {s : State}

theorem switchFrame_none (h : (s.tracker k).target = none) : switchFrame k f s = s := by
  unfold switchFrame
  rw [h]

theorem switchFrame_other {g : SwitchTarget} (h : (s.tracker k).target = some g) (hf : g.fn ≠ f.fn) :
    switchFrame k f s = s := by
  unfold switchFrame
  rw [h]
  exact if_neg hf

theorem clearTarget_tracker (k : TrackerId) (s : State) :
    (clearTarget k s).tracker k = { s.tracker k with target := none } := State.tracker_modTracker _ _ _

theorem switchFrame_ready {g : SwitchTarget} {c : Collection} (h : (s.tracker k).target = some g)
    (hf : g.fn = f.fn) (hc : (s.tracker k).collection = some c) (hd : c.complete = true)
    (hv : c.version = g.version) : switchFrame k f s = installMap k c .switched f.fn (clearTarget k s) := by
  unfold switchFrame
  rw [h]
  dsimp only
  rw [if_pos hf, clearTarget_tracker]
  dsimp only
  rw [hc]
  exact if_pos ⟨hd, hv⟩

theorem switchFrame_incomplete {g : SwitchTarget} (h : (s.tracker k).target = some g) (hf : g.fn = f.fn)
    (hc : ∀ c, (s.tracker k).collection = some c → ¬ (c.complete = true ∧ c.version = g.version)) :
    switchFrame k f s = emptyMap k .incomplete (some f.fn) (clearTarget k s) := by
  unfold switchFrame
  rw [h]
  dsimp only
  rw [if_pos hf, clearTarget_tracker]
  dsimp only
  cases hx : (s.tracker k).collection with
  | none => rfl
  | some c => exact if_neg (hc c hx)

end Switch

/-! ### The countdown -/

theorem State.modTracker_congr {s : State} {k : TrackerId} {f g : Tracker → Tracker}
    (h : f (s.tracker k) = g (s.tracker k)) : s.modTracker k f = s.modTracker k g := by
  cases k
  · exact congrArg (fun x => { s with leadTracker := x }) h
  · exact congrArg (fun x => { s with scoutTracker := x }) h

theorem filter_version_eq (x : Option Collection) (v : Nat) :
    (x.filter fun c => c.version = v) = if x.map Collection.version = some v then x else none := by
  cases x with
  | none => rfl
  | some c => simp [Option.filter]

theorem filter_version_ne (x : Option Collection) (v : Nat) :
    (x.filter fun c => c.version ≠ v) = if x.map Collection.version = some v then none else x := by
  cases x with
  | none => rfl
  | some c => by_cases h : c.version = v <;> simp [Option.filter, h]

theorem takeCountdown_pos {k : TrackerId} {f : Frame} {s : State} (h : f.header.countdown ≠ 0) :
    takeCountdown k f s = s.modTracker k fun x =>
      { x with
        target := some { fn := f.fn + BitVec.ofNat 12 f.header.countdown, version := f.header.nextVersion }
        collection :=
          if (x.collection.map Collection.version) = some f.header.nextVersion then x.collection else none } := by
  unfold takeCountdown
  dsimp only
  rw [if_pos h]
  exact State.modTracker_congr (by rw [filter_version_eq])

theorem takeCountdown_zero_target {k : TrackerId} {f : Frame} {s : State} {g : SwitchTarget}
    (h : f.header.countdown = 0) (ht : (s.tracker k).target = some g) :
    takeCountdown k f s = s.modTracker k fun x =>
      { x with
        target := none
        collection := if (x.collection.map Collection.version) = some g.version then none else x.collection } := by
  unfold takeCountdown
  dsimp only
  rw [if_neg (not_not_intro h)]
  refine State.modTracker_congr ?_
  rw [ht]
  dsimp only
  rw [filter_version_ne]

theorem takeCountdown_zero_none {k : TrackerId} {f : Frame} {s : State} (h : f.header.countdown = 0)
    (ht : (s.tracker k).target = none) : takeCountdown k f s = s := by
  have hid : takeCountdown k f s = s.modTracker k id := by
    unfold takeCountdown
    dsimp only
    rw [if_neg (not_not_intro h)]
    refine State.modTracker_congr ?_
    rw [ht]
    rfl
  rw [hid]
  cases k <;> rfl

/-- Settles O15: the switch frame and the countdown by the target, and the head of a frame that is real or not. -/
theorem switchAndCountdown : Obligations.SwitchAndCountdown := by
  intro s k f x t u
  refine ⟨fun g hg => ⟨switchFrame_other hg, fun c hf hc hd hv => ?ready, fun hf hc => ?incomplete, fun h => ?zero⟩,
    takeCountdown_pos, fun hnone => ⟨switchFrame_none hnone, fun h => takeCountdown_zero_none h hnone⟩, ?head⟩
  case ready =>
    have ht : t = _ := switchFrame_ready hg hf hc hd hv
    refine ⟨?_, ?_⟩
    · rw [ht, installMap_tracker, clearTarget_tracker]
    · have hn := installMap_noticed k c f.fn (clearTarget k s) .switched
      rw [clearTarget_tracker, clearTarget, State.feeder_modTracker] at hn
      rw [ht]
      exact hn
  case incomplete =>
    have ht : t = _ := switchFrame_incomplete hg hf hc
    refine ⟨?_, fun m hm => ?_⟩
    · rw [ht, emptyMap_tracker, clearTarget_tracker]
    · have hn := emptyMap_noticed k (clearTarget k s) .incomplete (some f.fn) (m := m)
        (by rw [clearTarget_tracker]; exact hm)
      rw [clearTarget, State.feeder_modTracker] at hn
      rw [ht]
      exact hn
  case zero => exact takeCountdown_zero_target h hg
  case head =>
    intro seen
    have htarget : (seen.tracker k).target = x.target := by rw [State.tracker_modTracker]
    have hsub : ∀ g : Frame, g.real = false → g.fn = f.fn → trackerHead k g s = switchFrame k f seen :=
      fun g hg hfn => by
        unfold trackerHead
        dsimp only
        rw [hg, hfn]
        unfold switchFrame
        rw [hfn]
        rfl
    refine ⟨fun hr => if_pos hr, fun hr g hg hfn => ⟨?_, fun y hy hne => ?_⟩⟩
    · rw [hsub g hg hfn, hsub f hr rfl]
    · rw [hsub f hr rfl]
      exact switchFrame_other (htarget.trans hy) hne

end Sys2Proof.Machine
end

section
/-! SUPPORT. The version check and the records of a frame (O16). -/

namespace Sys2Proof.Machine

/-! ### The version check -/

section Version

variable {k : TrackerId} {f : Frame} {s : State}

/-- R41: the collection that is complete and of a version. -/
def readyFor (x : Tracker) (v : Nat) : Option Collection := x.collection.filter fun c => c.complete && c.version = v

theorem readyFor_some {x : Tracker} {v : Nat} {c : Collection} (hc : x.collection = some c) (hd : c.complete = true)
    (hv : c.version = v) : readyFor x v = some c := by
  simp [readyFor, hc, hd, hv]

theorem readyFor_none {x : Tracker} {v : Nat}
    (h : ∀ c, x.collection = some c → ¬ (c.complete = true ∧ c.version = v)) : readyFor x v = none := by
  unfold readyFor
  rw [Option.filter_eq_none_iff]
  intro c hc
  simpa using h c hc

theorem versionCheck_same {m : MuxMap} (hm : (s.tracker k).map = some m) (hv : m.version = f.header.mapVersion) :
    versionCheck k f s = s := by
  unfold versionCheck
  dsimp only
  rw [hm]
  exact if_pos hv

theorem versionCheck_replaced {m : MuxMap} (hm : (s.tracker k).map = some m) (hv : m.version ≠ f.header.mapVersion)
    {c : Collection} (hc : readyFor (s.tracker k) f.header.mapVersion = some c) :
    versionCheck k f s = installMap k c .unannounced f.fn (clearTarget k s) := by
  unfold readyFor at hc
  unfold versionCheck
  dsimp only
  rw [hm, hc]
  exact if_neg hv

theorem versionCheck_lost {m : MuxMap} (hm : (s.tracker k).map = some m) (hv : m.version ≠ f.header.mapVersion)
    (hc : readyFor (s.tracker k) f.header.mapVersion = none) :
    versionCheck k f s = emptyMap k .unannounced (some f.fn) (s.modTracker k fun x =>
      { x with target := none, collection := x.collection.filter fun c => c.version = f.header.mapVersion }) := by
  unfold readyFor at hc
  unfold versionCheck
  dsimp only
  rw [hm, hc]
  exact if_neg hv

theorem versionCheck_acquired (hm : (s.tracker k).map = none) (ht : (s.tracker k).target = none) {c : Collection}
    (hc : readyFor (s.tracker k) f.header.mapVersion = some c) :
    versionCheck k f s = installMap k c .acquired f.fn s := by
  unfold readyFor at hc
  unfold versionCheck
  dsimp only
  rw [hm, hc]
  exact if_pos ht

theorem versionCheck_waits (hm : (s.tracker k).map = none)
    (h : (s.tracker k).target ≠ none ∨ readyFor (s.tracker k) f.header.mapVersion = none) :
    versionCheck k f s = s := by
  unfold readyFor at h
  unfold versionCheck
  dsimp only
  rw [hm]
  cases hc : (s.tracker k).collection.filter fun c => c.complete && c.version = f.header.mapVersion with
  | none => rfl
  | some c => exact if_neg (h.resolve_right (by rw [hc]; exact Option.some_ne_none c))

end Version

/-! ### The verdict on a collection -/

/-- R35: the consistency checks in their order, the first that fails giving the reason. -/
def consistencyVerdict (rs : List (List Byte)) : Verdict :=
  match (consistency rs).find? fun x => !x.1 with
  | some x => .rejected x.2 none
  | none => .complete

section Verdicts

variable {c : Collection} {sm : List Byte}

theorem judge_no_summary (h : c.summary = none) : judge c = .collecting := by
  unfold judge
  rw [h]

theorem judge_excess (h : c.summary = some sm) (hex : ∃ y ∈ c.records, summaryCount sm ≤ y.1) :
    ∃ y ∈ c.records, summaryCount sm ≤ y.1 ∧ judge c = .rejected .excessIndex (some y.1) := by
  cases hf : c.records.find? fun x => summaryCount sm ≤ x.1 with
  | none =>
    obtain ⟨y, hy, hle⟩ := hex
    have := List.find?_eq_none.mp hf y hy
    exact absurd (decide_eq_true hle) this
  | some y =>
    refine ⟨y, List.mem_of_find?_eq_some hf, by simpa using List.find?_some hf, ?_⟩
    unfold judge
    rw [h]
    dsimp only
    rw [hf]

variable (h : c.summary = some sm) (hin : ∀ y ∈ c.records, y.1 < summaryCount sm)
include h hin

theorem judge_within :
    judge c =
      if !((List.range (summaryCount sm)).all fun i => c.records.any fun x => x.1 = i) then .collecting
      else if mapSum (c.records.map Prod.snd) ≠ summarySum sm then .rejected .sum none
      else consistencyVerdict (c.records.map Prod.snd) := by
  have hf : c.records.find? (fun x => summaryCount sm ≤ x.1) = none :=
    List.find?_eq_none.mpr fun y hy => by simpa using hin y hy
  unfold judge
  rw [h]
  dsimp only
  rw [hf]
  rfl

theorem judge_missing (hmiss : ∃ i < summaryCount sm, ∀ y ∈ c.records, y.1 ≠ i) : judge c = .collecting := by
  obtain ⟨i, hi, hy⟩ := hmiss
  rw [judge_within h hin]
  refine if_pos ?_
  simp only [Bool.not_eq_true', ← Bool.not_eq_true, List.all_eq_true, List.any_eq_true, decide_eq_true_eq]
  intro hall
  obtain ⟨y, hmem, heq⟩ := hall i (List.mem_range.mpr hi)
  exact hy y hmem heq

variable (hall : ∀ i < summaryCount sm, ∃ y ∈ c.records, y.1 = i)
include hall

theorem judge_full :
    judge c =
      if mapSum (c.records.map Prod.snd) ≠ summarySum sm then .rejected .sum none
      else consistencyVerdict (c.records.map Prod.snd) := by
  rw [judge_within h hin]
  refine if_neg ?_
  simp only [Bool.not_eq_true', Bool.not_eq_false, List.all_eq_true, List.any_eq_true, decide_eq_true_eq]
  exact fun i hi => hall i (List.mem_range.mp hi)

theorem judge_badSum (hs : mapSum (c.records.map Prod.snd) ≠ summarySum sm) : judge c = .rejected .sum none := by
  rw [judge_full h hin hall]
  exact if_pos hs

theorem judge_consistent (hs : mapSum (c.records.map Prod.snd) = summarySum sm) :
    (judge c = .complete ↔ ∀ y ∈ consistency (c.records.map Prod.snd), y.1 = true) ∧
      (judge c ≠ .complete → ∃ y ∈ consistency (c.records.map Prod.snd),
        y.1 = false ∧ judge c = .rejected y.2 none) := by
  rw [judge_full h hin hall, if_neg (not_not_intro hs), consistencyVerdict]
  cases hf : (consistency (c.records.map Prod.snd)).find? fun x => !x.1 with
  | none =>
    have hgood := List.find?_eq_none.mp hf
    refine ⟨iff_of_true rfl fun y hy => by simpa using hgood y hy, fun hc => absurd rfl hc⟩
  | some y =>
    have hmem := List.mem_of_find?_eq_some hf
    have hbad : y.1 = false := by simpa using List.find?_some hf
    refine ⟨iff_of_false (fun hc => nomatch hc) fun hgood => ?_, fun _ => ⟨y, hmem, hbad, rfl⟩⟩
    rw [hgood y hmem] at hbad
    cases hbad

end Verdicts

/-! ### One record -/

section Records

variable {k : TrackerId} {f : Frame} {live : State → LiveRecord → State} {s : State} {r : List Byte}

theorem isFiled_iff {x : Tracker} {h : Header} :
    isFiled x h r = true ↔
      (recordNext r = false ∧ recordVersion r = h.mapVersion ∧ x.target = none ∧
        ∀ m, x.map = some m → m.version ≠ recordVersion r) ∨
      (recordNext r = true ∧ h.countdown ≠ 0 ∧ recordVersion r = h.nextVersion) := by
  unfold isFiled
  cases hn : recordNext r with
  | true => simp
  | false => cases hm : x.map <;> simp [and_assoc]

/-- What an offered record does when it is filed at i. -/
theorem fileRecord_new {i : Option Nat}
    (h : heldRecord (collectionFor (s.tracker k) (recordVersion r)) i = none) :
    fileRecord k f i r s = takeVerdict k f (withRecord (collectionFor (s.tracker k) (recordVersion r)) i r) s := by
  unfold fileRecord
  dsimp only
  rw [h]

theorem fileRecord_held {i : Option Nat} {y : List Byte}
    (h : heldRecord (collectionFor (s.tracker k) (recordVersion r)) i = some y) :
    fileRecord k f i r s =
      if y = r then s else rejectMap k .conflict (recordVersion r) (some (i.getD 127)) f.fn s := by
  unfold fileRecord
  dsimp only
  rw [h, collectionFor_version]

variable {c : Collection}

theorem takeVerdict_collecting (h : judge c = .collecting) :
    takeVerdict k f c s = s.modTracker k fun x => { x with collection := some { c with complete := false } } := by
  unfold takeVerdict
  rw [h]

theorem takeVerdict_rejected {why : RejectReason} {j : Option Nat} (h : judge c = .rejected why j) :
    takeVerdict k f c s = rejectMap k why c.version j f.fn s := by
  unfold takeVerdict
  rw [h]

theorem takeVerdict_installed (h : judge c = .complete)
    (hv : c.version = f.header.mapVersion ∧ (s.tracker k).target = none) :
    takeVerdict k f c s = installMap k c .acquired f.fn s := by
  unfold takeVerdict
  rw [h]
  exact if_pos hv

theorem takeVerdict_kept (h : judge c = .complete)
    (hv : ¬ (c.version = f.header.mapVersion ∧ (s.tracker k).target = none)) :
    takeVerdict k f c s = s.modTracker k fun x => { x with collection := some { c with complete := true } } := by
  unfold takeVerdict
  rw [h]
  exact if_neg hv

end Records

/-- R33 to R37: what the filing of a record at index i, or as the summary, comes to. -/
theorem fileRecord_placed (k : TrackerId) (f : Frame) (s : State) (r : List Byte) (i : Option Nat) :
    let after := fileRecord k f i r s
    let x := s.tracker k
    let c := collectionFor x (recordVersion r)
    let c' := withRecord c i r
    let rejected := fun (u : State) (why : RejectReason) (j : Option Nat) =>
      u.tracker k = { x with collection := none } ∧
      u.Noticed (.mapRejected k (s.feeder k) why (recordVersion r) j) ∧
      (s.feeder k = .a → u.mgmt.sticky.mapRejectedA = true) ∧
      (s.feeder k = .b → u.mgmt.sticky.mapRejectedB = true)
    (∀ h, heldRecord c i = some h → h = r → after = s) ∧
    (∀ h, heldRecord c i = some h → h ≠ r → rejected after .conflict (some (i.getD 127))) ∧
    (heldRecord c i = none →
      (judge c' = .collecting → after = s.modTracker k fun x =>
        { x with collection := some { c' with complete := false } }) ∧
      (∀ why j, judge c' = .rejected why j → rejected after why j) ∧
      (judge c' = .complete → (c'.version = f.header.mapVersion ∧ x.target = none) →
        after.tracker k = { x with map := some (mapOf c'), collection := none } ∧
        after.Noticed (.mapSwitch k (s.feeder k) .acquired c'.version (x.map.map MuxMap.version))) ∧
      (judge c' = .complete → ¬ (c'.version = f.header.mapVersion ∧ x.target = none) → after = s.modTracker k fun x =>
        { x with collection := some { c' with complete := true } })) := by
  intro after x c c' rejected
  have hversion : c'.version = recordVersion r := (withRecord_version c i r).trans (collectionFor_version x _)
  have hreject : ∀ why j, rejected (rejectMap k why (recordVersion r) j f.fn s) why j := fun why j =>
    ⟨rejectMap_tracker k f.fn s why _ j, rejectMap_noticed k f.fn s why _ j, (rejectMap_sticky k f.fn s why _ j).1,
      (rejectMap_sticky k f.fn s why _ j).2⟩
  refine ⟨fun y hy heq => ?_, fun y hy hne => ?_, fun hnone => ?_⟩
  · exact (fileRecord_held hy).trans (if_pos heq)
  · have hafter : after = _ := (fileRecord_held hy).trans (if_neg hne)
    rw [hafter]
    exact hreject _ _
  · have hafter : after = takeVerdict k f c' s := fileRecord_new hnone
    rw [hafter]
    refine ⟨takeVerdict_collecting, fun why j hj => ?_, fun hj hv => ?_, takeVerdict_kept⟩
    · rw [takeVerdict_rejected hj, hversion]
      exact hreject why j
    · rw [takeVerdict_installed hj hv]
      exact ⟨installMap_tracker k c' f.fn s .acquired, installMap_noticed k c' f.fn s .acquired⟩

/-- Settles O16: the version check by map and collection, each record by its sort, and the tests of a collection. -/
theorem versionCheck_spec : Obligations.VersionCheck := by
  intro s k f x t v
  refine ⟨fun m hm hv => versionCheck_same hm hv, fun m c hm hv hc hd hcv => ?replaced, fun m hm hv hc => ?lost,
    fun c hm ht hc hd hcv => ?acquired, fun hm h => ?waits, fun live r => ?record, fun c => ?judged⟩
  case replaced =>
    have ht : t = _ := versionCheck_replaced hm hv (readyFor_some hc hd hcv)
    refine ⟨?_, ?_⟩
    · rw [ht, installMap_tracker, clearTarget_tracker]
    · have hn := installMap_noticed k c f.fn (clearTarget k s) .unannounced
      rw [clearTarget_tracker, clearTarget, State.feeder_modTracker, hcv] at hn
      dsimp only at hn
      rw [hm] at hn
      rw [ht]
      exact hn
  case lost =>
    have ht : t = _ := versionCheck_lost hm hv (readyFor_none hc)
    refine ⟨?_, ?_⟩
    · rw [ht, emptyMap_tracker, State.tracker_modTracker, filter_version_eq]
    · rw [ht]
      have hn := emptyMap_noticed k (s.modTracker k fun x => { x with
        target := none, collection := x.collection.filter fun c => c.version = f.header.mapVersion })
        .unannounced (some f.fn) (m := m) (by rw [State.tracker_modTracker]; exact hm)
      rw [State.feeder_modTracker] at hn
      exact hn
  case acquired =>
    have ht' : t = _ := versionCheck_acquired hm ht (readyFor_some hc hd hcv)
    have hn := installMap_noticed k c f.fn s .acquired
    rw [hm, hcv] at hn
    refine ⟨?_, ?_⟩
    · rw [ht', installMap_tracker]
    · rw [ht']
      exact hn
  case waits => exact versionCheck_waits hm (h.imp_right readyFor_none)
  case record =>
    intro after filed opened c rejected placed
    have hfiled : filed ↔ isFiled x f.header r = true := isFiled_iff.symm
    have hcollection : c = collectionFor x (recordVersion r) := rfl
    have offered : ∀ i, after = offerRecord k f i r s → (¬ filed → after = s) ∧ (filed → placed i) := by
      intro i hafter
      refine ⟨fun hn => hafter.trans (if_neg (hfiled.not.mp hn)), fun hf => ?_⟩
      have hfile : after = fileRecord k f i r s := hafter.trans (if_pos (hfiled.mp hf))
      have hplaced := fileRecord_placed k f s r i
      rw [← hfile] at hplaced
      exact hplaced
    refine ⟨rfl, fun hok => if_neg (ne_true_of_eq_false hok), fun hok => ?_⟩
    have hsorted : after = match sortRecord r with
        | .ignored => s
        | .live => live s (liveOf r)
        | .filed i => offerRecord k f (some i) r s
        | .summary => offerRecord k f none r s := if_pos hok
    refine ⟨fun hs => ?_, fun hs => ?_, fun i hs => ?_, fun hs => ?_⟩
    · rw [hsorted, hs]
    · rw [hsorted, hs]
    · exact offered (some i) (by rw [hsorted, hs])
    · exact offered none (by rw [hsorted, hs])
  case judged =>
    refine ⟨judge_no_summary, fun sm h => ⟨judge_excess h, fun hin => ⟨judge_missing h hin, fun hall => ?_⟩⟩⟩
    exact ⟨judge_badSum h hin hall, judge_consistent h hin hall⟩

end Sys2Proof.Machine
end

section
/-! SUPPORT. Arrivals that are discarded, and the confirmation of a link (O5, O6). -/

namespace Sys2Proof.Machine

section Intake

variable {s : State} {l : LinkId} {time : Nat} {frame : List Byte} {marks : List Bool}

/-- The part as an arrival finds it: the reference time never runs back (log 4). -/
def heardAt (time : Nat) (s : State) : State := { s with clock := max s.clock time }

theorem heardAt_link (time : Nat) (s : State) (l : LinkId) : (heardAt time s).link l = s.link l := by
  cases l <;> rfl

theorem exec_arrival (hf : frame.length = frameBytes) (hm : marks.length = frameCells) :
    exec (.arrival l time frame marks) s =
      .next (finishFrame (judgeArrival l (max s.clock time) frame marks (heardAt time s))) :=
  if_pos ⟨hf, hm⟩

theorem finishFrame_of_quiescent (h : s.quiescent) : finishFrame s = s := by
  rw [finishFrame, finishEvent_of_quiescent h, settle_of_quiescent h]

theorem State.quiescent.congr {t : State} (h : s.quiescent) (hr : t.roles = s.roles) (ha : t.ann = s.ann) :
    t.quiescent := by
  unfold State.quiescent
  rw [hr, ha]
  exact h

theorem State.quiescent.modLink (h : s.quiescent) (f : Link → Link) : (s.modLink l f).quiescent :=
  h.congr (State.modLink_roles _ _ _) (State.modLink_ann _ _ _)

/-- What is judged without reaching another block ends the event. -/
theorem exec_arrival_of_quiescent (hf : frame.length = frameBytes) (hm : marks.length = frameCells) {t : State}
    (hj : judgeArrival l (max s.clock time) frame marks (heardAt time s) = t) (ht : t.quiescent) :
    exec (.arrival l time frame marks) s = .next t := by
  rw [exec_arrival hf hm, hj, finishFrame_of_quiescent ht]

/-! ### The judgement of a frame -/

variable {t : Nat}

theorem judgeArrival_off (h : (s.link l).role = .off) : judgeArrival l t frame marks s = s := if_pos h

theorem judgeArrival_invalid (h : (s.link l).role ≠ .off) (hv : frameValid frame = false) :
    judgeArrival l t frame marks s = s.modLink l fun x => { x with badHeaders := bump x.badHeaders } :=
  (if_neg h).trans (if_pos (by rw [hv]; rfl))

theorem judgeArrival_foreign (h : (s.link l).role ≠ .off) (hv : frameValid frame = true)
    (he : (s.link l).expectedId ≠ 0) (hne : wordAt frame 4 ≠ (s.link l).expectedId) :
    judgeArrival l t frame marks s = s.modLink l fun x => { x with foreign := bump x.foreign } :=
  (if_neg h).trans ((if_neg (by rw [hv]; decide)).trans (if_pos ⟨he, hne⟩))

/-- R2 to R4: a frame that the link hears is judged by its sync state. -/
theorem judgeArrival_heard (h : (s.link l).Hears frame) :
    judgeArrival l t frame marks s =
      if (s.link l).sync = .hunt then startConfirm l (decodeFrame frame marks) s
      else if (s.link l).sync = .confirm then confirmFrame l t (decodeFrame frame marks) s
      else syncedFrame l t (decodeFrame frame marks) s := by
  obtain ⟨hrole, hvalid, hid⟩ := h
  have hforeign : ¬ ((s.link l).expectedId ≠ 0 ∧ (decodeFrame frame marks).mux ≠ (s.link l).expectedId) := by
    rintro ⟨h1, h2⟩
    exact hid.elim h1 h2
  unfold judgeArrival
  dsimp only
  rw [if_neg hrole, if_neg (by rw [hvalid]; decide), if_neg hforeign]
  cases (s.link l).sync <;> rfl

theorem judgeArrival_hunt (h : (s.link l).Hears frame) (hs : (s.link l).sync = .hunt) :
    judgeArrival l t frame marks s = startConfirm l (decodeFrame frame marks) s := by
  rw [judgeArrival_heard h, if_pos hs]

theorem judgeArrival_confirm (h : (s.link l).Hears frame) (hs : (s.link l).sync = .confirm) :
    judgeArrival l t frame marks s = confirmFrame l t (decodeFrame frame marks) s := by
  rw [judgeArrival_heard h, hs]
  rfl

theorem judgeArrival_synced (h : (s.link l).Hears frame) (hs : (s.link l).synced = true) :
    judgeArrival l t frame marks s = syncedFrame l t (decodeFrame frame marks) s := by
  rw [judgeArrival_heard h]
  obtain hs | hs := Link.synced_iff.mp hs <;> rw [hs] <;> rfl

theorem frameValid_eq_false (h : frame.take 4 ≠ [0xB4, 0x6E, 0x1D, 0x93] ∨ wordAt frame 14 ≠ crc16 (frame.take 14)
    ∨ wordAt frame 4 = 0x0000 ∨ wordAt frame 4 = 0xFFFF) : frameValid frame = false := by
  rw [← Bool.not_eq_true]
  intro hv
  simp only [frameValid, Bool.and_eq_true, beq_iff_eq, bne_iff_ne] at hv
  obtain ⟨⟨⟨hsync, hcheck⟩, hzero⟩, hones⟩ := hv
  exact h.elim (· hsync) fun h => h.elim (· hcheck) fun h => h.elim hzero hones

theorem syncedFrame_late {f : Frame} (hmux : (s.link l).followedId = f.mux)
    (hd : 4089 ≤ fnDist (s.link l).expected f.fn) : syncedFrame l t f s = lateFrame l s := by
  unfold syncedFrame
  dsimp only
  rw [if_neg (not_not_intro hmux.symm), if_neg (by omega), if_neg (by omega), if_neg (by omega)]

end Intake

/-- Settles O5: each frame that is discarded changes its own counter. -/
theorem arrivalDiscarded : Obligations.ArrivalDiscarded := by
  intro s l time frame marks hf hm hq heard
  have hheard : heard = heardAt time s := rfl
  have hlink : (heardAt time s).link l = s.link l := heardAt_link time s l
  have hqh : (heardAt time s).quiescent := hq
  have counted : ∀ f : Link → Link, (heard.modLink l f).quiescent := fun f => hqh.modLink f
  refine ⟨fun hoff => ?_, fun hon hbad => ?_, fun hon hv he hne => ?_, fun hh hs hmux hd => ?_⟩
  · exact exec_arrival_of_quiescent hf hm (judgeArrival_off (hlink ▸ hoff)) hqh
  · exact exec_arrival_of_quiescent hf hm (judgeArrival_invalid (hlink ▸ hon) (frameValid_eq_false hbad)) (counted _)
  · exact exec_arrival_of_quiescent hf hm (judgeArrival_foreign (hlink ▸ hon) hv (hlink ▸ he) (hlink ▸ hne))
      (counted _)
  · refine exec_arrival_of_quiescent hf hm ((judgeArrival_synced (hlink ▸ hh) (hlink ▸ hs)).trans ?_)
      ((counted _).congr rfl rfl)
    exact syncedFrame_late (hlink ▸ hmux) (hlink ▸ hd)

/-! ### Confirmation -/

section Confirm

variable {s : State} {l : LinkId} {t : Nat} {f : Frame}

/-- R6: the link with its first confirming frame. -/
def firstConfirm (l : LinkId) (f : Frame) (s : State) : State :=
  s.modLink l fun x => { x with sync := .confirm, confirmCount := 1, lastFn := some f.fn, followedId := f.mux }

theorem firstConfirm_role (l k : LinkId) (f : Frame) (s : State) :
    ((firstConfirm l f s).link k).role = (s.link k).role := by
  cases l <;> cases k <;> rfl

theorem startConfirm_same (h : (s.link l).followedId = 0 ∨ (s.link l).followedId = f.mux) :
    startConfirm l f s = firstConfirm l f s := by
  refine if_neg ?_
  rintro ⟨h0, hne⟩
  exact h.elim h0 hne

section Moved

variable (h0 : (s.link l).followedId ≠ 0) (hne : (s.link l).followedId ≠ f.mux)
include h0 hne

theorem startConfirm_partner (hr : (s.link l).role = .partner) : startConfirm l f s = firstConfirm l f s := by
  have hrole : ((firstConfirm l f s).link l).role = .partner := (firstConfirm_role l l f s).trans hr
  unfold firstConfirm at hrole
  unfold startConfirm
  dsimp only
  rw [if_pos ⟨h0, hne⟩, hrole]
  rfl

theorem startConfirm_lead (hr : (s.link l).role = .lead) :
    startConfirm l f s = emptyTracker .lead .multiplex (actIfDue (firstConfirm l f s)) := by
  have hrole : ((firstConfirm l f s).link l).role = .lead := (firstConfirm_role l l f s).trans hr
  unfold firstConfirm at hrole
  unfold startConfirm
  dsimp only
  rw [if_pos ⟨h0, hne⟩, hrole]
  rfl

theorem startConfirm_scout (hr : (s.link l).role = .scout) :
    startConfirm l f s = emptyTracker .scout .multiplex (firstConfirm l f s) := by
  have hrole : ((firstConfirm l f s).link l).role = .scout := (firstConfirm_role l l f s).trans hr
  unfold firstConfirm at hrole
  unfold startConfirm
  dsimp only
  rw [if_pos ⟨h0, hne⟩, hrole]
  rfl

end Moved

theorem confirmFrame_counts (hmux : (s.link l).followedId = f.mux)
    (hfn : (s.link l).lastFn.map (· + 1) = some f.fn) (hc : (s.link l).confirmCount < 2) :
    confirmFrame l t f s =
      s.modLink l fun x => { x with confirmCount := x.confirmCount + 1, lastFn := some f.fn } :=
  (if_pos ⟨hmux.symm, hfn⟩).trans (if_neg hc.not_ge)

theorem confirmFrame_locks (hmux : (s.link l).followedId = f.mux)
    (hfn : (s.link l).lastFn.map (· + 1) = some f.fn) (hc : 2 ≤ (s.link l).confirmCount) :
    confirmFrame l t f s = enterLocked l t f s :=
  (if_pos ⟨hmux.symm, hfn⟩).trans (if_pos hc)

theorem confirmFrame_restarts
    (h : (s.link l).followedId ≠ f.mux ∨ (s.link l).lastFn.map (· + 1) ≠ some f.fn) :
    confirmFrame l t f s = startConfirm l f s := by
  refine if_neg ?_
  rintro ⟨hmux, hfn⟩
  exact h.elim (· hmux.symm) (· hfn)

/-- The link in HUNT, or in CONFIRM on another multiplex, starts a confirmation. -/
theorem judgeArrival_starts {frame : List Byte} {marks : List Bool} (h : (s.link l).Hears frame)
    (hs : (s.link l).sync = .hunt ∨ (s.link l).sync = .confirm)
    (hne : (s.link l).followedId ≠ (decodeFrame frame marks).mux) :
    judgeArrival l t frame marks s = startConfirm l (decodeFrame frame marks) s := by
  obtain hs | hs := hs
  · exact judgeArrival_hunt h hs
  · exact (judgeArrival_confirm h hs).trans (confirmFrame_restarts (.inl hne))

end Confirm

/-! ### An event that decides nothing -/

/-- With no handover decided, the end of an event is the evaluation still due. -/
theorem finishFrame_undecided {s : State} (h : s.roles.decision = none) : finishFrame s = settle s := by
  unfold finishFrame finishEvent
  rw [h]

theorem settle_ports (s : State) : SamePorts s (settle s) := (portsEngine s).settle (.refl s)

theorem emptyTracker_ports (k : TrackerId) (why : LostReason) (s : State) : SamePorts s (emptyTracker k why s) :=
  (portsEngine s).emptyTracker k why (.refl s)

theorem State.feeder_of_roles {s u : State} (h : ∀ m, (u.link m).role = (s.link m).role) : u.feeder = s.feeder := by
  have ha : u.linkA.role = s.linkA.role := h .a
  have hb : u.linkB.role = s.linkB.role := h .b
  funext k
  cases k <;> simp only [State.feeder, State.linkOf, State.leadLink, ha, hb]

theorem State.feeder_lead {s : State} (h : s.oneLead) {l : LinkId} (hr : (s.link l).role = .lead) :
    s.feeder .lead = l :=
  ((s.oneLead_leadLink h l).mp hr).symm

theorem State.feeder_scout {s : State} (h : s.oneLead) {l : LinkId} (hr : (s.link l).role = .scout) :
    s.feeder .scout = l := by
  unfold State.feeder
  rw [State.linkOf_of_role h hr]
  rfl

theorem actIfDue_trackers (s : State) : SameTrackers s (actIfDue s) := by
  unfold actIfDue
  split
  · exact actApply_trackers s
  · exact ⟨rfl, rfl⟩

/-- R43, R6: the tracker that the link feeds is emptied, and links and merge stage stand. -/
theorem confirmMoved {s u : State} {k : TrackerId} {l : LinkId} {f : Frame} (hq : s.quiescent)
    (hports : SamePorts (firstConfirm l f s) u) (htrackers : SameTrackers (firstConfirm l f s) u)
    (hfeeder : s.feeder k = l) :
    let t := finishFrame (emptyTracker k .multiplex u)
    t.link l = (firstConfirm l f s).link l ∧ t.link (otherLink l) = s.link (otherLink l) ∧
      (t.tracker k).map = none ∧ (t.tracker k).collection = none ∧ (t.tracker k).target = none ∧
      (∀ m, (s.tracker k).map = some m → t.Noticed (.mapLost k l .multiplex m.version)) := by
  intro t
  have hp : SamePorts (firstConfirm l f s) (emptyTracker k .multiplex u) := hports.congr (emptyTracker_ports k _ u)
  have hroles : (firstConfirm l f s).roles.decision = none := by
    rw [firstConfirm, State.modLink_roles]
    exact hq.1
  have ht : t = settle (emptyTracker k .multiplex u) := finishFrame_undecided (by rw [hp.roles]; exact hroles)
  have hpt : SamePorts (firstConfirm l f s) t := ht ▸ hp.congr (settle_ports _)
  have htk : t.tracker k = { u.tracker k with map := none, collection := none, target := none } := by
    rw [ht, (settle_trackers _).tracker, emptyTracker_tracker]
  have huk : u.tracker k = s.tracker k := by
    rw [htrackers.tracker]
    cases k
    · exact State.modLink_leadTracker _ _ _
    · exact State.modLink_scoutTracker _ _ _
  have huf : u.feeder k = l := by
    rw [State.feeder_congr hports.linkA hports.linkB, State.feeder_of_roles fun m => firstConfirm_role l m f s]
    exact hfeeder
  refine ⟨hpt.link l, ?_, by rw [htk], by rw [htk], by rw [htk], fun m hm => ?_⟩
  · rw [hpt.link, firstConfirm, State.link_modLink_other]
  · have hn := emptyTracker_noticed k u .multiplex (huk ▸ hm)
    rw [huf] at hn
    rw [ht]
    exact (noticeEngine _).settle hn

/-- Settles O6: the confirmation by sync state, FN and multiplex. -/
theorem confirmationCounts : Obligations.ConfirmationCounts := by
  intro s l time frame marks hf hm hq hears x f heard first
  have hlink : (heardAt time s).link l = s.link l := heardAt_link time s l
  have hhears : ((heardAt time s).link l).Hears frame := hlink ▸ hears
  have hqh : (heardAt time s).quiescent := hq
  have counted : ∀ g : Link → Link, (heard.modLink l g).quiescent := fun g => hqh.modLink g
  have hfirst : first = firstConfirm l f (heardAt time s) := rfl
  refine ⟨fun hs hid => ?hunt, fun hs hid hfn hc => ?counts, fun hs hid hfn => ?restarts,
    fun hlead hs h0 hne => ⟨fun hr => ?partner, fun k hk => ?moved⟩⟩
  case hunt =>
    refine exec_arrival_of_quiescent hf hm ((judgeArrival_hunt hhears (hlink ▸ hs)).trans ?_) (counted _)
    exact startConfirm_same (hlink ▸ hid)
  case counts =>
    refine exec_arrival_of_quiescent hf hm ((judgeArrival_confirm hhears (hlink ▸ hs)).trans ?_) (counted _)
    exact confirmFrame_counts (hlink ▸ hid) (hlink ▸ hfn) (hlink ▸ hc)
  case restarts =>
    refine exec_arrival_of_quiescent hf hm ((judgeArrival_confirm hhears (hlink ▸ hs)).trans ?_) (counted _)
    exact (confirmFrame_restarts (.inr (hlink ▸ hfn))).trans (startConfirm_same (.inr (hlink ▸ hid)))
  case partner =>
    refine exec_arrival_of_quiescent hf hm ((judgeArrival_starts hhears (hlink ▸ hs) (hlink ▸ hne)).trans ?_)
      (counted _)
    exact startConfirm_partner (hlink ▸ h0) (hlink ▸ hne) (hlink ▸ hr)
  case moved =>
    have hne' : ((heardAt time s).link l).followedId ≠ f.mux := hlink ▸ hne
    have hjudge := judgeArrival_starts (t := max s.clock time) hhears (hlink ▸ hs) hne'
    have hother : (heardAt time s).link (otherLink l) = s.link (otherLink l) := heardAt_link time s _
    have htracker : ∀ k, (heardAt time s).tracker k = s.tracker k := fun k => by cases k <;> rfl
    have hleads : (heardAt time s).oneLead := hlead
    have done : ∀ u, SamePorts (firstConfirm l f (heardAt time s)) u →
        SameTrackers (firstConfirm l f (heardAt time s)) u → (heardAt time s).feeder k = l →
        startConfirm l f (heardAt time s) = emptyTracker k .multiplex u →
        ∃ t, exec (.arrival l time frame marks) s = .next t ∧ t.link l = first.link l ∧
          t.link (otherLink l) = s.link (otherLink l) ∧ (t.tracker k).map = none ∧
          (t.tracker k).collection = none ∧ (t.tracker k).target = none ∧
          (∀ m, (s.tracker k).map = some m → t.Noticed (.mapLost k l .multiplex m.version)) := by
      intro u hp ht hfeeder hstart
      have hmoved := confirmMoved hqh hp ht hfeeder
      rw [hother, htracker] at hmoved
      exact ⟨_, by rw [exec_arrival hf hm, hjudge, hstart], hmoved⟩
    obtain ⟨rfl, hr⟩ | ⟨rfl, hr⟩ := hk
    · exact done _ (actIfDue_ports _) (actIfDue_trackers _) (State.feeder_lead hleads (hlink ▸ hr))
        (startConfirm_lead (hlink ▸ h0) hne' (hlink ▸ hr))
    · exact done _ (.refl _) ⟨rfl, rfl⟩ (State.feeder_scout hleads (hlink ▸ hr))
        (startConfirm_scout (hlink ▸ h0) hne' (hlink ▸ hr))

end Sys2Proof.Machine
end

section
/-! SUPPORT. A WRITE of the SETTINGS entry (O59): how it is judged, and what a new window or class set leads to. -/

namespace Sys2Proof.Machine

/-! ### The blocks of a following -/

namespace Engine

variable {P : State → Prop} (h : Engine P) {s : State}
include h

theorem followController (hs : P s) : P (followController s) := by
  unfold Machine.followController
  extract_lets aired a b c d
  have ha : P a := h.removeAll _ _ hs
  have hc : P c := h.setHeld _ (h.modAnn _ (h.unbindRoutes _ ha) (.inl rfl))
  have hd : P d := h.rereadBottom hc
  clear_value d
  split
  · exact h.announceProgram hd
  · exact hd

theorem followRoutes (before : State) (hs : P s) : P (followRoutes before s) :=
  h.closeStep _ _ _ (Engine.foldPairs _ h.followRoute _ _ hs)

/-- What comes behind the exchange of roles and trackers at a following. -/
theorem followed (before : State) (hs : P s) :
    P (Machine.rereadBottom (Machine.followRoutes before (Machine.followController s))).dueEval :=
  h.dueEval (h.rereadBottom (h.followRoutes before (h.followController hs)))

end Engine

/-! ### The merge stage at a handover -/

theorem clearMerge_merge (s : State) :
    (clearMerge s).merge = { s.merge with waiting := [], held := [], releasePoint := none } := by
  simp [clearMerge, dropHeld_merge]

theorem handover_waiting {s : State} (h : s.merge.waiting = []) (l : LinkId) (role : Role) (seamless : Bool)
    (why : RoleReason) : (handover l role seamless why s).merge.waiting = [] := by
  unfold handover roleNotice State.raise
  extract_lets t
  have ht : t.merge.waiting = [] := by
    simp only [t, clearMarks, setRole_merge]
    exact h
  split
  · rw [State.raiseAt_merge]
    exact ht
  · rw [State.raiseAt_merge, ((mergeEngine _).emptyTracker _ _ ⟨rfl, rfl, rfl⟩).merge, clearMerge_merge]

theorem follow_waiting (why : RoleReason) (s : State) : (follow why s).merge.waiting = [] := by
  unfold follow
  extract_lets l t u
  have hu : u.merge.waiting = [] := by
    simp only [u, roleNotice, State.raise, State.raiseAt_merge, clearMerge_merge]
  exact (congrArg MergeStage.waiting ((mergeEngine u).followed u ⟨rfl, rfl, rfl⟩).merge).trans hu

theorem finishEvent_waiting {s : State} (h : s.merge.waiting = []) : (finishEvent s).merge.waiting = [] := by
  unfold finishEvent
  split
  · exact h
  extract_lets _ t _ u v
  have hv : v.merge.waiting = [] := by
    unfold v
    split
    · split
      · exact (actApply_ports u).merge ▸ h
      · exact h
    · exact h
  have hswap : ∀ why, (swapRoles why v).merge.waiting = [] := fun why => by
    unfold swapRoles
    extract_lets l
    split
    · exact handover_waiting hv _ _ _ _
    · exact hv
  clear_value v
  split
  · exact hswap _
  · exact hswap _
  · split
    · exact follow_waiting _ v
    · exact hv

/-- R58: without a window every waiting frame is released. -/
theorem releaseTest_waiting_nil {s : State} (h : s.mgmt.settings.window = 0) : (releaseTest s).merge.waiting = [] := by
  unfold releaseTest
  rw [releaseMany_waiting]
  refine List.drop_eq_nil_of_le ?_
  cases hlast : s.merge.waiting.getLast? with
  | none => simp [List.getLast?_eq_none_iff.mp hlast]
  | some newest =>
    rw [h]
    exact ((releaseCount_due 0 s.merge.waiting s.merge.held newest hlast).2.2.2 rfl).ge

/-! ### The management unit through an event -/

/-- Settings, cursor and request queue are these, and no APPLY is held. -/
structure Unheld (st : Settings) (c : Cursor) (rq : List Request) (s : State) : Prop where
  held : s.mgmt.held = none
  settings : s.mgmt.settings = st
  cursor : s.mgmt.cursor = c
  requests : s.mgmt.requests = rq

theorem Unheld.congr {st : Settings} {c : Cursor} {rq : List Request} {s t : State} (h : Unheld st c rq s)
    (ht : t.mgmt = { s.mgmt with sticky := t.mgmt.sticky, applyDue := t.mgmt.applyDue }) : Unheld st c rq t :=
  ⟨by rw [ht]; exact h.held, by rw [ht]; exact h.settings, by rw [ht]; exact h.cursor, by rw [ht]; exact h.requests⟩

theorem unheldEngine (st : Settings) (c : Cursor) (rq : List Request) : Engine (Unheld st c rq) where
  routes _ _ hs _ := hs.congr rfl
  grant _ _ _ hs _ _ _ := hs.congr rfl
  refusal _ _ hs := hs.congr rfl
  write _ _ _ _ _ hs := hs.congr rfl
  packets _ _ hs := hs.congr rfl
  ann _ _ hs _ := hs.congr rfl
  tracker _ t _ hs := by cases t <;> exact hs.congr rfl
  sticky _ _ hs _ := hs.congr rfl
  raise _ _ _ hs := by
    unfold State.raiseAt
    dsimp only
    split <;> exact hs.congr rfl

/-- With no APPLY held, no event of frame time reaches settings, cursor or request queue. -/
theorem unheldKept (st : Settings) (c : Cursor) (rq : List Request) : Ports (Unheld st c rq) where
  toEngine := unheldEngine st c rq
  merge _ _ hs := hs.congr rfl
  marks _ _ hs _ := hs.congr rfl
  counters _ l _ hs _ := by cases l <;> exact hs.congr rfl
  act _ hs := by rw [actApply_idle hs.held]; exact hs
  due _ _ hs := hs.congr rfl
  decided _ _ hs := hs.congr rfl
  lead _ l _ hs _ := by cases l <;> exact hs.congr rfl
  other _ l _ hs _ _ := by cases l <;> exact hs.congr rfl
  free _ _ hs := hs.congr rfl
  undecide _ hs := hs.congr rfl
  port _ l _ hs _ _ := by cases l <;> exact hs.congr rfl

/-! ### The judgement -/

theorem exec_writeSettings_of_serves {s : State} {tag : Tag} {f : SettingsFields}
    (h : s.Serves { tag := tag, op := .writeSettings f }) :
    exec (.writeSettings tag f) s = .next (serveWriteSettings f { tag := tag, op := .writeSettings f } s) :=
  serve_of_serves h

theorem serveWriteSettings_bad {f : SettingsFields} (h : settingsOf f = none) (req : Request) (s : State) :
    serveWriteSettings f req s =
      replyAfter s req .badValue (fun s => entryCells s .settings 0) (s.cleared { table := .settings, index := 0 }) := by
  unfold serveWriteSettings
  rw [h]
  rfl

theorem serveWriteSettings_good {f : SettingsFields} {new : Settings} (h : settingsOf f = some new) (req : Request)
    (s : State) : serveWriteSettings f req s =
      replyAfter s req .ok (fun s => entryCells s .settings 0)
        (applySettings new (s.cleared { table := .settings, index := 0 })) := by
  unfold serveWriteSettings
  rw [h]
  rfl

/-- R172, clause by clause as the statement spells it. -/
def Settings.clampedFrom (f : SettingsFields) : Settings :=
  let within := fun (lo hi x : Nat) => if x < lo then lo else if hi < x then hi else x
  { warn := f.warn.toNat, drop := f.drop.toNat
    hysteresis := within 1 63 f.hysteresis.toNat, window := within 0 3 f.window.toNat
    autoSwap := f.autoSwap = 1
    follow := if f.follow = 0 then .off else if f.follow = 1 then .advise else .auto
    dwell := within 1 255 f.dwell.toNat
    announce := f.announce ||| 1, wake := f.wake
    coast := within 8 1000 f.coast.toNat, assembly := within 2 1000 f.assembly.toNat
    liveRefresh := within 10 1000 f.liveRefresh.toNat }

theorem clamp_eq_within {lo hi : Nat} (h : lo ≤ hi) (x : Nat) :
    clamp lo hi x = if x < lo then lo else if hi < x then hi else x := by
  unfold clamp
  split
  · omega
  · split <;> omega

theorem settingsOf_bad {f : SettingsFields}
    (h : 2 ≤ f.autoSwap.toNat ∨ f.follow = 3 ∨ f.warn.toNat ≤ f.drop.toNat) : settingsOf f = none := by
  have h3 : f.follow.toNat = 3 ↔ f.follow = 3 := by bv_omega
  exact if_pos (by rwa [h3])

theorem settingsOf_good {f : SettingsFields}
    (h : ¬ (2 ≤ f.autoSwap.toNat ∨ f.follow = 3 ∨ f.warn.toNat ≤ f.drop.toNat)) :
    settingsOf f = some (.clampedFrom f) := by
  have h0 : f.follow.toNat = 0 ↔ f.follow = 0 := by bv_omega
  have h1 : f.follow.toNat = 1 ↔ f.follow = 1 := by bv_omega
  have h3 : f.follow.toNat = 3 ↔ f.follow = 3 := by bv_omega
  have ha : f.autoSwap.toNat = 1 ↔ f.autoSwap = 1 := by bv_omega
  refine (if_neg (by rwa [h3])).trans ?_
  rw [clamp_eq_within (by omega), clamp_eq_within (by omega), clamp_eq_within (by omega), clamp_eq_within (by omega),
    clamp_eq_within (by omega), clamp_eq_within (by omega)]
  simp only [h0, h1, ha]
  rfl

/-! ### An accepted write -/

section Accepted

variable {s : State} (new : Settings)

/-- The part with the new settings, and dwell count and advised mark restarted where they must (R68). -/
def resettled (new : Settings) (s : State) : State :=
  restartDwell s.mgmt.settings new { s with mgmt := { s.mgmt with settings := new } }

theorem applySettings_same (hw : s.mgmt.settings.window = new.window)
    (ha : s.mgmt.settings.announce = new.announce) (hk : s.mgmt.settings.wake = new.wake) :
    applySettings new s = resettled new s := by
  simp [applySettings, resettled, hw, ha, hk]

theorem resettled_eq (new : Settings) (s : State) :
    resettled new s = { s with
      mgmt := { s.mgmt with settings := new }
      roles := if s.mgmt.settings.follow ≠ new.follow ∨ s.mgmt.settings.dwell ≠ new.dwell
        then { s.roles with dwell := 0, advised := false } else s.roles } := by
  unfold resettled restartDwell
  split <;> rfl

theorem State.quiescent.resettled (h : s.quiescent) : (resettled new s).quiescent := by
  rw [resettled_eq]
  refine ⟨?_, h.2⟩
  dsimp only
  split
  · exact h.1
  · exact h.1

/-- What every accepted write keeps, kept by the new settings' consequences. -/
theorem applySettings_keeps {P : State → Prop} (k : Events P) (hs : P (resettled new s)) :
    P (applySettings new s) := by
  unfold applySettings
  extract_lets old _ t u
  have hu : P u := by
    unfold u
    split
    · exact k.finishEvent (k.releaseTest hs)
    · exact hs
  clear_value u
  split
  · exact k.dueEval hu
  · exact hu

theorem applySettings_waiting (h : new.window = 0) (hw : s.mgmt.settings.window ≠ 0) :
    (applySettings new s).merge.waiting = [] := by
  unfold applySettings
  extract_lets old _ t u
  have hu : u.merge.waiting = [] := by
    have hne : old.window ≠ new.window := by rw [h]; exact hw
    have ht : t.mgmt.settings.window = 0 := by
      show (resettled new s).mgmt.settings.window = 0
      rw [resettled_eq]
      exact h
    unfold u
    rw [if_pos hne]
    exact finishEvent_waiting (releaseTest_waiting_nil ht)
  clear_value u
  split <;> exact hu

end Accepted

theorem settle_merge (s : State) : (settle s).merge = s.merge :=
  ((mergeEngine s).settle ⟨rfl, rfl, rfl⟩).merge

/-- Settles O59: by the judgement of the fields, and then by what the new settings lead to. -/
theorem settingsWrite : Obligations.SettingsWrite := by
  intro s tag f hq hserves req c old bad within new roles
  rw [exec_writeSettings_of_serves hserves]
  refine ⟨fun hbad => ?_, fun hgood => ⟨⟨_, rfl, ?_⟩, fun hw ha hk => ?_⟩⟩
  · rw [serveWriteSettings_bad (settingsOf_bad hbad), replyAfter_of_quiescent (hq.cleared _)]
    rfl
  · rw [serveWriteSettings_good (settingsOf_good hgood)]
    have hnew : Settings.clampedFrom f = new := rfl
    rw [hnew]
    obtain ⟨hfront, hheld, -⟩ := hserves
    let k := unheldKept new { table := .settings, index := 0 } s.mgmt.requests
    have hkept : Unheld new { table := .settings, index := 0 } s.mgmt.requests (settle (applySettings new c)) :=
      k.settle (applySettings_keeps new k.toEvents (by rw [resettled_eq]; exact ⟨hheld, rfl, rfl, rfl⟩))
    refine ⟨hkept.settings, rfl, ?_, hkept.cursor, fun h0 hold => ?_⟩
    · show (settle (applySettings new c)).mgmt.requests.drop 1 = _
      rw [hkept.requests, List.drop_one]
    · show (settle (applySettings new c)).merge.waiting = []
      rw [settle_merge]
      exact applySettings_waiting new h0 hold
  · have hact : applySettings (.clampedFrom f) (s.cleared { table := .settings, index := 0 }) = _ :=
      applySettings_same (.clampedFrom f) hw ha hk
    rw [serveWriteSettings_good (settingsOf_good hgood), hact,
      replyAfter_of_quiescent ((hq.cleared _).resettled _), resettled_eq]
    rfl

end Sys2Proof.Machine
end

section
/-! SUPPORT. Aborts (R125): what the aborts of some records leave in the assembler and on the routes. -/

namespace Sys2Proof.Machine

theorem getD_set_none {α : Type} (xs : List (Option α)) (i j : Nat) (v : Option α) :
    (xs.set i v).getD j none = if i = j ∧ i < xs.length then v else xs.getD j none := by
  rw [List.getD_eq_getElem?_getD, List.getD_eq_getElem?_getD, List.getElem?_set]
  by_cases hij : i = j
  · subst hij
    by_cases hi : i < xs.length
    · simp [hi]
    · simp [hi]
  · simp [hij]

theorem getD_set_freed {α : Type} (xs : List (Option α)) (i j : Nat) :
    (xs.set i none).getD j none = if i = j then none else xs.getD j none := by
  rw [getD_set_none]
  by_cases hij : i = j
  · subst hij
    by_cases hi : i < xs.length
    · simp [hi]
    · simp [hi]
  · simp [hij]

/-- The assembly in record i. -/
def State.assemblyAt (s : State) (i : Nat) : Option Assembly := s.packets.table.getD i none

/-- R125: route r after k of its assemblies have been aborted while the last release was that of fn. -/
def Route.charged (k : Nat) (why : AbortReason) (fn : Option Fn) (r : Route) : Route :=
  { r with
    aborted := bump^[k] r.aborted
    lastAbort := if k = 0 then r.lastAbort else some { reason := why, fn := fn } }

theorem Route.charged_zero (why : AbortReason) (fn : Option Fn) (r : Route) : r.charged 0 why fn = r := rfl

theorem Route.charged_charged (j k : Nat) (why : AbortReason) (fn : Option Fn) (r : Route) :
    (r.charged j why fn).charged k why fn = r.charged (j + k) why fn := by
  unfold Route.charged
  rw [Nat.add_comm, Function.iterate_add_apply]
  by_cases hk : k = 0
  · simp [hk]
  · simp [hk]

/-! ### One record -/

theorem abortRecord_of_none {i : Nat} {s : State} (h : s.assemblyAt i = none) (why : AbortReason) :
    abortRecord i why s = s := by
  unfold abortRecord
  rw [show s.packets.table.getD i none = none from h]

theorem abortRecord_of_some {i : Nat} {s : State} {a : Assembly} (h : s.assemblyAt i = some a)
    (why : AbortReason) : abortRecord i why s = s.afterAbort i a.route why := by
  unfold abortRecord
  rw [show s.packets.table.getD i none = some a from h]
  rfl

section AfterAbort

variable (s : State) (i n : Nat) (why : AbortReason)

theorem afterAbort_table (j : Nat) : (s.afterAbort i n why).assemblyAt j =
    if i = j then none else s.assemblyAt j := getD_set_freed _ i j

theorem afterAbort_order : (s.afterAbort i n why).packets.order = s.packets.order.filter (· ≠ i) := rfl

theorem afterAbort_route (m : Nat) (hm : m < s.routes.length) :
    (s.afterAbort i n why).route m = (s.route m).charged (if n = m then 1 else 0) why s.lastFn := by
  by_cases hnm : n = m
  · subst hnm
    rw [if_pos rfl]
    exact State.route_modRoute_same _ _ _ hm
  · rw [if_neg hnm, Route.charged_zero]
    exact State.route_modRoute_other _ _ hnm

theorem afterAbort_lastFn : (s.afterAbort i n why).lastFn = s.lastFn := rfl

theorem afterAbort_length : (s.afterAbort i n why).routes.length = s.routes.length := List.length_modify _ _ _

theorem afterAbort_rest : s.afterAbort i n why =
    { s with packets := (s.afterAbort i n why).packets, routes := (s.afterAbort i n why).routes } := rfl

end AfterAbort

/-! ### Several records -/

/-- The given records are aborted, one after another. -/
def abortAll (is : List Nat) (why : AbortReason) (s : State) : State := is.foldl (fun s i => abortRecord i why s) s

/-- The assemblies of route n among the given records. -/
def chargedTo (is : List Nat) (n : Nat) (s : State) : Nat :=
  (is.filter fun i => (s.assemblyAt i).any fun a => a.route = n).length

/-- What the aborts of the records `is` leave, told by the state before. -/
structure Aborted (is : List Nat) (why : AbortReason) (s t : State) : Prop where
  table : ∀ j, t.assemblyAt j = if j ∈ is then none else s.assemblyAt j
  order : t.packets.order = s.packets.order.filter fun i =>
    i ∉ is ∨ s.assemblyAt i = none
  route : ∀ n < s.routes.length, t.route n = (s.route n).charged (chargedTo is n s) why s.lastFn
  length : t.routes.length = s.routes.length
  rest : t = { s with packets := t.packets, routes := t.routes }

theorem Aborted.nil (why : AbortReason) (s : State) : Aborted [] why s s where
  table _ := by simp
  order := by simp
  route _ _ := rfl
  length := rfl
  rest := rfl

theorem abortAll_aborted (is : List Nat) (hd : is.Nodup) (why : AbortReason) (s : State) :
    Aborted is why s (abortAll is why s) := by
  induction is generalizing s with
  | nil => exact .nil why s
  | cons i rest ih =>
    obtain ⟨hi, hrest⟩ := List.nodup_cons.mp hd
    show Aborted (i :: rest) why s (abortAll rest why (abortRecord i why s))
    cases ha : s.assemblyAt i with
    | none =>
      rw [abortRecord_of_none ha]
      have h := ih hrest s
      refine ⟨fun j => ?_, ?_, fun n hn => ?_, h.length, h.rest⟩
      · rw [h.table]
        by_cases hij : j = i
        · subst hij
          rw [if_neg hi, if_pos List.mem_cons_self, ha]
        · simp [hij]
      · rw [h.order]
        refine List.filter_congr fun j _ => ?_
        by_cases hij : j = i
        · subst hij
          simp only [ha, or_true]
        · simp [hij]
      · rw [h.route n hn]
        simp [chargedTo, ha]
    | some a =>
      rw [abortRecord_of_some ha]
      have h := ih hrest (s.afterAbort i a.route why)
      have htable : ∀ j ∈ rest, (s.afterAbort i a.route why).assemblyAt j =
          s.assemblyAt j := fun j hj => by
        rw [afterAbort_table, if_neg (fun he : i = j => hi (he ▸ hj))]
      refine ⟨fun j => ?_, ?_, fun n hn => ?_, ?_, ?_⟩
      · rw [h.table, afterAbort_table]
        by_cases hij : i = j
        · subst hij
          simp
        · simp [hij, Ne.symm hij]
      · rw [h.order, afterAbort_order, List.filter_filter]
        refine List.filter_congr fun j _ => ?_
        rw [afterAbort_table]
        by_cases hij : j = i
        · subst hij
          simp [ha]
        · simp [hij, Ne.symm hij]
      · rw [h.route n (hn.trans_eq (afterAbort_length _ _ _ _).symm), afterAbort_route _ _ _ _ _ hn, afterAbort_lastFn,
          Route.charged_charged]
        have hcount : chargedTo rest n (s.afterAbort i a.route why) = chargedTo rest n s :=
          congrArg List.length (List.filter_congr fun j hj => by rw [htable j hj])
        rw [hcount]
        by_cases hr : a.route = n
        · simp [chargedTo, ha, hr, Nat.add_comm]
        · simp [chargedTo, ha, hr]
      · rw [h.length, afterAbort_length]
      · have := h.rest
        rw [afterAbort_rest] at this
        exact this

/-- The records whose assemblies satisfy p. -/
def recordsWhere (p : Assembly → Bool) (s : State) : List Nat :=
  (List.range 8).filter fun i => (s.assemblyAt i).any p

/-- R125, R126: the records are those that satisfy p as the aborts begin. -/
theorem abortWhere_eq (p : Assembly → Bool) (why : AbortReason) (s : State) :
    abortWhere p why s = abortAll (recordsWhere p s) why s := by
  show (List.range 8).foldl (fun s i => if (s.assemblyAt i).any p then abortRecord i why s else s) s = _
  unfold recordsWhere
  have hd : (List.range 8).Nodup := List.nodup_range
  generalize List.range 8 = is at hd
  induction is generalizing s with
  | nil => rfl
  | cons i rest ih =>
    obtain ⟨hi, hrest⟩ := List.nodup_cons.mp hd
    rw [List.foldl_cons, List.filter_cons]
    by_cases hp : (s.assemblyAt i).any p = true
    · obtain ⟨a, ha⟩ : ∃ a, s.assemblyAt i = some a := by
        cases h : s.assemblyAt i with
        | none => simp [h] at hp
        | some a => exact ⟨a, rfl⟩
      rw [if_pos hp, if_pos hp, ih _ hrest, abortRecord_of_some ha]
      have hsame : (rest.filter fun j => ((s.afterAbort i a.route why).assemblyAt j).any p) =
          rest.filter fun j => (s.assemblyAt j).any p :=
        List.filter_congr fun j hj => by rw [afterAbort_table, if_neg (fun he : i = j => hi (he ▸ hj))]
      rw [hsame]
      show _ = abortAll _ why (abortRecord i why s)
      rw [abortRecord_of_some ha]
    · rw [if_neg hp, if_neg hp, ih _ hrest]

theorem recordsWhere_nodup (p : Assembly → Bool) (s : State) : (recordsWhere p s).Nodup := List.nodup_range.filter _

theorem mem_recordsWhere {p : Assembly → Bool} {s : State} {i : Nat} :
    i ∈ recordsWhere p s ↔ i < 8 ∧ (s.assemblyAt i).any p = true := by
  simp [recordsWhere]

theorem abortWhere_aborted (p : Assembly → Bool) (why : AbortReason) (s : State) :
    Aborted (recordsWhere p s) why s (abortWhere p why s) := by
  rw [abortWhere_eq]
  exact abortAll_aborted _ (recordsWhere_nodup p s) why s

/-! ### The aborts of one route -/

section OneRoute

variable (n : Nat) (why : AbortReason) (s : State)

theorem abortRoute_aborted : Aborted (recordsWhere (fun a => a.route = n) s) why s (abortRoute n why s) :=
  abortWhere_aborted _ _ _

/-- The aborts of route n reach no other route. -/
theorem abortRoute_route_other {m : Nat} (hm : m ≠ n) : (abortRoute n why s).route m = s.route m := by
  have h := abortRoute_aborted n why s
  by_cases hlen : m < s.routes.length
  · rw [h.route m hlen]
    have hzero : chargedTo (recordsWhere (fun a => a.route = n) s) m s = 0 := by
      refine List.length_eq_zero_iff.mpr (List.filter_eq_nil_iff.mpr fun i hi => ?_)
      obtain ⟨-, hp⟩ := mem_recordsWhere.mp hi
      cases ha : s.assemblyAt i with
      | none => simp
      | some a =>
        have han : a.route = n := by simpa [ha] using hp
        simp [han, Ne.symm hm]
    rw [hzero, Route.charged_zero]
  · have hle := Nat.le_of_not_lt hlen
    unfold State.route
    rw [List.getD_eq_default _ _ hle, List.getD_eq_default _ _ (h.length.trans_le hle)]

/-- Of route n they change the two abort fields. -/
theorem abortRoute_route_same : (abortRoute n why s).route n =
    { s.route n with
      aborted := ((abortRoute n why s).route n).aborted, lastAbort := ((abortRoute n why s).route n).lastAbort } := by
  have h := abortRoute_aborted n why s
  by_cases hlen : n < s.routes.length
  · rw [h.route n hlen]
    rfl
  · have hle := Nat.le_of_not_lt hlen
    unfold State.route
    rw [List.getD_eq_default _ _ hle, List.getD_eq_default _ _ (h.length.trans_le hle)]

theorem abortRoute_length : (abortRoute n why s).routes.length = s.routes.length := (abortRoute_aborted n why s).length

theorem abortRoute_rest : abortRoute n why s =
    { s with packets := (abortRoute n why s).packets, routes := (abortRoute n why s).routes } :=
  (abortRoute_aborted n why s).rest

theorem abortRoute_none_left {i : Nat} (hi : i < 8) {a : Assembly}
    (ha : (abortRoute n why s).assemblyAt i = some a) : a.route ≠ n := by
  rw [(abortRoute_aborted n why s).table] at ha
  split at ha
  · cases ha
  · rename_i hmem
    intro hn
    exact hmem (mem_recordsWhere.mpr ⟨hi, by simp [ha, hn]⟩)

end OneRoute

end Sys2Proof.Machine
end

section
/-! SUPPORT. The packet assembler: how a packet opens, continues and ends a group, and the timeout sweep (O43, O44). -/

namespace Sys2Proof.Machine

/-! ### Filing and freeing a record -/

section Records

variable (i : Nat) (a : Assembly) (s : State)

theorem assemblyAt_setRecord (hi : i < s.packets.table.length) : (setRecord i a s).assemblyAt i = some a := by
  show (s.packets.table.set i (some a)).getD i none = _
  rw [getD_set_none, if_pos ⟨rfl, hi⟩]

/-- What a record held before it is freed leaves no trace. -/
theorem freeRecord_setRecord : freeRecord i (setRecord i a s) = freeRecord i s := by
  unfold freeRecord setRecord
  simp only [List.set_set]

theorem afterAbort_setRecord (n : Nat) (why : AbortReason) :
    (setRecord i a s).afterAbort i n why = s.afterAbort i n why := by
  show (freeRecord i (setRecord i a s)).modRoute n _ = _
  rw [freeRecord_setRecord]
  rfl

end Records

/-! ### The end of a group (R124) -/

section FinishGroup

variable {i : Nat} {a : Assembly} {s : State} (u : StreamUnit)

theorem finishGroup_short (ha : s.assemblyAt i = some a) (hl : a.bytes.length ≠ a.declared) :
    finishGroup i u s = s.afterAbort i a.route .length := by
  unfold finishGroup
  rw [show s.packets.table.getD i none = some a from ha]
  exact (if_pos hl).trans (abortRecord_of_some ha _)

theorem finishGroup_whole (ha : s.assemblyAt i = some a) (hl : a.bytes.length = a.declared) :
    finishGroup i u s =
      if wordAt a.bytes (a.declared - 2) = crc16 (a.bytes.take (a.declared - 2)) then
        placeGroup a.route
          { address := a.address, number := u.number, runStart := u.runStart, bytes := a.bytes } (freeRecord i s)
      else (freeRecord i s).modRoute a.route fun r => { r with bad := bump r.bad } := by
  unfold finishGroup
  rw [show s.packets.table.getD i none = some a from ha]
  exact if_neg (not_not.mpr hl)

end FinishGroup

theorem placeGroup_held {n : Nat} {s : State} (g : Group) (hl : (s.route n).listening = true)
    (hh : (s.route n).held = true) : placeGroup n g s = s := if_pos (by rw [hl, hh]; rfl)

theorem placeGroup_delivers {n : Nat} {s : State} (g : Group)
    (h : ¬ ((s.route n).listening = true ∧ (s.route n).held = true)) :
    placeGroup n g s = (s.modRoute n fun r => { r with delivered := bump r.delivered }).enqueue n (.ofGroup g) :=
  if_neg (by rwa [Bool.and_eq_true])

/-! ### A continuation (R123) -/

/-- The assembly with the data of a continuation filed. -/
def Assembly.grown (u : StreamUnit) (h : PacketHead) (data : List Byte) (a : Assembly) : Assembly :=
  { a with continuity := (h.continuity + 1) % 4, bytes := a.bytes ++ data, lastProgress := u.number }

theorem findAssembly_some {s : State} {n address i : Nat} (h : findAssembly s n address = some i) :
    ∃ a, s.assemblyAt i = some a ∧ a.route = n ∧ a.address = address := by
  have hp := List.find?_some (show (List.range 8).find? (fun i =>
    (s.assemblyAt i).any fun a => a.route = n && a.address = address) = some i from h)
  obtain ⟨a, ha, hr⟩ := (Option.any_eq_true _ _).mp hp
  simp only [Bool.and_eq_true, decide_eq_true_eq] at hr
  exact ⟨a, ha, hr.1, hr.2⟩

/-- R123: the tests of a continuation of the group in record i, in their order. -/
theorem continueGroup_open {n i : Nat} {a : Assembly} {s : State} (u : StreamUnit) (h : PacketHead)
    (data : List Byte) (hf : findAssembly s n h.address = some i) (ha : s.assemblyAt i = some a) :
    continueGroup n u h data s =
      if h.continuity ≠ a.continuity then s.afterAbort i a.route .continuity
      else if a.declared < a.bytes.length + h.useful then s.afterAbort i a.route .length
      else if s.freeBlocks < blocksFor (a.bytes.length + h.useful) - blocksFor a.bytes.length then
        s.afterAbort i a.route .noBlocks
      else if h.last then finishGroup i u (setRecord i (a.grown u h data) s)
      else setRecord i (a.grown u h data) s := by
  unfold continueGroup
  rw [hf]
  dsimp only
  rw [show s.packets.table.getD i none = some a from ha]
  dsimp only
  rw [abortRecord_of_some ha, abortRecord_of_some ha, abortRecord_of_some ha]
  rfl

/-! ### The sweep (R126) -/

theorem timeoutSweep_aborted (r : Fn) (s : State) :
    Aborted (recordsWhere (fun a => s.mgmt.settings.assembly < fnDist a.lastProgress r) s) .timeout s
      (timeoutSweep r s) := abortWhere_aborted _ _ _

/-- Settles O44: the sweep by the aborts it makes, and a continuation by its tests in order. -/
theorem continuationFiles : Obligations.ContinuationFiles := by
  refine ⟨fun s r => ?sweep, fun s n u h data i a hi8 hf ha hroute hlen => ?continuation⟩
  case sweep =>
    intro t late gone
    have hab := timeoutSweep_aborted r s
    have hgone : recordsWhere (fun a => s.mgmt.settings.assembly < fnDist a.lastProgress r) s = gone := rfl
    rw [hgone] at hab
    have hmem : ∀ i, i ∈ gone ↔ i < 8 ∧ (s.assemblyAt i).any late = true := fun i => mem_recordsWhere
    refine ⟨fun i hi => ?_, ?_, fun n hn => hab.route n hn, hab.rest⟩
    · show t.assemblyAt i = (s.assemblyAt i).filter _
      rw [hab.table]
      cases ha : s.assemblyAt i with
      | none => simp
      | some a => by_cases hlate : late a = true <;> simp [hmem, ha, hi, hlate, Option.filter_some]
    · rw [hab.order]
      refine List.filter_congr fun i _ => ?_
      have himp : s.assemblyAt i = none → i ∉ gone := fun hnone => by simp [hmem, hnone]
      exact decide_eq_decide.mpr ⟨fun h => h.elim id himp, .inl⟩
  case continuation =>
    intro t total room freed aborted
    have hopen := continueGroup_open u h data hf ha
    subst hroute
    have hstep : t = _ := hopen
    refine ⟨fun hc => hstep.trans (if_pos hc), fun hc hlong => ?_, fun hc hfit hno => ?_, fun hc hfit hroom => ?_⟩
    · rw [hstep, if_neg (not_not.mpr hc), if_pos hlong]
      rfl
    · have hblocks : s.freeBlocks < blocksFor (a.bytes.length + h.useful) - blocksFor a.bytes.length := by
        have : ¬ blocksFor (a.bytes.length + h.useful) ≤ s.freeBlocks + blocksFor a.bytes.length := hno
        omega
      rw [hstep, if_neg (not_not.mpr hc), if_neg hfit.not_gt, if_pos hblocks]
      rfl
    · have hblocks : ¬ s.freeBlocks < blocksFor (a.bytes.length + h.useful) - blocksFor a.bytes.length := by
        have : blocksFor (a.bytes.length + h.useful) ≤ s.freeBlocks + blocksFor a.bytes.length := hroom
        omega
      rw [if_neg (not_not.mpr hc), if_neg hfit.not_gt, if_neg hblocks] at hstep
      have hgrown : ((a.grown u h data).bytes.length) = total := by
        show (a.bytes ++ data).length = a.bytes.length + h.useful
        rw [List.length_append, hlen]
      refine ⟨fun hlast => ?_, fun hlast hi hshort => ?_, fun hlast hi hall => ?_⟩
      · rw [hstep, hlast]
        rfl
      · rw [if_pos hlast] at hstep
        rw [hstep, finishGroup_short u (assemblyAt_setRecord i _ s hi) (hgrown.trans_ne hshort.ne), afterAbort_setRecord]
        rfl
      · rw [if_pos hlast, finishGroup_whole u (assemblyAt_setRecord i _ s hi) (hgrown.trans hall),
          freeRecord_setRecord] at hstep
        intro bytes good
        have hdeclared : (a.grown u h data).declared = total := hall.symm
        rw [hdeclared] at hstep
        refine ⟨fun hbad => hstep.trans (if_neg hbad), fun hgood hl hh => ?_, fun hgood hfree => ?_⟩
        · exact hstep.trans ((if_pos hgood).trans (placeGroup_held _ hl hh))
        · exact hstep.trans ((if_pos hgood).trans (placeGroup_delivers _ hfree))

end Sys2Proof.Machine
end

section
/-! SUPPORT. The walk over a logical frame, and the first packet of a group (O43). -/

namespace Sys2Proof.Machine

/-! ### The walk (R120, R121) -/

theorem packetHead_cells_pos (bs : List Byte) : 1 ≤ (packetHead bs).cells := Nat.le_add_left _ _

section Walk

variable (n : Nat) (u : StreamUnit) (addrs : List Nat)

theorem walk_nil (fuel : Nat) (s : State) : walk n u addrs fuel [] s = s := by
  cases fuel <;> rfl

theorem walk_cons (fuel : Nat) (c : Cell) (rest : List Cell) (s : State) :
    walk n u addrs (fuel + 1) (c :: rest) s =
      if c.erased ∨ (c :: rest).length < (packetHead c.bytes).cells then s
      else walk n u addrs fuel ((c :: rest).drop (packetHead c.bytes).cells)
        (takePacket n u addrs (packetHead c.bytes) ((c :: rest).take (packetHead c.bytes).cells) s) := rfl

/-- A packet takes a cell at least, so fuel for every cell is fuel enough. -/
theorem walk_fuel (fuel : Nat) (cells : List Cell) (s : State) (h : cells.length ≤ fuel) :
    walk n u addrs fuel cells s = walk n u addrs cells.length cells s := by
  induction fuel using Nat.strong_induction_on generalizing cells s with
  | _ fuel ih =>
    cases cells with
    | nil => rw [walk_nil, walk_nil]
    | cons c rest =>
      obtain ⟨k, rfl⟩ := Nat.exists_eq_succ_of_ne_zero (Nat.ne_of_gt (Nat.lt_of_lt_of_le (Nat.succ_pos _) h))
      show _ = walk n u addrs (rest.length + 1) (c :: rest) s
      rw [walk_cons, walk_cons]
      by_cases hend : c.erased ∨ (c :: rest).length < (packetHead c.bytes).cells
      · rw [if_pos hend, if_pos hend]
      · rw [if_neg hend, if_neg hend]
        have hpos := packetHead_cells_pos c.bytes
        have hk : rest.length ≤ k := Nat.le_of_succ_le_succ h
        have hdrop : ((c :: rest).drop (packetHead c.bytes).cells).length ≤ rest.length := by
          rw [List.length_drop, List.length_cons]
          omega
        rw [ih k (Nat.lt_succ_self k) _ _ (hdrop.trans hk)]
        by_cases hlt : rest.length < k + 1
        · exact (ih rest.length hlt _ _ hdrop).symm
        · omega

end Walk

/-- R120, R121: what makes the walk drop a packet. -/
def dropsPacket (addrs : List Nat) (h : PacketHead) (packet : List Cell) : Prop :=
  packet.any Cell.erased = true ∨ (!packetOk h.cells (packet.flatMap Cell.bytes)) = true ∨
    16 * h.cells - 5 < h.useful ∨ h.address = 0 ∨ (addrs ≠ [] ∧ h.address ∉ addrs)

theorem takePacket_drops {addrs : List Nat} {h : PacketHead} {packet : List Cell} (hd : dropsPacket addrs h packet)
    (n : Nat) (u : StreamUnit) (s : State) : takePacket n u addrs h packet s = s := by
  unfold takePacket usePacket
  unfold dropsPacket at hd
  dsimp only
  split
  · rfl
  · exact if_pos (by tauto)

theorem takePacket_uses {addrs : List Nat} {h : PacketHead} {packet : List Cell} (hd : ¬ dropsPacket addrs h packet)
    (n : Nat) (u : StreamUnit) (s : State) : takePacket n u addrs h packet s =
      if h.first then openGroup n u h (((packet.flatMap Cell.bytes).drop 3).take h.useful) s
      else continueGroup n u h (((packet.flatMap Cell.bytes).drop 3).take h.useful) s := by
  unfold dropsPacket at hd
  have huses : ¬ (addrs ≠ [] ∧ h.address ∉ addrs) := by tauto
  exact (if_neg (by tauto)).trans (if_neg huses)

/-! ### Room for a group -/

/-- Record i is free. -/
def State.isFree (s : State) (i : Nat) : Bool := (s.assemblyAt i).isNone

/-- R122, step 5: the group opened in record i. -/
def openedAt (i n : Nat) (u : StreamUnit) (h : PacketHead) (data : List Byte) (declared : Nat) (s : State) : State :=
  { s with packets :=
    { table := s.packets.table.set i (some
        { route := n, address := h.address, continuity := (h.continuity + 1) % 4
          declared := declared, bytes := data, lastProgress := u.number })
      order := s.packets.order ++ [i] } }

/-- R122, step 4: the part with a record free: with the table full the oldest assembly is aborted. -/
def roomFor (s : State) : State :=
  if (List.range 8).any s.isFree then s else abortRecord (s.packets.order.headD 0) .evicted s

/-- The lowest free record. -/
def lowestFree (s : State) : Nat := ((List.range 8).find? s.isFree).getD 0

/-- R122, steps 3 and 5: the group opened in record i, when there are blocks for its data. -/
def openIn (i n : Nat) (u : StreamUnit) (h : PacketHead) (data : List Byte) (declared : Nat) (s : State) : State :=
  if s.freeBlocks < blocksFor h.useful then countAbort n .noBlocks s
  else if h.last then finishGroup i u (openedAt i n u h data declared s)
  else openedAt i n u h data declared s

theorem openRecord_eq (n : Nat) (u : StreamUnit) (h : PacketHead) (data : List Byte) (declared : Nat) (s : State) :
    openRecord n u h data declared s = openIn (lowestFree (roomFor s)) n u h data declared (roomFor s) := rfl

theorem roomFor_of_free {i : Nat} {s : State} (hi : i < 8) (hfree : s.assemblyAt i = none) : roomFor s = s :=
  if_pos (List.any_eq_true.mpr ⟨i, List.mem_range.mpr hi, by rw [State.isFree, hfree]; rfl⟩)

theorem lowestFree_eq {i : Nat} {s : State} (hi : i < 8) (hfree : s.assemblyAt i = none)
    (hlow : ∀ j < i, s.assemblyAt j ≠ none) : lowestFree s = i := by
  have hfind : (List.range 8).find? s.isFree = some i := by
    refine List.find?_range_eq_some.mpr ⟨by rw [State.isFree, hfree]; rfl, List.mem_range.mpr hi, fun j hj => ?_⟩
    rw [State.isFree, Bool.not_eq_true', Option.isNone_eq_false_iff]
    exact Option.isSome_iff_ne_none.mpr (hlow j hj)
  rw [lowestFree, hfind]
  rfl

theorem openRecord_free {n : Nat} {u : StreamUnit} {h : PacketHead} {data : List Byte} {declared i : Nat} {s : State}
    (hi : i < 8) (hfree : s.assemblyAt i = none) (hlow : ∀ j < i, s.assemblyAt j ≠ none) :
    openRecord n u h data declared s = openIn i n u h data declared s := by
  rw [openRecord_eq, roomFor_of_free hi hfree, lowestFree_eq hi hfree hlow]

theorem roomFor_of_full {i : Nat} {a : Assembly} {s : State} (ha : s.assemblyAt i = some a)
    (hfull : ∀ j < 8, s.assemblyAt j ≠ none) (hold : s.packets.order.head? = some i) :
    roomFor s = s.afterAbort i a.route .evicted := by
  have hnone : ¬ (List.range 8).any s.isFree = true := by
    rw [List.any_eq_true]
    rintro ⟨j, hj, hf⟩
    exact hfull j (List.mem_range.mp hj) (Option.isNone_iff_eq_none.mp hf)
  refine (if_neg hnone).trans ?_
  rw [List.headD_eq_head?_getD, hold]
  exact abortRecord_of_some ha _

theorem afterAbort_freed (i n : Nat) (why : AbortReason) (s : State) : (s.afterAbort i n why).assemblyAt i = none :=
  (afterAbort_table s i n why i).trans (if_pos rfl)

/-- The room made by eviction is the room found once it has been made. -/
theorem openRecord_full {n : Nat} {u : StreamUnit} {h : PacketHead} {data : List Byte} {declared i : Nat} {s : State}
    {a : Assembly} (hi : i < 8) (ha : s.assemblyAt i = some a) (hfull : ∀ j < 8, s.assemblyAt j ≠ none)
    (hold : s.packets.order.head? = some i) :
    openRecord n u h data declared s = openRecord n u h data declared (s.afterAbort i a.route .evicted) := by
  rw [openRecord_eq, openRecord_eq, roomFor_of_full ha hfull hold, roomFor_of_free hi (afterAbort_freed i _ _ s)]

/-! ### A first packet (R122) -/

/-- R122, step 2: the declared length of the group that a first packet opens. -/
def declaredBy (h : PacketHead) (data : List Byte) : Nat := if h.useful ≤ 1 then 0 else (wordAt data 0).toNat

/-- R122 once no group of the address is open. -/
def openNew (n : Nat) (u : StreamUnit) (h : PacketHead) (data : List Byte) (s : State) : State :=
  if declaredBy h data < 4 ∨ 4096 < declaredBy h data then countAbort n .tooLong s
  else openRecord n u h data (declaredBy h data) s

theorem openGroup_new {s : State} {n : Nat} {h : PacketHead} (hf : findAssembly s n h.address = none)
    (u : StreamUnit) (data : List Byte) : openGroup n u h data s = openNew n u h data s := by
  unfold openGroup
  rw [hf]
  rfl

theorem openGroup_restarts {s : State} {n i : Nat} {h : PacketHead} (hf : findAssembly s n h.address = some i)
    (u : StreamUnit) (data : List Byte) : openGroup n u h data s = openNew n u h data (abortRecord i .restart s) := by
  unfold openGroup
  rw [hf]
  rfl

theorem openNew_sized {n : Nat} {u : StreamUnit} {h : PacketHead} {data : List Byte}
    (hlo : 4 ≤ declaredBy h data) (hhi : declaredBy h data ≤ 4096) (s : State) :
    openNew n u h data s = openRecord n u h data (declaredBy h data) s := if_neg (by omega)

theorem declaredBy_eq {h : PacketHead} (data : List Byte) (hu : 2 ≤ h.useful) :
    declaredBy h data = (wordAt data 0).toNat := if_neg (by omega)

/-- An abort opens no group. -/
theorem findAssembly_afterAbort {s : State} {n address : Nat} (hf : findAssembly s n address = none) (i m : Nat)
    (why : AbortReason) : findAssembly (s.afterAbort i m why) n address = none := by
  refine List.find?_eq_none.mpr fun j hj => ?_
  have hnot := List.find?_eq_none.mp hf j hj
  show ¬ ((s.afterAbort i m why).assemblyAt j).any _ = true
  rw [afterAbort_table]
  split
  · simp
  · exact hnot

/-! ### A group of one packet -/

section OnePacket

variable {i n : Nat} {u : StreamUnit} {h : PacketHead} {data : List Byte} {declared : Nat} {s : State}

theorem assemblyAt_openedAt (hi : i < s.packets.table.length) :
    (openedAt i n u h data declared s).assemblyAt i = some
      { route := n, address := h.address, continuity := (h.continuity + 1) % 4
        declared := declared, bytes := data, lastProgress := u.number } := by
  show (s.packets.table.set i (some _)).getD i none = _
  rw [getD_set_none, if_pos ⟨rfl, hi⟩]

/-- A record opened and freed is as it was. -/
theorem freeRecord_openedAt (hi : i < s.packets.table.length) (hfree : s.assemblyAt i = none)
    (horder : i ∉ s.packets.order) : freeRecord i (openedAt i n u h data declared s) = s := by
  have htable : s.packets.table.set i none = s.packets.table := by
    have hget : s.packets.table[i] = none := by
      rw [← List.getD_eq_getElem _ none hi]
      exact hfree
    rw [← hget]
    exact List.set_getElem_self hi
  have hkept : (s.packets.order ++ [i]).filter (· ≠ i) = s.packets.order := by
    rw [List.filter_append, List.filter_eq_self.mpr fun j hj => by simpa using fun he : j = i => horder (he ▸ hj)]
    simp
  unfold freeRecord openedAt
  simp only [List.set_set, htable, hkept]

end OnePacket

/-- Settles O43: the walk packet by packet; then the room for a group, the group of one packet, and the refusals
with the opening. -/
theorem firstPacketOpens : Obligations.FirstPacketOpens := by
  refine ⟨fun s n u addrs => ?walk, fun s n u h data i a hi ha => ⟨?restart, ?evict⟩,
    fun s n u h data i hf hlen hlast huseful hlo hhi hblocks htable hfree horder hi hlow => ?whole,
    fun s n u h data i hf hlen => ?opens⟩
  case walk =>
    intro parse
    refine ⟨walk_nil n u addrs _ s, ?_⟩
    intro c rest h packet bytes size data behind dropped
    have hpos : 1 ≤ h.cells := packetHead_cells_pos c.bytes
    have hfuel : ∀ s, walk n u addrs rest.length behind s = parse behind s := fun s =>
      walk_fuel n u addrs _ behind s (by
        show ((c :: rest).drop h.cells).length ≤ rest.length
        rw [List.length_drop, List.length_cons]
        omega)
    have hstep : parse (c :: rest) s = _ := walk_cons n u addrs rest.length c rest s
    refine ⟨fun hend => hstep.trans (if_pos hend), fun he hle => ?_⟩
    have hgoes : ¬ (c.erased = true ∨ (c :: rest).length < h.cells) := by
      rw [he, List.length_cons]
      simp only [Bool.false_eq_true, false_or]
      omega
    rw [if_neg hgoes, hfuel] at hstep
    have hsize : 16 * h.cells - 5 < h.useful ↔ size < h.useful + 5 := by
      show _ ↔ 16 * h.cells < h.useful + 5
      omega
    have hok : packetOk h.cells bytes = true ↔ wordAt bytes (size - 2) = crc16 (bytes.take (size - 2)) := beq_iff_eq
    have hdropped : dropsPacket addrs h packet ↔ dropped := by
      show (packet.any Cell.erased = true ∨ (!packetOk h.cells bytes) = true ∨ 16 * h.cells - 5 < h.useful ∨
        h.address = 0 ∨ (addrs ≠ [] ∧ h.address ∉ addrs)) ↔ dropped
      rw [Bool.not_eq_true', ← Bool.not_eq_true, hok, hsize, List.any_eq_true]
    exact ⟨fun hd => by rw [hstep, takePacket_drops (hdropped.mpr hd)],
      fun hd => by rw [hstep, takePacket_uses (mt hdropped.mp hd)]⟩
  case restart =>
    intro hf hnone
    obtain ⟨b, hb, hroute, -⟩ := findAssembly_some hf
    obtain rfl : b = a := Option.some.inj (hb.symm.trans ha)
    rw [openGroup_restarts hf, openGroup_new hnone, abortRecord_of_some hb, hroute]
  case evict =>
    intro hf huseful hlo hhi hfull hold
    have hd := declaredBy_eq data huseful
    rw [openGroup_new hf, openGroup_new (findAssembly_afterAbort hf _ _ _), openNew_sized (hd ▸ hlo) (hd ▸ hhi),
      openNew_sized (hd ▸ hlo) (hd ▸ hhi), openRecord_full hi ha hfull hold]
  case whole =>
    intro declared good t
    have hd : declaredBy h data = declared := declaredBy_eq data huseful
    have hlen8 : i < s.packets.table.length := hi.trans_eq htable.symm
    have ht : t = finishGroup i u (openedAt i n u h data declared s) := by
      show openGroup n u h data s = _
      rw [openGroup_new hf, openNew_sized (hd ▸ hlo) (hd ▸ hhi), openRecord_free hi hfree hlow, hd]
      exact (if_neg hblocks.not_gt).trans (if_pos hlast)
    have hat := assemblyAt_openedAt (n := n) (u := u) (h := h) (data := data) (declared := declared) hlen8
    have hfreed := freeRecord_openedAt (n := n) (u := u) (h := h) (data := data) (declared := declared) hlen8 hfree horder
    refine ⟨fun hne => ?_, fun heq => ?_⟩
    · rw [ht, finishGroup_short u hat hne]
      show (freeRecord i _).modRoute n _ = _
      rw [hfreed]
      rfl
    · rw [finishGroup_whole u hat heq, hfreed] at ht
      refine ⟨fun hbad => ht.trans (if_neg hbad), fun hgood hl hh => ?_, fun hgood hfree => ?_⟩
      · exact ht.trans ((if_pos hgood).trans (placeGroup_held _ hl hh))
      · exact ht.trans ((if_pos hgood).trans (placeGroup_delivers _ hfree))
  case opens =>
    intro declared
    rw [openGroup_new hf]
    have hd : declaredBy h data = declared := rfl
    refine ⟨fun hout => if_pos hout, fun hlo hhi hlast hi hfree hlow => ?_⟩
    rw [openNew_sized (hd ▸ hlo) (hd ▸ hhi), openRecord_free hi hfree hlow]
    refine ⟨fun hblocks => ?_, fun hblocks => if_pos hblocks⟩
    exact (if_neg hblocks.not_gt).trans (if_neg (by rw [hlast]; exact Bool.false_ne_true))

end Sys2Proof.Machine
end

section
/-! SUPPORT. The end of a run, a turn of the allocator, and the page pool in numbers (O33). -/

namespace Sys2Proof.Machine

/-! ### The end of a run -/

/-- A route without its run, whatever its assemblies come to. -/
structure Route.RunEnded (r r' : Route) : Prop where
  eq : r' = { r with run := false, aborted := r'.aborted, lastAbort := r'.lastAbort }

section EndRun

variable (n : Nat) (s : State)

theorem endRun_other {m : Nat} (hm : m ≠ n) : (endRun n s).route m = s.route m := by
  unfold endRun
  rw [abortRoute_route_other _ _ _ hm, State.route_modRoute_other _ _ hm.symm]

/-- The end of its run leaves a route its other fields but for the two of its aborts. -/
theorem endRun_same : (s.route n).RunEnded ((endRun n s).route n) := by
  have hran : (s.modRoute n fun r => { r with run := false }).route n = { s.route n with run := false } := by
    by_cases hn : n < s.routes.length
    · exact State.route_modRoute_same _ _ _ hn
    · have hle := Nat.le_of_not_lt hn
      have hout : s.route n = .reset n := List.getD_eq_default _ _ hle
      rw [hout]
      exact List.getD_eq_default _ _ ((List.length_modify _ _ _).trans_le hle)
  have hr := abortRoute_route_same n .service (s.modRoute n fun r => { r with run := false })
  rw [hran] at hr
  exact ⟨hr⟩

theorem endRun_rest : endRun n s =
    { s with packets := (endRun n s).packets, routes := (endRun n s).routes } :=
  abortRoute_rest n .service (s.modRoute n fun r => { r with run := false })

theorem endRun_length : (endRun n s).routes.length = s.routes.length :=
  (abortRoute_length _ _ _).trans (List.length_modify _ _ _)

end EndRun

/-! ### A turn of the allocator (R74, R75) -/

/-- The refusal counted when route n makes a request in the step. -/
def countRefusal (asks : List Nat) (n : Nat) (s : State) : State :=
  if n ∈ asks then { s with store := { s.store with refusals := bump s.store.refusals } } else s

section Turn

variable {s : State} {n : Nat} {lane : Lane} (asks : List Nat) (imm : Option Nat)
  (hstate : (s.route n).state = .starved) (hbound : (s.route n).bound = some lane)
include hstate hbound

theorem allocTurn_grants (hroom : pageNeed lane.geometry ≤ s.freePages.length) :
    allocTurn asks imm s n =
      s.modRoute n (Route.grant (s.freePages.take (pageNeed lane.geometry)) lane.geometry) := by
  unfold allocTurn
  rw [hstate, hbound]
  exact if_pos hroom

theorem allocTurn_refuses (hroom : s.freePages.length < pageNeed lane.geometry) :
    allocTurn asks imm s n =
      if imm = some n then (countRefusal asks n s).modRoute n Route.unbind else endRun n (countRefusal asks n s) := by
  unfold allocTurn
  rw [hstate, hbound]
  exact if_neg hroom.not_ge

end Turn

theorem countRefusal_refusals (asks : List Nat) (n : Nat) (s : State) :
    (countRefusal asks n s).store.refusals = if n ∈ asks then bump s.store.refusals else s.store.refusals := by
  unfold countRefusal
  split <;> rfl

theorem countRefusal_routes (asks : List Nat) (n : Nat) (s : State) : (countRefusal asks n s).routes = s.routes := by
  unfold countRefusal
  split <;> rfl

theorem countRefusal_route (asks : List Nat) (n : Nat) (s : State) : (countRefusal asks n s).route = s.route := by
  funext m
  simp only [State.route, countRefusal_routes]

/-! ### The pool in numbers -/

/-- Free and held pages are all the pages, none of them twice. -/
theorem freePages_length_add {s : State} (h : s.PoolShared) :
    s.freePages.length + (s.routes.map fun r => r.pages.length).sum = 384 := by
  obtain ⟨hnodup, hlt⟩ := h.apart
  have hall : (s.freePages ++ s.routes.flatMap Route.pages).Perm (List.range poolPages) := by
    refine (List.perm_ext_iff_of_nodup ?_ List.nodup_range).mpr fun p => ?_
    · refine List.nodup_append'.mpr ⟨s.freePages_nodup, hnodup, fun p hf hh => ?_⟩
      exact (State.mem_freePages.mp hf).2 hh
    · rw [List.mem_append, State.mem_freePages, List.mem_range]
      refine ⟨fun hp => hp.elim And.left (hlt p), fun hp => ?_⟩
      by_cases hh : p ∈ s.routes.flatMap Route.pages
      · exact .inr hh
      · exact .inl ⟨hp, hh⟩
  have hlen := hall.length_eq
  rwa [List.length_append, List.length_flatMap, List.length_range] at hlen

theorem freePages_sorted (s : State) : s.freePages.Pairwise (· < ·) := List.pairwise_lt_range.filter _

/-- Settles O33: the pool in numbers, the page need, and the turn of a STARVED route. -/
theorem poolAllocation : Obligations.PoolAllocation := by
  refine ⟨fun s h => freePages_length_add h, fun g hlo hhi hd => ?need, fun asks imm s n lane hn hstate hbound => ?turn⟩
  case need =>
    unfold pageNeed
    have hprod : 1 ≤ g.depth * g.size ∧ g.depth * g.size ≤ 11520 := by
      simp only [List.mem_cons, List.not_mem_nil, or_false] at hd
      obtain hd | hd | hd | hd | hd := hd <;> rw [hd] <;> omega
    omega
  case turn =>
    intro need t
    refine ⟨freePages_sorted s, allocTurn_grants asks imm hstate hbound, fun hroom => ?_⟩
    have ht : t = _ := allocTurn_refuses asks imm hstate hbound hroom
    have hroute := countRefusal_route asks n s
    by_cases himm : imm = some n
    · rw [if_pos himm] at ht
      have hsame : t.route n = (s.route n).unbind := by
        rw [ht, State.route_modRoute_same _ _ _ (by rwa [countRefusal_routes]), hroute]
      refine ⟨by rw [ht]; exact countRefusal_refusals asks n s, fun m hm => ?_, fun h => absurd himm h, fun _ => ?_⟩
      · rw [ht, State.route_modRoute_other _ _ hm.symm, hroute]
      · rw [hsame]
        exact ⟨rfl, rfl, rfl⟩
    · rw [if_neg himm] at ht
      have hsame := (endRun_same n (countRefusal asks n s)).eq
      rw [← ht, hroute] at hsame
      refine ⟨?_, fun m hm => ?_, fun _ => ?_, fun h => absurd h himm⟩
      · rw [ht, endRun_rest]
        exact countRefusal_refusals asks n s
      · rw [ht, endRun_other _ _ hm, hroute]
      · rw [hsame]
        exact ⟨hstate, rfl, rfl⟩

end Sys2Proof.Machine
end

section
/-! SUPPORT. Where a unit is placed, and the queue that an item enters (O36). -/

namespace Sys2Proof.Machine

/-! ### A queue that an item enters -/

theorem enqueue_other {s : State} {m n : Nat} (hm : m ≠ n) (c : Content) : (s.enqueue n c).route m = s.route m :=
  State.route_modRoute_other _ _ hm.symm

/-- The item that carries content c on route r's channel. -/
def Route.itemOf (r : Route) (c : Content) : Item := { channel := r.channel.getD 0, started := 0, content := c }

theorem enqueue_same {s : State} {n : Nat} (hn : n < s.routes.length) (c : Content) :
    (s.enqueue n c).route n =
      { s.route n with
        queue := (displace ((s.route n).itemOf c).isUnit (s.route n).queue).1 ++ [(s.route n).itemOf c]
        overrun := if (displace ((s.route n).itemOf c).isUnit (s.route n).queue).2
          then bump (s.route n).overrun else (s.route n).overrun
        overrunFlag := (s.route n).overrunFlag || (displace ((s.route n).itemOf c).isUnit (s.route n).queue).2 } :=
  State.route_modRoute_same _ _ _ hn

theorem displace_roomy {b : Bool} {q : List Item} (h : (itemsOf b q).length < kindLimit b) :
    displace b q = (q, false) := if_neg h.not_ge

/-- Of two items of a kind one at least has not begun. -/
theorem exists_unbegun {b : Bool} {q : List Item} (hq : QueueFits q) (h : 2 ≤ (itemsOf b q).length) :
    ∃ x ∈ q, (decide (x.isUnit = b) && !x.begun) = true := by
  cases q with
  | nil => simp [itemsOf] at h
  | cons front rest =>
    have htail : itemsOf b rest ≠ [] := by
      intro hnil
      have hcons : itemsOf b (front :: rest) = (if front.isUnit = b then [front] else []) := by
        unfold itemsOf at hnil ⊢
        rw [List.filter_cons, hnil]
        simp
      rw [hcons] at h
      split at h <;> simp at h
    obtain ⟨x, hx⟩ := List.exists_mem_of_ne_nil _ htail
    obtain ⟨hmem, hkind⟩ := List.mem_filter.mp hx
    have hstarted : x.started = 0 := hq.begun x hmem
    exact ⟨x, List.mem_cons_of_mem _ hmem, by simp [of_decide_eq_true hkind, Item.begun, hstarted]⟩

/-- R104, R129: a full queue loses the first item of the kind that has not begun. -/
theorem displace_full {b : Bool} {q : List Item} (hq : QueueFits q) (h : (itemsOf b q).length = kindLimit b) :
    ∃ xs y zs, q = xs ++ y :: zs ∧ y.isUnit = b ∧ y.started = 0 ∧
      (∀ x ∈ xs, x.isUnit = b → 0 < x.started) ∧ displace b q = (xs ++ zs, true) := by
  have htwo : 2 ≤ (itemsOf b q).length := by
    rw [h]
    cases b <;> decide
  obtain ⟨x, hx, hp⟩ := exists_unbegun hq htwo
  obtain ⟨y, xs, zs, hbefore, hy, hsplit, herase⟩ := List.exists_of_eraseP (p := fun i => i.isUnit = b && !i.begun) hx hp
  have hy' : y.isUnit = b ∧ y.started = 0 := by simpa [Item.begun] using hy
  refine ⟨xs, y, zs, hsplit, hy'.1, hy'.2, fun z hz hkind => ?_, ?_⟩
  · have hnot := hbefore z hz
    simp only [hkind, decide_true, Bool.true_and, Bool.not_eq_true', Item.begun, decide_eq_false_iff_not] at hnot
    exact Nat.pos_of_ne_zero fun h0 => hnot (by omega)
  · exact (if_pos h.ge).trans (congrArg (·, true) herase)

/-! ### Where a unit is placed (R105, R142) -/

section Placing

variable {s : State} {u : Formed}

/-- The unit is counted on the route that formed it. -/
def countSent (n : Nat) (s : State) : State := s.modRoute n fun r => { r with sent := bump r.sent }

theorem placeUnit_packet (hf : u.form = .packet) : placeUnit s u = s := if_pos hf

theorem placeUnit_own (hf : u.form ≠ .packet) (hn : u.route < 16) (hl : s.listening ≠ some u.route) :
    placeUnit s u = (countSent u.route s).enqueue u.route (.ofUnit u.item) := by
  have hown : ¬ (16 ≤ u.route ∨ s.listening = some u.route) := fun h => h.elim hn.not_ge hl
  exact (if_neg hf).trans (if_neg hown)

theorem placeUnit_unheard (hf : u.form ≠ .packet) (hn : 16 ≤ u.route) (hl : s.listening = none) :
    placeUnit s u = s := by
  unfold placeUnit
  rw [if_neg hf, if_pos (.inl hn), hl]

/-- The unit of the listening route, or of an announcement route, goes on air or is discarded. -/
theorem placeUnit_listening {m : Nat} (hf : u.form ≠ .packet) (hm : s.listening = some m)
    (h : 16 ≤ u.route ∨ u.route = m) :
    placeUnit s u =
      if s.ann.onAir = some u.route ∧ ((s.route u.route).held = false ∨ 16 ≤ u.route) then placeOnAir m u s else s := by
  have hair : 16 ≤ u.route ∨ s.listening = some u.route := h.imp_right fun he => by rw [hm, he]
  unfold placeUnit
  rw [if_neg hf, if_pos hair, hm]

end Placing

theorem listening_lt {s : State} {m : Nat} (h : s.listening = some m) : m < 16 :=
  List.mem_range.mp (List.mem_of_find?_eq_some h)

/-- Settles O36: a unit by the route that formed it, and the queue of a route by its room. -/
theorem fullQueueDisplaces : Obligations.FullQueueDisplaces := by
  refine ⟨fun s u => ?place, fun s n content hn hfits => ?queue⟩
  case place =>
    intro t counted
    refine ⟨placeUnit_packet, fun hstream => ?_⟩
    have hf : u.form ≠ .packet := by rw [hstream]; decide
    refine ⟨placeUnit_own hf, placeUnit_unheard hf, fun m hm h => ?_⟩
    have hplaced : t = _ := placeUnit_listening hf hm h
    have hlow := listening_lt hm
    refine ⟨fun hno => hplaced.trans (if_neg ?_), fun hair hfree => ?_⟩
    · rintro ⟨hair, hfree⟩
      obtain hno | ⟨rfl, hheld⟩ := hno
      · exact hno hair
      · obtain hfree | hhigh := hfree
        · rw [hheld] at hfree
          cases hfree
        · exact hlow.not_ge hhigh
    · have hgoes : (s.route u.route).held = false ∨ 16 ≤ u.route := by
        obtain hhigh | rfl := h
        · exact .inr hhigh
        · exact hfree.symm.imp_right id
      refine (hplaced.trans (if_pos ⟨hair, hgoes⟩)).trans (congrArg (fun source => State.enqueue _ m (.ofUnit
        { u.item with sourceChanged := s.ann.switchMark, source := source })) ?_)
      unfold sourceOf
      split
      · rfl
      · cases (s.route u.route).binding <;> rfl
  case queue =>
    intro r item limit t
    have hkind : kindLimit item.isUnit = limit := by
      cases content <;> rfl
    have hsame := enqueue_same hn content
    refine ⟨fun m hm => enqueue_other hm content, fun hroom => ?_, fun hfull => ?_⟩
    · have hdisplace : displace ((s.route n).itemOf content).isUnit (s.route n).queue = _ :=
        displace_roomy (hroom.trans_eq hkind.symm)
      rw [hdisplace] at hsame
      refine hsame.trans ?_
      simp only [Bool.false_eq_true, if_false, Bool.or_false]
      rfl
    · obtain ⟨xs, y, zs, hsplit, hy, hstart, hbefore, hdisplace⟩ := displace_full hfits (hfull.trans hkind.symm)
      have hdisplace' : displace ((s.route n).itemOf content).isUnit (s.route n).queue = _ := hdisplace
      rw [hdisplace'] at hsame
      refine ⟨xs, y, zs, hsplit, hy, hstart, hbefore, hsame.trans ?_⟩
      simp only [if_true, Bool.or_true]
      rfl

end Sys2Proof.Machine
end

section
/-! SUPPORT. The unit, or none, that a route forms at a release (O35). -/

namespace Sys2Proof.Machine

/-! ### The write of a route -/

section Write

variable {s : State} {n : Nat} (g : Geometry) (f : Frame)

/-- A route after its write of a release. -/
def Route.wrote (g : Geometry) (f : Frame) (r : Route) : Route :=
  { r with fill := min (r.fill + 1) g.depth, tallies := nextTallies g f.fn f.cells r.tallies }

theorem laneWrite_same (hn : n < s.routes.length) : (laneWrite n g f s).route n = (s.route n).wrote g f :=
  State.route_modRoute_same _ _ _ hn

theorem laneWrite_other {m : Nat} (hm : m ≠ n) : (laneWrite n g f s).route m = s.route m :=
  State.route_modRoute_other _ _ hm.symm

theorem laneWrite_cells :
    (laneWrite n g f s).store.cells = writeLane g (s.route n).pages f.fn f.cells s.store.cells := rfl

theorem laneWrite_length : (laneWrite n g f s).routes.length = s.routes.length := List.length_modify _ _ _

end Write

theorem formUnit_writes {s : State} {n : Nat} {g : Geometry} (hp : (s.route n).pages ≠ [])
    (hg : (s.route n).geometry = some g) (f : Frame) (formed : List Formed) :
    formUnit f (s, formed) n =
      let w := laneWrite n g f s
      let y := if (w.route n).fill = g.depth then completeRoute n f.fn g w else gapRoute n f.fn g w
      (y.1, formed ++ y.2) := by
  obtain ⟨p, ps, hps⟩ := List.exists_cons_of_ne_nil hp
  unfold formUnit
  dsimp only
  rw [hps, hg]

/-! ### The unit of a completed logical frame -/

theorem Route.countUnit_kept (k : UnitKind) (r : Route) : r.countUnit k =
    { r with damaged := (r.countUnit k).damaged, lost := (r.countUnit k).lost, gaps := (r.countUnit k).gaps } := by
  cases k <;> rfl

theorem Route.countUnit_damaged (k : UnitKind) (r : Route) :
    (r.countUnit k).damaged = if k = .damaged then bump r.damaged else r.damaged := by
  cases k <;> rfl

theorem Route.countUnit_lost (k : UnitKind) (r : Route) :
    (r.countUnit k).lost = if k = .lost then bump r.lost else r.lost := by
  cases k <;> rfl

theorem unitKind_full {d e : Nat} (h : e = 0) : unitKind d e = .full := if_pos h

theorem unitKind_damaged {d e : Nat} (h : 0 < e) (hd : e ≤ d) : unitKind d e = .damaged :=
  (if_neg h.ne').trans (if_pos hd)

theorem unitKind_lost {d e : Nat} (h : 0 < e) (hd : d < e) : unitKind d e = .lost :=
  (if_neg h.ne').trans (if_neg hd.not_ge)

theorem unitKind_ne_lost {d e : Nat} (h : e = 0 ∨ e ≤ d) : unitKind d e ≠ .lost := by
  unfold unitKind
  split
  · decide
  · rw [if_pos (h.resolve_left ‹_›)]
    decide

section Complete

variable {s : State} {n : Nat} (fn : Fn) (g : Geometry)

/-- The slot that the release of fn completes. -/
def completedSlot (fn : Fn) (g : Geometry) : Nat := (logicalFn fn g.depth).toNat % g.depth

/-- The erased count that the completed slot's tally holds. -/
def erasedAt (fn : Fn) (g : Geometry) (r : Route) : Nat := r.tallies.getD (completedSlot fn g) 0

/-- The unit of the completed logical frame. -/
def completedUnit (n : Nat) (fn : Fn) (g : Geometry) (s : State) : Formed :=
  let r := s.route n
  let kind := unitKind r.damage (erasedAt fn g r)
  makeUnit n r fn g kind (erasedAt fn g r)
    (if kind = .lost then [] else slotCells g r.pages s.store.cells (completedSlot fn g))

/-- R99, R101: a route that has formed a unit of a completed logical frame. -/
def Route.completed (k : UnitKind) (r : Route) : Route := { r.countUnit k with state := .running, run := true }

theorem completeRoute_eq : completeRoute n fn g s =
    (s.modRoute n (Route.completed (unitKind (s.route n).damage (erasedAt fn g (s.route n)))),
      [completedUnit n fn g s]) := rfl

end Complete

/-- Settles O35: the write, then the unit of the completed logical frame, a GAP unit, or none. -/
theorem unitsFormed : Obligations.UnitsFormed := by
  intro f s formed n g hn hp hg r y t cells logical slot e
  have hw := laneWrite_same g f hn
  have hlen : n < (laneWrite n g f s).routes.length := hn.trans_eq (laneWrite_length g f).symm
  have hy : y = _ := formUnit_writes hp hg f formed
  have hfill : ((laneWrite n g f s).route n).fill = min (r.fill + 1) g.depth := by rw [hw]; rfl
  by_cases hdone : g.depth ≤ r.fill + 1
  · have hfull : ((laneWrite n g f s).route n).fill = g.depth := hfill.trans (min_eq_right hdone)
    dsimp only at hy
    rw [if_pos hfull, completeRoute_eq] at hy
    have ht : t = _ := congrArg Prod.fst hy
    have hother : ∀ m, m ≠ n → t.route m = s.route m := fun m hm => by
      rw [ht, State.route_modRoute_other _ _ hm.symm, laneWrite_other g f hm]
    let kind := unitKind r.damage e
    have hsame : t.route n = (r.wrote g f).completed kind := by
      rw [ht, State.route_modRoute_same _ _ _ hlen, hw]
      rfl
    refine ⟨by rw [ht]; rfl, hother, fun _ => ?_, fun h => absurd h hdone.not_gt⟩
    rw [hsame, Route.completed, Route.countUnit_kept]
    refine ⟨min_eq_right hdone, rfl, rfl, completedUnit n f.fn g (laneWrite n g f s), by rw [hy], rfl, rfl, rfl, ?_⟩
    have hu : completedUnit n f.fn g (laneWrite n g f s) =
        makeUnit n (r.wrote g f) f.fn g kind e (if kind = .lost then [] else slotCells g r.pages cells slot) := by
      show makeUnit n ((laneWrite n g f s).route n) _ _ _ _ _ = _
      rw [hw]
      rfl
    rw [hu]
    refine ⟨rfl, rfl, rfl, fun hlow => if_pos hlow, fun h => unitKind_full h, fun h hd => unitKind_damaged h hd,
      fun h hd => ⟨unitKind_lost h hd, if_pos (unitKind_lost h hd)⟩, fun h => if_neg (unitKind_ne_lost h), ?_, ?_⟩
    · exact Route.countUnit_damaged kind _
    · exact Route.countUnit_lost kind _
  · have hlt : r.fill + 1 < g.depth := Nat.lt_of_not_le hdone
    have hpart : ((laneWrite n g f s).route n).fill = r.fill + 1 := hfill.trans (min_eq_left hlt.le)
    dsimp only at hy
    rw [if_neg (by omega)] at hy
    have hgap : gapRoute n f.fn g (laneWrite n g f s) =
        if r.state = .filling ∧ r.run = true then
          ((laneWrite n g f s).modRoute n (Route.countUnit .gap), [makeUnit n (r.wrote g f) f.fn g .gap g.size []])
        else (laneWrite n g f s, []) := by
      unfold gapRoute
      rw [hw]
      rfl
    rw [hgap] at hy
    by_cases hgaps : r.state = .filling ∧ r.run = true
    · rw [if_pos hgaps] at hy
      have ht : t = _ := congrArg Prod.fst hy
      have hsame : t.route n = (r.wrote g f).countUnit .gap := by
        rw [ht, State.route_modRoute_same _ _ _ hlen, hw]
      refine ⟨by rw [ht]; rfl, fun m hm => ?_, fun h => absurd h hdone, fun _ => ?_⟩
      · rw [ht, State.route_modRoute_other _ _ hm.symm, laneWrite_other g f hm]
      · rw [hsame]
        refine ⟨min_eq_left hlt.le, rfl, rfl, fun _ => ⟨rfl, _, by rw [hy], rfl, rfl, rfl, rfl, rfl, rfl⟩,
          fun h => absurd hgaps h⟩
    · rw [if_neg hgaps] at hy
      have ht : t = _ := congrArg Prod.fst hy
      refine ⟨by rw [ht]; rfl, fun m hm => ?_, fun h => absurd h hdone, fun _ => ?_⟩
      · rw [ht, laneWrite_other g f hm]
      · rw [ht, hw]
        exact ⟨min_eq_left hlt.le, rfl, rfl, fun h => absurd h hgaps, fun _ => ⟨by rw [hy]; exact List.append_nil _, rfl⟩⟩

end Sys2Proof.Machine
end

section
/-! SUPPORT. The lane store over the D releases of a logical frame (O34). -/

namespace Sys2Proof.Machine

/-! ### Addresses and slots -/

/-- R73: different store indices within the page list have different addresses. -/
theorem pageAddress_injective {pages : List Nat} (hd : pages.Nodup) {i j : Nat} (hi : i < 64 * pages.length)
    (hj : j < 64 * pages.length) (h : pageAddress pages i = pageAddress pages j) : i = j := by
  unfold pageAddress at h
  have hi' : i / 64 < pages.length := Nat.div_lt_of_lt_mul hi
  have hj' : j / 64 < pages.length := Nat.div_lt_of_lt_mul hj
  rw [List.getD_eq_getElem _ _ hi', List.getD_eq_getElem _ _ hj'] at h
  have hpage : pages[i / 64] = pages[j / 64] := by omega
  have hquot : i / 64 = j / 64 := (List.Nodup.getElem_inj_iff hd).mp hpage
  omega

/-- The places of a slot: index k of slot σ. -/
theorem place_injective {size σ τ k m : Nat} (hk : k < size) (hm : m < size) (h : σ * size + k = τ * size + m) :
    σ = τ ∧ k = m := by
  have hmod : (σ * size + k) % size = (τ * size + m) % size := congrArg (· % size) h
  rw [Nat.mul_add_mod', Nat.mul_add_mod', Nat.mod_eq_of_lt hk, Nat.mod_eq_of_lt hm] at hmod
  exact ⟨Nat.eq_of_mul_eq_mul_right (Nat.zero_lt_of_lt hk) (by omega), hmod⟩

theorem place_lt {size d σ k : Nat} (hk : k < size) (hσ : σ < d) : σ * size + k < d * size := by
  calc σ * size + k < σ * size + size := Nat.add_lt_add_left hk _
    _ = (σ + 1) * size := (Nat.succ_mul _ _).symm
    _ ≤ d * size := Nat.mul_le_mul_right _ hσ

/-- The depths a lane may have. -/
def isDepth (d : Nat) : Prop := d ∈ [1, 2, 4, 8, 16]

theorem isDepth.cases {d : Nat} (h : isDepth d) : d = 1 ∨ d = 2 ∨ d = 4 ∨ d = 8 ∨ d = 16 := by
  simpa [isDepth] using h

theorem isDepth.pos {d : Nat} (h : isDepth d) : 0 < d := by
  obtain h | h | h | h | h := h.cases <;> omega

/-- R81: of the D releases of logical frame L, release L + j writes the cells k with k mod D = j into its slot. -/
theorem slotOf_eq_iff {d : Nat} (hd : isDepth d) (first : Fn) {j k : Nat} (hj : j < d) :
    slotOf (first + BitVec.ofNat 12 j) k d = first.toNat % d ↔ k % d = j := by
  have hi : k % d < d := Nat.mod_lt _ hd.pos
  unfold slotOf
  generalize k % d = i at *
  have hlt := first.isLt
  rw [BitVec.toNat_sub, BitVec.toNat_add, BitVec.toNat_ofNat, BitVec.toNat_ofNat]
  obtain rfl | rfl | rfl | rfl | rfl := hd.cases <;> omega

theorem slot_eq_iff {d : Nat} (hd : isDepth d) (first : Fn) {j : Nat} (hj : j < d) :
    first.toNat % d = (first + BitVec.ofNat 12 j).toNat % d ↔ j = 0 := by
  have hlt := first.isLt
  rw [BitVec.toNat_add, BitVec.toNat_ofNat]
  obtain rfl | rfl | rfl | rfl | rfl := hd.cases <;> omega

/-! ### The cells of the slot -/

section Cells

variable {g : Geometry} {pages : List Nat} (hnodup : pages.Nodup) (hlen : pages.length = pageNeed g)
include hnodup hlen

/-- R73: the addresses of a route's slots are all different. -/
theorem slotAddress_injective {σ τ k m : Nat} (hσ : σ < g.depth) (hτ : τ < g.depth) (hk : k < g.size)
    (hm : m < g.size) (h : pageAddress pages (σ * g.size + k) = pageAddress pages (τ * g.size + m)) :
    σ = τ ∧ k = m := by
  have hroom : g.depth * g.size ≤ 64 * pages.length := by
    rw [hlen]
    unfold pageNeed
    omega
  exact place_injective hk hm
    (pageAddress_injective hnodup ((place_lt hk hσ).trans_le hroom) ((place_lt hm hτ).trans_le hroom) h)

/-- R81: what one release writes into a slot. -/
theorem readCell_writeLane {mem : List (Nat × Cell)} (hmem : cellsWf mem = true) (hd : 0 < g.depth) (r : Fn)
    (cells : List Cell) {τ m : Nat} (hτ : τ < g.depth) (hm : m < g.size) :
    readCell (writeLane g pages r cells mem) (pageAddress pages (τ * g.size + m)) =
      if slotOf r m g.depth = τ then cells.getD (g.start + m) blankCell
      else readCell mem (pageAddress pages (τ * g.size + m)) := by
  have hfold : ∀ (ks : List Nat) (mem : List (Nat × Cell)), cellsWf mem = true → (∀ k ∈ ks, k < g.size) →
      readCell (ks.foldl (fun mem k => writeCell mem
        (pageAddress pages (slotOf r k g.depth * g.size + k)) (cells.getD (g.start + k) blankCell)) mem)
        (pageAddress pages (τ * g.size + m)) =
      if m ∈ ks ∧ slotOf r m g.depth = τ then cells.getD (g.start + m) blankCell
      else readCell mem (pageAddress pages (τ * g.size + m)) := by
    intro ks
    induction ks with
    | nil => intros; simp
    | cons k rest ih =>
      intro mem hmem hks
      have hk : k < g.size := hks k List.mem_cons_self
      rw [List.foldl_cons, ih _ (writeCell_wf _ _ _ hmem) fun j hj => hks j (List.mem_cons_of_mem _ hj),
        readCell_writeCell _ _ _ hmem]
      have haddr : pageAddress pages (τ * g.size + m) = pageAddress pages (slotOf r k g.depth * g.size + k) ↔
          k = m ∧ slotOf r m g.depth = τ := by
        refine ⟨fun h => ?_, fun ⟨hkm, hs⟩ => by rw [hkm, hs]⟩
        obtain ⟨hs, hmk⟩ := slotAddress_injective hnodup hlen hτ (Nat.mod_lt _ hd) hm hk h
        exact ⟨hmk.symm, by rw [hmk]; exact hs.symm⟩
      by_cases hin : m ∈ rest ∧ slotOf r m g.depth = τ
      · rw [if_pos hin, if_pos ⟨List.mem_cons_of_mem _ hin.1, hin.2⟩]
      · rw [if_neg hin]
        by_cases hhere : k = m ∧ slotOf r m g.depth = τ
        · rw [if_pos (haddr.mpr hhere), if_pos ⟨hhere.1 ▸ List.mem_cons_self, hhere.2⟩, hhere.1]
        · rw [if_neg (mt haddr.mp hhere), if_neg]
          rintro ⟨hmem', hs⟩
          obtain rfl | hrest := List.mem_cons.mp hmem'
          · exact hhere ⟨rfl, hs⟩
          · exact hin ⟨hrest, hs⟩
  have hall := hfold (List.range g.size) mem hmem fun k hk => List.mem_range.mp hk
  simp only [List.mem_range, hm, true_and] at hall
  exact hall

/-- The memory after the first n of the releases from `first` on. -/
def afterReleases (g : Geometry) (pages : List Nat) (first : Fn) (sent : Nat → List Cell) (n : Nat)
    (mem : List (Nat × Cell)) : List (Nat × Cell) :=
  (List.range n).foldl (fun mem j => writeLane g pages (first + BitVec.ofNat 12 j) (sent j) mem) mem

omit hnodup hlen in
theorem afterReleases_succ (first : Fn) (sent : Nat → List Cell) (n : Nat) (mem : List (Nat × Cell)) :
    afterReleases g pages first sent (n + 1) mem =
      writeLane g pages (first + BitVec.ofNat 12 n) (sent n) (afterReleases g pages first sent n mem) := by
  simp [afterReleases, List.range_succ]

omit hnodup hlen in
theorem afterReleases_wf (first : Fn) (sent : Nat → List Cell) (n : Nat) {mem : List (Nat × Cell)}
    (hmem : cellsWf mem = true) : cellsWf (afterReleases g pages first sent n mem) = true := by
  induction n with
  | zero => exact hmem
  | succ n ih =>
    rw [afterReleases_succ]
    exact writeLane_wf _ _ _ _ _ ih

/-- Cell k of the slot is that of release k mod D, once that release has been written. -/
theorem readCell_afterReleases {mem : List (Nat × Cell)} (hmem : cellsWf mem = true) (hd : isDepth g.depth)
    (first : Fn) (sent : Nat → List Cell) {k : Nat} (hk : k < g.size) {n : Nat} (hn : n ≤ g.depth)
    (hdone : k % g.depth < n) :
    readCell (afterReleases g pages first sent n mem) (pageAddress pages (first.toNat % g.depth * g.size + k)) =
      (sent (k % g.depth)).getD (g.start + k) blankCell := by
  induction n with
  | zero => omega
  | succ n ih =>
    rw [afterReleases_succ, readCell_writeLane hnodup hlen (afterReleases_wf _ _ _ hmem) hd.pos _ _
      (Nat.mod_lt _ hd.pos) hk]
    by_cases hwrites : k % g.depth = n
    · rw [if_pos ((slotOf_eq_iff hd first hn).mpr hwrites), hwrites]
    · rw [if_neg (mt (slotOf_eq_iff hd first hn).mp hwrites)]
      exact ih (Nat.le_of_succ_le hn) (by omega)

end Cells

/-! ### The tally of the slot -/

/-- The tallies after the first n of the releases from `first` on. -/
def talliesAfter (g : Geometry) (first : Fn) (sent : Nat → List Cell) (n : Nat) (tallies : List Nat) : List Nat :=
  (List.range n).foldl (fun xs j => nextTallies g (first + BitVec.ofNat 12 j) (sent j) xs) tallies

theorem talliesAfter_succ (g : Geometry) (first : Fn) (sent : Nat → List Cell) (n : Nat) (tallies : List Nat) :
    talliesAfter g first sent (n + 1) tallies =
      nextTallies g (first + BitVec.ofNat 12 n) (sent n) (talliesAfter g first sent n tallies) := by
  simp [talliesAfter, List.range_succ]

theorem nextTallies_getD (g : Geometry) (r : Fn) (cells : List Cell) (tallies : List Nat) {σ : Nat}
    (hσ : σ < g.depth) : (nextTallies g r cells tallies).getD σ 0 =
      if σ = r.toNat % g.depth then erasedInto g r cells σ else tallies.getD σ 0 + erasedInto g r cells σ := by
  unfold nextTallies
  rw [List.getD_eq_getElem _ _ (by simpa using hσ)]
  simp only [List.getElem_map, List.getElem_range]

/-- Cell k of logical frame L is erased. -/
def gatheredErased (g : Geometry) (sent : Nat → List Cell) (k : Nat) : Bool :=
  ((sent (k % g.depth)).getD (g.start + k) blankCell).erased

/-- The erased cells of logical frame L that come with its first n releases. -/
def erasedBefore (g : Geometry) (sent : Nat → List Cell) (n : Nat) : Nat :=
  (List.range g.size).countP fun k => k % g.depth < n && gatheredErased g sent k

theorem erasedInto_eq {g : Geometry} (hd : isDepth g.depth) (first : Fn) (sent : Nat → List Cell) {n : Nat}
    (hn : n < g.depth) : erasedInto g (first + BitVec.ofNat 12 n) (sent n) (first.toNat % g.depth) =
      (List.range g.size).countP fun k => k % g.depth = n && gatheredErased g sent k := by
  unfold erasedInto
  rw [← List.countP_eq_length_filter]
  refine List.countP_congr fun k _ => ?_
  by_cases hk : k % g.depth = n
  · simp [slotOf_eq_iff hd first hn, gatheredErased, hk]
  · simp [slotOf_eq_iff hd first hn, hk]

theorem countP_add {α : Type} {p q r : α → Bool} (xs : List α)
    (h : ∀ x, r x = (p x || q x)) (hdisj : ∀ x, ¬ (p x = true ∧ q x = true)) :
    xs.countP r = xs.countP p + xs.countP q := by
  induction xs with
  | nil => rfl
  | cons x rest ih =>
    simp only [List.countP_cons, ih, h x]
    have := hdisj x
    cases hp : p x <;> cases hq : q x <;> simp_all <;> omega

theorem erasedBefore_succ (g : Geometry) (sent : Nat → List Cell) (n : Nat) :
    erasedBefore g sent (n + 1) = erasedBefore g sent n +
      (List.range g.size).countP fun k => k % g.depth = n && gatheredErased g sent k := by
  refine countP_add _ (fun k => ?_) fun k => ?_
  · rw [← Bool.and_or_distrib_right]
    congr 1
    rw [Bool.eq_iff_iff]
    simp only [Bool.or_eq_true, decide_eq_true_eq]
    omega
  · simp only [Bool.and_eq_true, decide_eq_true_eq]
    omega

/-- R82: the tally of the slot starts afresh with release L and grows with each after it. -/
theorem talliesAfter_getD {g : Geometry} (hd : isDepth g.depth) (first : Fn) (sent : Nat → List Cell)
    (tallies : List Nat) {n : Nat} (hn : n < g.depth) :
    (talliesAfter g first sent (n + 1) tallies).getD (first.toNat % g.depth) 0 = erasedBefore g sent (n + 1) := by
  have hσ : first.toNat % g.depth < g.depth := Nat.mod_lt _ hd.pos
  induction n with
  | zero =>
    rw [talliesAfter_succ, nextTallies_getD _ _ _ _ hσ, if_pos ((slot_eq_iff hd first hn).mpr rfl),
      erasedInto_eq hd first sent hn, erasedBefore_succ]
    simp [erasedBefore]
  | succ n ih =>
    rw [talliesAfter_succ, nextTallies_getD _ _ _ _ hσ,
      if_neg (mt (slot_eq_iff hd first hn).mp (Nat.succ_ne_zero n)), ih (Nat.lt_of_succ_lt hn),
      erasedInto_eq hd first sent hn, ← erasedBefore_succ]

/-- Settles O34: by induction on the releases, for the cells and for the tally. -/
theorem logicalFrameGathers : Obligations.LogicalFrameGathers := by
  intro g pages mem tallies first sent hmem hnodup hlen hd d gathered mem' tallies'
  have hdepth : isDepth g.depth := hd
  refine ⟨List.map_congr_left fun k hk => ?_, ?_⟩
  · exact readCell_afterReleases hnodup hlen hmem hdepth first sent (List.mem_range.mp hk) le_rfl
      (Nat.mod_lt _ hdepth.pos)
  · obtain ⟨n, hn⟩ := Nat.exists_eq_succ_of_ne_zero hdepth.pos.ne'
    have htally : tallies' = talliesAfter g first sent (n + 1) tallies := by
      rw [← Nat.succ_eq_add_one, ← hn]
      rfl
    rw [htally]
    refine (talliesAfter_getD hdepth first sent tallies (by omega)).trans ?_
    rw [← List.countP_eq_length_filter, List.countP_map, ← Nat.succ_eq_add_one, ← hn]
    refine List.countP_congr fun k _ => ?_
    simp [gatheredErased, Nat.mod_lt _ hdepth.pos, d]

end Sys2Proof.Machine
end

section
/-! SUPPORT. What the scout link hands on reaches the scout tracker and nothing else (O14). -/

namespace Sys2Proof.Machine

/-- What an event of a scout link is made of. -/
structure ScoutEvents (l : LinkId) (P : State → Prop) : Prop where
  role : ∀ s, P s → (s.link l).role = .scout
  link : ∀ s f, P s → (∀ x : Link, (f x).role = x.role) → P (s.modLink l f)
  tracker : ∀ s f, P s → P (s.modTracker .scout f)
  sticky : ∀ s f, P s → P (s.modSticky f)
  raise : ∀ s fn b, P s → P (s.raiseAt fn b)

namespace ScoutEvents

variable {l : LinkId} {P : State → Prop} (h : ScoutEvents l P) {s : State}
include h

/-! ### The scout tracker -/

theorem installMap (c : Collection) (why : SwitchReason) (fn : Fn) (hs : P s) :
    P (installMap .scout c why fn s) := h.raise _ _ _ (h.tracker s _ hs)

theorem emptyMap (why : LostReason) (fn : Option Fn) (hs : P s) : P (emptyMap .scout why fn s) := by
  unfold Machine.emptyMap
  split
  · exact hs
  · exact h.raise _ _ _ (h.tracker s _ hs)

theorem emptyTracker (why : LostReason) (hs : P s) : P (emptyTracker .scout why s) :=
  h.emptyMap why _ (h.tracker s _ hs)

theorem rejectMap (why : RejectReason) (v : Nat) (i : Option Nat) (fn : Fn) (hs : P s) :
    P (rejectMap .scout why v i fn s) := h.raise _ _ _ (h.sticky _ _ (h.tracker s _ hs))

theorem takeVerdict (f : Frame) (c : Collection) (hs : P s) : P (takeVerdict .scout f c s) := by
  unfold Machine.takeVerdict
  split
  · exact h.tracker s _ hs
  · split
    · exact h.installMap _ _ _ hs
    · exact h.tracker s _ hs
  · exact h.rejectMap _ _ _ _ hs

theorem offerRecord (f : Frame) (i : Option Nat) (r : List Byte) (hs : P s) : P (offerRecord .scout f i r s) := by
  unfold Machine.offerRecord Machine.fileRecord
  extract_lets c
  split
  · split
    · split
      · exact hs
      · exact h.rejectMap _ _ _ _ hs
    · exact h.takeVerdict _ _ hs
  · exact hs

theorem takeRecord (f : Frame) (p : Option (List Byte)) (hs : P s) : P (takeRecord .scout f ignoreLive s p) := by
  unfold Machine.takeRecord
  split
  · exact hs
  split
  · split
    · exact hs
    · exact hs
    · exact h.offerRecord f _ _ hs
    · exact h.offerRecord f _ _ hs
  · exact hs

theorem switchFrame (f : Frame) (hs : P s) : P (switchFrame .scout f s) := by
  unfold Machine.switchFrame
  split
  · exact hs
  split
  · extract_lets u
    have hu : P u := h.tracker s _ hs
    clear_value u
    split
    · split
      · exact h.installMap _ _ _ hu
      · exact h.emptyMap _ _ hu
    · exact h.emptyMap _ _ hu
  · exact hs

theorem takeCountdown (f : Frame) (hs : P s) : P (takeCountdown .scout f s) := by
  unfold Machine.takeCountdown
  extract_lets hd
  split
  · exact h.tracker s _ hs
  · exact h.tracker s _ hs

theorem versionCheck (f : Frame) (hs : P s) : P (versionCheck .scout f s) := by
  unfold Machine.versionCheck
  extract_lets v x ready
  clear_value ready
  split
  · split
    · exact hs
    · split
      · exact h.installMap _ _ _ (h.tracker s _ hs)
      · exact h.emptyMap _ _ (h.tracker s _ hs)
  · split
    · exact h.installMap _ _ _ hs
    · exact hs
  · exact hs

theorem trackerHead (f : Frame) (hs : P s) : P (trackerHead .scout f s) := by
  unfold Machine.trackerHead
  extract_lets u v
  have hv : P v := h.switchFrame f (h.tracker s _ hs)
  clear_value v
  split
  · exact h.versionCheck f (h.takeCountdown f hv)
  · exact hv

theorem scoutFrame (f : Frame) (hs : P s) : P (scoutFrame f s) :=
  foldl_keeps (fun _ p hb => h.takeRecord f p hb) _ _ (h.trackerHead f hs)

/-! ### The scout link -/

theorem setLevel (v : QLevel) (hs : P s) : P (setLevel l v s) := by
  unfold Machine.setLevel
  extract_lets old t
  have ht : P t := h.link s _ hs fun _ => rfl
  clear_value t
  split
  · exact ht
  · exact h.raise _ _ _ ht

theorem updateQuality (q : Nat) (hs : P s) : P (updateQuality l q s) :=
  h.setLevel _ (h.link s _ hs fun _ => rfl)

theorem enterQuality (q : Nat) (hs : P s) : P (enterQuality l q s) := h.setLevel _ (h.link s _ hs fun _ => rfl)

theorem handOn (f : Frame) (hs : P s) : P (handOn l f s) := by
  unfold Machine.handOn
  rw [h.role s hs]
  dsimp only
  split
  · exact h.scoutFrame f hs
  · exact hs

theorem depart (v : SyncState) (hs : P s) : P (depart l v s) := by
  unfold Machine.depart
  extract_lets t
  have ht : P t := h.setLevel _ (h.link s _ hs fun _ => rfl)
  clear_value t
  rw [h.role t ht]
  exact h.tracker t _ ht

theorem startConfirm (f : Frame) (hs : P s) : P (startConfirm l f s) := by
  unfold Machine.startConfirm
  extract_lets old t
  have ht : P t := h.link s _ hs fun _ => rfl
  clear_value t
  split
  · rw [h.role t ht]
    exact h.emptyTracker _ ht
  · exact ht

theorem take (t : Nat) (f : Frame) (hs : P s) : P (s.modLink l fun x => (x.timeTaken t).take f) :=
  h.link s _ hs fun x => (x.timed t).role

theorem confirmFrame (t : Nat) (f : Frame) (hs : P s) : P (confirmFrame l t f s) := by
  unfold Machine.confirmFrame
  extract_lets x
  split
  · split
    · exact h.handOn f (h.enterQuality _ (h.take t f hs))
    · exact h.link s _ hs fun _ => rfl
  · exact h.startConfirm f hs

theorem takeFrame (t : Nat) (f : Frame) (hs : P s) : P (takeFrame l t f s) :=
  h.handOn f (h.updateQuality _ (h.take t f hs))

theorem declareMiss (hs : P s) : P (declareMiss l s) := by
  unfold Machine.declareMiss Machine.checkCoast
  extract_lets f t u
  have ht : P _ := h.handOn f (h.updateQuality 0 (h.link s Link.missed hs fun _ => rfl))
  split
  · exact h.raise _ _ _ (h.sticky _ _ (h.link _ _ (h.depart _ ht) fun _ => rfl))
  · exact ht

theorem gapMisses (k : Nat) (hs : P s) : P (gapMisses l k s) := by
  induction k generalizing s with
  | zero => exact hs
  | succ k ih =>
    unfold Machine.gapMisses
    split
    · exact ih (h.declareMiss hs)
    · exact hs

theorem syncedFrame (t : Nat) (f : Frame) (hs : P s) : P (syncedFrame l t f s) := by
  unfold Machine.syncedFrame Machine.gapFrame Machine.resync Machine.lateFrame
  extract_lets x d u
  split
  · exact h.startConfirm f (h.depart _ hs)
  split
  · exact h.takeFrame t f hs
  split
  · have hu : P u := h.gapMisses d hs
    split
    · exact h.takeFrame t f hu
    · exact h.startConfirm f hu
  split
  · exact h.startConfirm f (h.depart _ (h.link s _ hs fun _ => rfl))
  · exact h.sticky _ _ (h.link s _ hs fun _ => rfl)

theorem judgeArrival (t : Nat) (bs : List Byte) (ms : List Bool) (hs : P s) : P (judgeArrival l t bs ms s) := by
  unfold Machine.judgeArrival
  extract_lets x f
  split
  · exact hs
  split
  · exact h.link s _ hs fun _ => rfl
  split
  · exact h.link s _ hs fun _ => rfl
  split
  · exact h.startConfirm f hs
  · exact h.confirmFrame t f hs
  · exact h.syncedFrame t f hs
  · exact h.syncedFrame t f hs

end ScoutEvents

/-! ### What stands -/

theorem State.link_raiseAt (s : State) (fn : Option Fn) (b : NoticeBody) (l : LinkId) :
    (s.raiseAt fn b).link l = s.link l := by
  cases l
  · exact State.raiseAt_linkA _ _ _
  · exact State.raiseAt_linkB _ _ _

theorem raiseAt_mgmt (s : State) (fn : Option Fn) (b : NoticeBody) :
    (s.raiseAt fn b).mgmt = { s.mgmt with sticky := (s.raiseAt fn b).mgmt.sticky } := by
  unfold State.raiseAt
  dsimp only
  split <;> rfl

theorem raiseAt_trunk (s : State) (fn : Option Fn) (b : NoticeBody) :
    (s.raiseAt fn b).trunk =
      { s.trunk with
        notices := (s.raiseAt fn b).trunk.notices, noticeNumber := (s.raiseAt fn b).trunk.noticeNumber } := by
  unfold State.raiseAt
  dsimp only
  split <;> rfl

theorem State.ApartFrom.refl (l : LinkId) (s : State) : s.ApartFrom l s :=
  ⟨rfl, rfl, rfl, rfl, rfl, rfl, rfl, rfl, rfl, rfl⟩

/-- What stands beside link l stands still when nothing but l, the scout tracker and what the part tells changes. -/
theorem State.ApartFrom.trans {l : LinkId} {s t u : State} (h : s.ApartFrom l t) (k : t.ApartFrom l u) :
    s.ApartFrom l u where
  other := k.other.trans h.other
  leadTracker := k.leadTracker.trans h.leadTracker
  merge := k.merge.trans h.merge
  roles := k.roles.trans h.roles
  store := k.store.trans h.store
  routes := k.routes.trans h.routes
  packets := k.packets.trans h.packets
  ann := k.ann.trans h.ann
  management := by rw [k.management, h.management]
  trunk := by rw [k.trunk, h.trunk]

theorem State.apartFrom_modLink (l : LinkId) (s : State) (f : Link → Link) : s.ApartFrom l (s.modLink l f) := by
  cases l <;> exact ⟨rfl, rfl, rfl, rfl, rfl, rfl, rfl, rfl, rfl, rfl⟩

theorem State.apartFrom_raiseAt (l : LinkId) (s : State) (fn : Option Fn) (b : NoticeBody) :
    s.ApartFrom l (s.raiseAt fn b) where
  other := State.link_raiseAt _ _ _ _
  leadTracker := by simp
  merge := by simp
  roles := by simp
  store := by simp
  routes := by simp
  packets := by simp
  ann := by simp
  management := raiseAt_mgmt s fn b
  trunk := raiseAt_trunk s fn b

theorem apartScout (l : LinkId) (s : State) :
    ScoutEvents l fun t => s.ApartFrom l t ∧ (t.link l).role = .scout where
  role _ hs := hs.2
  link t f hs hf := ⟨hs.1.trans (t.apartFrom_modLink l f), by rw [State.link_modLink, hf]; exact hs.2⟩
  tracker t f hs := by
    refine ⟨hs.1.trans (by cases l <;> exact ⟨rfl, rfl, rfl, rfl, rfl, rfl, rfl, rfl, rfl, rfl⟩), ?_⟩
    cases l <;> exact hs.2
  sticky t f hs := by
    refine ⟨hs.1.trans (by cases l <;> exact ⟨rfl, rfl, rfl, rfl, rfl, rfl, rfl, rfl, rfl, rfl⟩), ?_⟩
    cases l <;> exact hs.2
  raise t fn b hs := by
    refine ⟨hs.1.trans (t.apartFrom_raiseAt l fn b), ?_⟩
    rw [State.link_raiseAt]
    exact hs.2

/-- An event that reaches neither roles nor controller ends with what its link has done. -/
theorem State.ApartFrom.finishFrame {l : LinkId} {s t : State} (hq : s.quiescent) (h : s.ApartFrom l t) :
    finishFrame t = t :=
  finishFrame_of_quiescent (hq.congr h.roles h.ann)

/-- Settles O14: what a scout link's frame or miss is made of keeps the rest apart. -/
theorem scoutStaysApart : Obligations.ScoutStaysApart := by
  intro s l hrole hq
  have hclock : ∀ c, s.ApartFrom l { s with clock := c } ∧ (State.link { s with clock := c } l).role = .scout :=
    fun c => by cases l <;> exact ⟨⟨rfl, rfl, rfl, rfl, rfl, rfl, rfl, rfl, rfl, rfl⟩, hrole⟩
  refine ⟨fun time frame marks hf hm => ?_, ?_⟩
  · have h := (apartScout l s).judgeArrival (max s.clock time) frame marks (hclock (max s.clock time))
    exact ⟨_, exec_arrival_of_quiescent hf hm rfl (hq.congr h.1.roles h.1.ann), h.1⟩
  · show ∃ t, execMiss l s = .next t ∧ _
    unfold execMiss
    split
    · exact ⟨s, rfl, .refl l s⟩
    · split
      · rename_i d _ _
        have h := (apartScout l s).declareMiss
          ((apartScout l s).link _ Link.advanceDue (hclock (max s.clock (d + missGrace))) fun x => by
            unfold Link.advanceDue
            split <;> rfl)
        refine ⟨_, rfl, ?_⟩
        rw [h.1.finishFrame hq]
        exact h.1
      · exact ⟨s, rfl, .refl l s⟩

end Sys2Proof.Machine
end

section
/-! SUPPORT. The ports' own part of the links through an event (O7, O8, O9): only the port that has the frame
changes it. -/

namespace Sys2Proof.Machine

/-! ### What an event leaves of the ports -/

/-- The ports' own parts of both links, the settings and the clock stand. -/
structure SameCore (s t : State) : Prop where
  linkA : t.linkA.core = s.linkA.core
  linkB : t.linkB.core = s.linkB.core
  settings : t.mgmt.settings = s.mgmt.settings
  clock : t.clock = s.clock

theorem SameCore.refl (s : State) : SameCore s s := ⟨rfl, rfl, rfl, rfl⟩

theorem SameCore.link {s t : State} (h : SameCore s t) (l : LinkId) : (t.link l).core = (s.link l).core := by
  cases l
  · exact h.linkA
  · exact h.linkB

theorem SameCore.trans {s t u : State} (h : SameCore s t) (k : SameCore t u) : SameCore s u :=
  ⟨k.1.trans h.1, k.2.trans h.2, k.3.trans h.3, k.4.trans h.4⟩

theorem SameCore.of_modLink {s : State} (l : LinkId) {f : Link → Link} (hf : ∀ x, (f x).core = x.core) :
    SameCore s (s.modLink l f) := by
  cases l
  · exact ⟨hf _, rfl, rfl, rfl⟩
  · exact ⟨rfl, hf _, rfl, rfl⟩

theorem actApply_core (s : State) : SameCore s (actApply s) :=
  have h := actApply_ports s
  ⟨congrArg Link.core h.linkA, congrArg Link.core h.linkB, (settingsKept s.mgmt.settings).act s rfl, h.clock⟩

theorem coreEngine (s : State) : Engine (SameCore s) where
  routes _ _ hs _ := ⟨hs.1, hs.2, hs.3, hs.4⟩
  grant _ _ _ hs _ _ _ := ⟨hs.1, hs.2, hs.3, hs.4⟩
  refusal _ _ hs := ⟨hs.1, hs.2, hs.3, hs.4⟩
  write _ _ _ _ _ hs := ⟨hs.1, hs.2, hs.3, hs.4⟩
  packets _ _ hs := ⟨hs.1, hs.2, hs.3, hs.4⟩
  ann _ _ hs _ := ⟨hs.1, hs.2, hs.3, hs.4⟩
  tracker _ t _ hs := by cases t <;> exact ⟨hs.1, hs.2, hs.3, hs.4⟩
  sticky _ _ hs _ := ⟨hs.1, hs.2, hs.3, hs.4⟩
  raise _ _ _ hs := by
    unfold State.raiseAt
    dsimp only
    split <;> exact ⟨hs.1, hs.2, hs.3, hs.4⟩

theorem setRole_core (l : LinkId) (r : Role) (s : State) : SameCore s (setRole l r s) :=
  .of_modLink l fun _ => rfl

/-- Nothing but a port changes the ports' own part of a link. -/
theorem coreEvents (s : State) : Events (SameCore s) where
  toEngine := coreEngine s
  merge _ _ hs := ⟨hs.1, hs.2, hs.3, hs.4⟩
  marks _ _ hs _ := ⟨hs.1, hs.2, hs.3, hs.4⟩
  counters _ l _ hs hf := hs.trans (.of_modLink l fun x => congrArg (fun y => { y with role := .off }) (hf x))
  act _ hs := hs.trans (actApply_core _)
  due _ _ hs := ⟨hs.1, hs.2, hs.3, hs.4⟩
  decided _ _ hs := ⟨hs.1, hs.2, hs.3, hs.4⟩
  lead _ _ _ hs _ := (hs.trans (setRole_core _ _ _)).trans (setRole_core _ _ _)
  other _ _ _ hs _ _ := hs.trans (setRole_core _ _ _)
  free _ _ hs := ⟨hs.1, hs.2, hs.3, hs.4⟩
  undecide _ hs := ⟨hs.1, hs.2, hs.3, hs.4⟩

theorem raiseAt_core (s : State) (fn : Option Fn) (b : NoticeBody) : SameCore s (s.raiseAt fn b) :=
  (coreEngine s).raise _ fn b (.refl s)

theorem raise_core (s : State) (b : NoticeBody) : SameCore s (s.raise b) := raiseAt_core s s.lastFn b

theorem modSticky_core (s : State) (f : Sticky → Sticky) : SameCore s (s.modSticky f) := ⟨rfl, rfl, rfl, rfl⟩

theorem handOn_core (l : LinkId) (f : Frame) (s : State) : SameCore s (handOn l f s) :=
  (coreEvents s).handOn l f (.refl s)

theorem finishFrame_core (s : State) : SameCore s (finishFrame s) := (coreEvents s).finishFrame (.refl s)

/-! ### What a port makes of its link -/

/-- The event has made y of link l, as far as the port's own part goes; the other link's own part, the settings and
the clock are those of s. -/
structure PortMakes (l : LinkId) (y : Link) (s t : State) : Prop where
  link : (t.link l).core = y.core
  other : (t.link (otherLink l)).core = (s.link (otherLink l)).core
  settings : t.mgmt.settings = s.mgmt.settings
  clock : t.clock = s.clock

theorem PortMakes.refl (l : LinkId) (s : State) : PortMakes l (s.link l) s s := ⟨rfl, rfl, rfl, rfl⟩

namespace PortMakes

variable {l : LinkId} {y : Link} {s t : State} (h : PortMakes l y s t)
include h

theorem next {u : State} (k : SameCore t u) : PortMakes l y s u :=
  ⟨(k.link l).trans h.link, (k.link _).trans h.other, k.settings.trans h.settings, k.clock.trans h.clock⟩

theorem consecutive : (t.link l).consecutive = y.consecutive := by
  have := congrArg Link.consecutive h.link
  exact this

theorem level : (t.link l).level = y.level := by
  have := congrArg Link.level h.link
  exact this

theorem quality : (t.link l).quality = y.quality := by
  have := congrArg Link.quality h.link
  exact this

theorem sync : (t.link l).sync = y.sync := by
  have := congrArg Link.sync h.link
  exact this

theorem followedId : (t.link l).followedId = y.followedId := by
  have := congrArg Link.followedId h.link
  exact this

theorem synced : (t.link l).synced = y.synced := by
  unfold Link.synced
  rw [h.sync]

/-- The change is one that reads neither the role nor the merge counters. -/
theorem modLink {f : Link → Link} (hf : ∀ x, (f x).core = (f x.core).core) : PortMakes l (f y) s (t.modLink l f) where
  link := by rw [State.link_modLink, hf, h.link, ← hf]
  other := by rw [State.link_modLink_other]; exact h.other
  settings := by rw [State.modLink_mgmt]; exact h.settings
  clock := by rw [State.modLink_clock]; exact h.clock

theorem setLevel (v : QLevel) : PortMakes l { y with level := v } s (setLevel l v t) := by
  have hm := h.modLink (f := fun x => { x with level := v }) fun _ => rfl
  unfold Machine.setLevel
  extract_lets old u
  split
  · exact hm
  · exact hm.next (raiseAt_core _ _ _)

end PortMakes

theorem core_core (x : Link) : x.core.core = x.core := rfl

theorem timeTaken_core (t : Nat) (x : Link) : (x.timeTaken t).core = x.core.timeTaken t := by
  unfold Link.timeTaken Link.measure
  have hw : x.core.window = x.window := rfl
  have hs : x.core.sync = x.sync := rfl
  rw [hs, hw]
  split
  · cases x.window with
    | none => rfl
    | some w =>
      dsimp only
      split <;> rfl
  · rfl

/-- The entry after the monitor's update with q. -/
def Link.monitored (st : Settings) (q : Nat) (x : Link) : Link :=
  { x.updateScore q with level := nextLevel st x.level (x.updateScore q).quality }

theorem monitored_missed (st : Settings) (x : Link) : x.missed.monitored st 0 = x.afterMiss st := rfl

theorem monitored_taken (st : Settings) (t : Nat) (f : Frame) (x : Link) :
    ((x.timeTaken t).take f).monitored st f.q = x.afterTaken st t f := by
  unfold Link.afterTaken Link.timeTaken Link.measure
  split
  · cases x.window with
    | none => rfl
    | some w =>
      dsimp only
      split <;> rfl
  · rfl

namespace PortMakes

variable {l : LinkId} {y : Link} {s t : State} (h : PortMakes l y s t)
include h

/-- R24, R25. -/
theorem updateQuality (q : Nat) : PortMakes l (y.monitored s.mgmt.settings q) s (updateQuality l q t) := by
  have hm := h.modLink (f := Link.updateScore q) fun _ => rfl
  unfold Machine.updateQuality
  dsimp only
  rw [hm.settings, hm.level, hm.quality]
  exact hm.setLevel _

/-- R23. -/
theorem enterQuality (q : Nat) :
    PortMakes l { y with score := 8 * q, quality := q, level := entryLevel s.mgmt.settings q } s (enterQuality l q t) := by
  unfold Machine.enterQuality
  rw [h.settings]
  exact (h.modLink (f := fun x => { x with score := 8 * q, quality := q }) fun _ => rfl).setLevel _

/-- R16, R10. -/
theorem take (time : Nat) (f : Frame) :
    PortMakes l ((y.timeTaken time).take f) s (t.modLink l fun x => (x.timeTaken time).take f) :=
  h.modLink (f := fun x => (x.timeTaken time).take f) fun x => by
    show Link.take f (x.timeTaken time).core = Link.take f (x.core.timeTaken time).core
    rw [timeTaken_core, timeTaken_core, core_core]

/-- R10: a taken frame. -/
theorem takeFrame (time : Nat) (f : Frame) :
    PortMakes l (y.afterTaken s.mgmt.settings time f) s (takeFrame l time f t) := by
  have hq := (h.take time f).updateQuality f.q
  rw [monitored_taken] at hq
  exact hq.next (handOn_core l f _)

/-- R12: a departure. -/
theorem depart (v : SyncState) : PortMakes l (y.afterDeparture v) s (depart l v t) := by
  have hport : PortMakes l (y.afterDeparture v) s (portDepart l v t) :=
    (h.modLink (f := fun x =>
      { x with
        sync := v, confirmCount := 0, lastFn := none, due := none, window := none
        score := 0, quality := 0 }) fun _ => rfl).setLevel .none
  unfold Machine.depart
  extract_lets u
  have k := coreEvents u
  split
  · exact hport.next (k.leadDeparture (.refl u))
  · exact hport.next (k.dropHeld _ (.refl u))
  · exact hport.next (k.clearTarget _ (.refl u))
  · exact hport

/-- R6: a confirmation starts, whatever becomes of the map. -/
theorem startConfirm (f : Frame) :
    PortMakes l { y with sync := .confirm, confirmCount := 1, lastFn := some f.fn, followedId := f.mux } s
      (startConfirm l f t) := by
  have hm := h.modLink (f := fun x =>
    { x with sync := .confirm, confirmCount := 1, lastFn := some f.fn, followedId := f.mux }) fun _ => rfl
  unfold Machine.startConfirm
  extract_lets old u
  have k := coreEvents u
  split
  · split
    · exact hm.next (k.emptyTracker _ _ (k.actIfDue (.refl u)))
    · exact hm.next (k.emptyTracker _ _ (.refl u))
    · exact hm
    · exact hm
  · exact hm

/-- R17: a miss up to the coast check. -/
theorem missed : PortMakes l (y.afterMiss s.mgmt.settings) s
    (handOn l (t.link l).substitute (Machine.updateQuality l 0 (t.modLink l Link.missed))) :=
  ((h.modLink (f := Link.missed) fun _ => rfl).updateQuality 0).next (handOn_core _ _ _)

/-- R17: a miss that does not reach the coast limit. -/
theorem declareMiss (hc : y.consecutive + 1 < s.mgmt.settings.coast) :
    PortMakes l (y.afterMiss s.mgmt.settings) s (declareMiss l t) := by
  have hm := h.missed
  have hstays : ¬ (handOn l (t.link l).substitute
      (Machine.updateQuality l 0 (t.modLink l Link.missed))).mgmt.settings.coast ≤
      ((handOn l (t.link l).substitute
        (Machine.updateQuality l 0 (t.modLink l Link.missed))).link l).consecutive := by
    rw [hm.settings, hm.consecutive]
    exact Nat.not_le.mpr hc
  have hmiss : Machine.declareMiss l t = _ := if_neg hstays
  rw [hmiss]
  exact hm

/-- R18: the entry of a link whose coast has expired with a miss. -/
theorem expiresMiss (hc : s.mgmt.settings.coast ≤ y.consecutive + 1) :
    PortMakes l { (y.afterMiss s.mgmt.settings).afterDeparture .hunt with coastExpiries := bump y.coastExpiries } s
      (Machine.declareMiss l t) ∧
    (Machine.declareMiss l t).mgmt.sticky.coastExpired = true ∧ (Machine.declareMiss l t).Noticed (.coastExpired l) := by
  have hm := h.missed
  unfold Machine.declareMiss
  dsimp only
  generalize handOn l (t.link l).substitute (Machine.updateQuality l 0 (t.modLink l Link.missed)) = u at hm ⊢
  have hgoes : u.mgmt.settings.coast ≤ (u.link l).consecutive := by
    rw [hm.settings, hm.consecutive]
    exact hc
  have hu : checkCoast l u = (((Machine.depart l .hunt u).modLink l fun x =>
      { x with coastExpiries := bump x.coastExpiries }).modSticky fun k => { k with coastExpired := true }).raise
        (.coastExpired l) := if_pos hgoes
  rw [hu]
  have hd := (hm.depart .hunt).modLink (f := fun x => { x with coastExpiries := bump x.coastExpiries }) fun _ => rfl
  refine ⟨(hd.next (modSticky_core _ _)).next (raise_core _ _), ?_, State.noticed_raiseAt _ _ _⟩
  exact (State.raiseAt_within _ _ _).2.2.2.2.1 rfl

end PortMakes

/-! ### The misses of a gap -/

theorem afterMiss_iterate (st : Settings) (k : Nat) (y : Link) :
    ((Link.afterMiss st)^[k] y).consecutive = y.consecutive + k ∧
      ((Link.afterMiss st)^[k] y).misses = bump^[k] y.misses := by
  induction k with
  | zero => exact ⟨rfl, rfl⟩
  | succ k ih =>
    rw [Function.iterate_succ_apply', Function.iterate_succ_apply', ← ih.2]
    exact ⟨congrArg (· + 1) ih.1, rfl⟩

theorem afterMiss_synced (st : Settings) (y : Link) : (y.afterMiss st).synced = true := rfl

theorem afterMiss_iterate_synced (st : Settings) (k : Nat) {y : Link} (h : y.synced = true) :
    ((Link.afterMiss st)^[k] y).synced = true := by
  cases k with
  | zero => exact h
  | succ k =>
    rw [Function.iterate_succ_apply']
    rfl

/-- R10: the misses of a gap that ends before the coast limit. -/
theorem PortMakes.gapMisses {l : LinkId} {y : Link} {s t : State} (h : PortMakes l y s t) (hy : y.synced = true)
    (k : Nat) (hc : 1 ≤ k → y.consecutive + k < s.mgmt.settings.coast) :
    PortMakes l ((Link.afterMiss s.mgmt.settings)^[k] y) s (gapMisses l k t) := by
  induction k generalizing y t with
  | zero => exact h
  | succ k ih =>
    have hlt := hc (Nat.le_add_left 1 k)
    unfold Machine.gapMisses
    rw [if_pos (h.synced.trans hy), Function.iterate_succ_apply]
    refine ih (h.declareMiss (by omega)) rfl fun _ => ?_
    show y.consecutive + 1 + k < _
    omega

/-- R10: the rest of a gap is not declared once the coast has ended. -/
theorem gapMisses_unsynced {l : LinkId} {t : State} (h : (t.link l).synced = false) (k : Nat) : gapMisses l k t = t := by
  cases k with
  | zero => rfl
  | succ k => exact if_neg (by rw [h]; decide)

end Sys2Proof.Machine
end

section
/-! SUPPORT. The frames that lock a link, that it takes and that resync it (O7, O8, O9). -/

namespace Sys2Proof.Machine

/-! ### An arrival at the ports -/

theorem PortMakes.heard (l : LinkId) (time : Nat) (s : State) :
    PortMakes l (s.link l) (heardAt time s) (heardAt time s) :=
  ⟨congrArg Link.core (heardAt_link time s l), rfl, rfl, rfl⟩

/-- What a port makes of its link by an arrival is what the event leaves. -/
theorem PortMakes.arrives {s : State} {l : LinkId} {time : Nat} {frame : List Byte} {marks : List Bool} {y : Link}
    (hf : frame.length = frameBytes) (hm : marks.length = frameCells)
    (h : PortMakes l y (heardAt time s) (judgeArrival l (max s.clock time) frame marks (heardAt time s))) :
    ∃ t, exec (.arrival l time frame marks) s = .next t ∧
      t = finishFrame (judgeArrival l (max s.clock time) frame marks (heardAt time s)) ∧
      t.clock = max s.clock time ∧ (t.link l).core = y.core ∧
      (t.link (otherLink l)).core = (s.link (otherLink l)).core := by
  have hdone := h.next (finishFrame_core _)
  refine ⟨_, exec_arrival hf hm, rfl, hdone.clock, hdone.link, ?_⟩
  rw [hdone.other, heardAt_link]

/-- R8: the third frame. -/
theorem PortMakes.enterLocked {l : LinkId} {y : Link} {s t : State} (h : PortMakes l y s t) (time : Nat) (f : Frame) :
    PortMakes l
      { (y.timeTaken time).take f with
        score := 8 * f.q, quality := f.q, level := entryLevel s.mgmt.settings f.q } s (enterLocked l time f t) :=
  ((h.take time f).enterQuality f.q).next (handOn_core _ _ _)

/-- Settles O7: the third frame by the take of the port and the entry of the monitor. -/
theorem thirdFrameLocks : Obligations.ThirdFrameLocks := by
  intro s l time frame marks hf hm hears x f hsync hid hfn hcount
  have hlink : (heardAt time s).link l = s.link l := heardAt_link time s l
  have hjudge : judgeArrival l (max s.clock time) frame marks (heardAt time s) =
      enterLocked l (max s.clock time) f (heardAt time s) := by
    rw [judgeArrival_confirm (hlink ▸ hears) (hlink ▸ hsync)]
    exact confirmFrame_locks (hlink ▸ hid) (hlink ▸ hfn) (hlink ▸ hcount.ge)
  have hmakes := (PortMakes.heard l time s).enterLocked (max s.clock time) f
  rw [← hjudge] at hmakes
  obtain ⟨t, hexec, -, -, hcore, hother⟩ := hmakes.arrives hf hm
  refine ⟨t, hexec, hcore.trans ?_, hother⟩
  have htimed : x.timeTaken (max s.clock time) =
      ({ x with window := some (startWindow (max s.clock time)) } : Link).setDue (max s.clock time) :=
    if_neg (by rw [hsync]; decide)
  rw [htimed]
  rfl

/-! ### A far frame -/

/-- R12: what a departure leaves of an entry whose frame then starts a confirmation. -/
theorem PortMakes.resync {l : LinkId} {y : Link} {s t : State} (h : PortMakes l y s t) (f : Frame) :
    PortMakes l
      { y.afterDeparture .confirm with
        sync := .confirm, confirmCount := 1, lastFn := some f.fn, followedId := f.mux } s (resync l f t) :=
  (h.depart .confirm).startConfirm f

theorem syncedFrame_resyncs {l : LinkId} {t : Nat} {f : Frame} {s : State} (hne : (s.link l).followedId ≠ f.mux) :
    syncedFrame l t f s = resync l f s := if_pos hne.symm

theorem syncedFrame_far {l : LinkId} {t : Nat} {f : Frame} {s : State} (hmux : (s.link l).followedId = f.mux)
    (hlo : 8 ≤ fnDist (s.link l).expected f.fn) (hhi : fnDist (s.link l).expected f.fn ≤ 4088) :
    syncedFrame l t f s = resync l f (s.modLink l fun x => { x with resyncs := bump x.resyncs }) := by
  unfold syncedFrame
  dsimp only
  rw [if_neg (not_not_intro hmux.symm), if_neg (by omega), if_neg (by omega), if_pos hhi]

/-- Settles O9: a frame of another multiplex, and one too far ahead. -/
theorem farFrameResyncs : Obligations.FarFrameResyncs := by
  intro s l time frame marks hf hm hears x f d hsynced hfar
  have hlink : (heardAt time s).link l = s.link l := heardAt_link time s l
  have hjudge := judgeArrival_synced (s := heardAt time s) (t := max s.clock time) (marks := marks) (hlink ▸ hears) (hlink ▸ hsynced)
  by_cases hmux : x.followedId = f.mux
  · obtain hne | ⟨hlo, hhi⟩ := hfar
    · exact absurd hmux hne
    rw [syncedFrame_far (hlink ▸ hmux) (hlink ▸ hlo) (hlink ▸ hhi)] at hjudge
    have hmakes := ((PortMakes.heard l time s).modLink
      (f := fun x => { x with resyncs := bump x.resyncs }) fun _ => rfl).resync f
    rw [← hjudge] at hmakes
    obtain ⟨t, hexec, -, -, hcore, hother⟩ := hmakes.arrives hf hm
    refine ⟨t, hexec, hcore.trans ?_, hother⟩
    rw [if_pos hmux]
    rfl
  · rw [syncedFrame_resyncs (hlink ▸ hmux)] at hjudge
    have hmakes := (PortMakes.heard l time s).resync f
    rw [← hjudge] at hmakes
    obtain ⟨t, hexec, -, -, hcore, hother⟩ := hmakes.arrives hf hm
    refine ⟨t, hexec, hcore.trans ?_, hother⟩
    rw [if_neg hmux]
    rfl

/-! ### A frame taken -/

theorem syncedFrame_expected {l : LinkId} {t : Nat} {f : Frame} {s : State} (hmux : (s.link l).followedId = f.mux)
    (hd : fnDist (s.link l).expected f.fn = 0) : syncedFrame l t f s = takeFrame l t f s := by
  unfold syncedFrame
  dsimp only
  rw [if_neg (not_not_intro hmux.symm), if_pos hd]

theorem syncedFrame_gap {l : LinkId} {t : Nat} {f : Frame} {s : State} (hmux : (s.link l).followedId = f.mux)
    (hlo : 1 ≤ fnDist (s.link l).expected f.fn) (hhi : fnDist (s.link l).expected f.fn ≤ 7) :
    syncedFrame l t f s = gapFrame l t (fnDist (s.link l).expected f.fn) f s := by
  unfold syncedFrame
  dsimp only
  rw [if_neg (not_not_intro hmux.symm), if_neg (by omega), if_pos hhi]

theorem gapMisses_succ (l : LinkId) (k : Nat) (s : State) :
    gapMisses l (k + 1) s = if (s.link l).synced then gapMisses l k (declareMiss l s) else s := rfl

theorem gapMisses_add (l : LinkId) (a b : Nat) (s : State) : gapMisses l (a + b) s = gapMisses l b (gapMisses l a s) := by
  induction a generalizing s with
  | zero => rw [Nat.zero_add]; rfl
  | succ a ih =>
    rw [Nat.succ_add, gapMisses_succ, gapMisses_succ]
    by_cases hs : (s.link l).synced = true
    · rw [if_pos hs, if_pos hs, ih]
    · rw [if_neg hs, if_neg hs]
      exact (gapMisses_unsynced (Bool.eq_false_iff.mpr hs) b).symm

/-- A departure forgets what the misses of the gap have done, but for their counts. -/
theorem afterMiss_iterate_departs (st : Settings) (k : Nat) (x : Link) (v : SyncState) :
    ((Link.afterMiss st)^[k] x).afterDeparture v =
      { x.afterDeparture v with consecutive := x.consecutive + k, misses := bump^[k] x.misses } := by
  induction k with
  | zero => rfl
  | succ k ih =>
    rw [Function.iterate_succ_apply', Function.iterate_succ_apply']
    have hstep : (((Link.afterMiss st)^[k] x).afterMiss st).afterDeparture v =
        { ((Link.afterMiss st)^[k] x).afterDeparture v with
          consecutive := ((Link.afterMiss st)^[k] x).consecutive + 1
          misses := bump ((Link.afterMiss st)^[k] x).misses } := rfl
    rw [hstep, ih, (afterMiss_iterate st k x).1, (afterMiss_iterate st k x).2]
    rfl

theorem afterMiss_iterate_coastExpiries (st : Settings) (k : Nat) (x : Link) :
    ((Link.afterMiss st)^[k] x).coastExpiries = x.coastExpiries := by
  induction k with
  | zero => rfl
  | succ k ih =>
    rw [Function.iterate_succ_apply']
    exact ih

/-- R18: the gap in which the coast ends with miss j + 1. -/
theorem PortMakes.gapExpires {l : LinkId} {y : Link} {s t : State} (h : PortMakes l y s t) (hy : y.synced = true)
    {j d : Nat} (hj : 1 ≤ j → y.consecutive + j < s.mgmt.settings.coast)
    (hc : s.mgmt.settings.coast ≤ y.consecutive + j + 1) (hd : j + 1 ≤ d) :
    PortMakes l
      { y.afterDeparture .hunt with
        consecutive := y.consecutive + (j + 1), misses := bump^[j + 1] y.misses
        coastExpiries := bump y.coastExpiries } s (Machine.gapMisses l d t) ∧
    (Machine.gapMisses l d t).mgmt.sticky.coastExpired = true ∧
    (Machine.gapMisses l d t).Noticed (.coastExpired l) := by
  have hbefore := h.gapMisses hy j hj
  have hlast : Machine.gapMisses l (j + 1) t = Machine.declareMiss l (Machine.gapMisses l j t) := by
    rw [gapMisses_add]
    exact if_pos (hbefore.synced.trans (afterMiss_iterate_synced _ j hy))
  obtain ⟨hmakes, hsticky, hnoticed⟩ := hbefore.expiresMiss (by rw [(afterMiss_iterate _ j y).1]; exact hc)
  rw [← hlast] at hmakes hsticky hnoticed
  have hend : ((Machine.gapMisses l (j + 1) t).link l).synced = false := by
    rw [hmakes.synced]
    rfl
  obtain ⟨r, rfl⟩ := Nat.exists_eq_add_of_le hd
  rw [gapMisses_add, gapMisses_unsynced hend]
  refine ⟨?_, hsticky, hnoticed⟩
  rw [← Function.iterate_succ_apply' (Link.afterMiss s.mgmt.settings) j y, afterMiss_iterate_departs,
    afterMiss_iterate_coastExpiries] at hmakes
  exact hmakes

/-- Settles O8: the misses of the gap one by one, then the frame; or the end of the coast in the gap. -/
theorem frameTaken : Obligations.FrameTaken := by
  intro s l time frame marks hf hm hears x f d coast k hsynced hmux hd
  have hlink : (heardAt time s).link l = s.link l := heardAt_link time s l
  have hjudge := judgeArrival_synced (s := heardAt time s) (t := max s.clock time) (marks := marks) (hlink ▸ hears) (hlink ▸ hsynced)
  have hmux' : ((heardAt time s).link l).followedId = f.mux := hlink ▸ hmux
  have hdist : fnDist ((heardAt time s).link l).expected f.fn = d := by rw [hlink]
  have hheard := PortMakes.heard l time s
  refine ⟨fun hstays => ?_, fun hlo hcoast => ?_⟩
  · have hgap := hheard.gapMisses hsynced d hstays
    have hmakes := hgap.takeFrame (max s.clock time) f
    have htaken : judgeArrival l (max s.clock time) frame marks (heardAt time s) =
        takeFrame l (max s.clock time) f (gapMisses l d (heardAt time s)) := by
      rw [hjudge]
      by_cases h0 : d = 0
      · rw [syncedFrame_expected hmux' (hdist.trans h0), h0]
        rfl
      · rw [syncedFrame_gap hmux' (by omega) (by omega), hdist]
        exact if_pos (hgap.synced.trans (afterMiss_iterate_synced _ d hsynced))
    rw [← htaken] at hmakes
    obtain ⟨t, hexec, -, hclock, hcore, hother⟩ := hmakes.arrives hf hm
    exact ⟨t, hexec, hclock, hcore, hother⟩
  · have hk : k = (k - 1) + 1 ∧ (1 ≤ k - 1 → x.consecutive + (k - 1) < coast) ∧
        coast ≤ x.consecutive + (k - 1) + 1 ∧ (k - 1) + 1 ≤ d := by
      have hk : k = if coast ≤ x.consecutive + 1 then 1 else coast - x.consecutive := rfl
      split at hk <;> omega
    obtain ⟨hsucc, hj, hc, hkd⟩ := hk
    obtain ⟨hgap, hsticky, hnoticed⟩ := hheard.gapExpires hsynced hj hc hkd
    rw [← hsucc] at hgap
    have hhunt : ((gapMisses l d (heardAt time s)).link l).synced = false := by
      rw [hgap.synced]
      rfl
    have hstarts : judgeArrival l (max s.clock time) frame marks (heardAt time s) =
        startConfirm l f (gapMisses l d (heardAt time s)) := by
      rw [hjudge, syncedFrame_gap hmux' (by omega) (by omega), hdist]
      exact if_neg (by rw [hhunt]; decide)
    have hmakes := hgap.startConfirm f
    rw [← hstarts] at hmakes
    obtain ⟨t, hexec, ht, -, hcore, hother⟩ := hmakes.arrives hf hm
    rw [hstarts] at ht
    refine ⟨t, hexec, hcore.trans ?_, hother, ?_, ?_⟩
    · have hsame : f.mux = x.followedId := hmux.symm
      rw [hsame]
      rfl
    · let kept := stickyKept (gapMisses l d (heardAt time s)).mgmt.sticky
      rw [ht]
      exact (kept.finishFrame (kept.startConfirm l f hhunt (.refl _))).2.2.2.2.1 hsticky
    · let kept := noticeKept fun n => n.body = .coastExpired l
      rw [ht]
      exact kept.finishFrame (kept.startConfirm l f hhunt hnoticed)

end Sys2Proof.Machine
end

section
/-! SUPPORT. What a route meets when it is not itself the one a request or a map change is about: the passes of the
allocator, the carriers of announcements, the held flag, and the resolution of a route suspended by level. A property
of one route's record that survives the updates of `Settled` survives the announcement controller's operations. -/

namespace Sys2Proof.Machine

/-! ### One route's record -/

/-- A property of the record of route n. -/
def OnRoute (n : Nat) (R : Route → Prop) (s : State) : Prop := R (s.route n)

theorem OnRoute.congr {n : Nat} {R : Route → Prop} {s t : State} (hs : OnRoute n R s) (h : t.routes = s.routes) :
    OnRoute n R t := by
  unfold OnRoute State.route
  rw [h]
  exact hs

/-- A change of route m leaves the record of route n, or changes it as told. -/
theorem OnRoute.modRoute {n : Nat} {R : Route → Prop} {s : State} (m : Nat) (f : Route → Route)
    (hs : OnRoute n R s) (hf : m = n → R (f (s.route n))) : OnRoute n R (s.modRoute m f) := by
  unfold OnRoute
  by_cases hmn : m = n
  · subst hmn
    by_cases hlen : m < s.routes.length
    · rw [State.route_modRoute_same _ _ _ hlen]
      exact hf rfl
    · have hle := Nat.le_of_not_lt hlen
      have hout : (s.modRoute m f).route m = s.route m := by
        exact (List.getD_eq_default _ _ ((List.length_modify _ _ _).trans_le hle)).trans
          (List.getD_eq_default _ _ hle).symm
      rw [hout]
      exact hs
  · rw [State.route_modRoute_other _ _ hmn]
    exact hs

theorem OnRoute.endRun {n : Nat} {R : Route → Prop} {s : State} (m : Nat) (hs : OnRoute n R s)
    (hf : m = n → ∀ r', (s.route n).RunEnded r' → R r') : OnRoute n R (endRun m s) := by
  unfold OnRoute
  by_cases hmn : m = n
  · subst hmn
    exact hf rfl _ (endRun_same m s)
  · rw [endRun_other m s (Ne.symm hmn)]
    exact hs

theorem State.carrierOf_range {s : State} {lane n : Nat} (h : s.carrierOf lane = some n) : 16 ≤ n := by
  have := List.mem_of_find?_eq_some h
  simp only [List.mem_cons, List.not_mem_nil, or_false] at this
  omega

theorem carrierFor_range {s : State} {n : Nat} (h : carrierFor s = some n) : 16 ≤ n := by
  have hmem : n ∈ [16, 17] := by
    unfold carrierFor at h
    split at h
    · exact Option.some.inj h ▸ List.mem_of_find?_eq_some ‹_›
    · exact List.mem_of_find?_eq_some h
  simp only [List.mem_cons, List.not_mem_nil, or_false] at hmem
  omega

theorem boundCarriers_range {s : State} {n : Nat} (h : n ∈ s.boundCarriers) : 16 ≤ n := by
  have := (List.mem_filter.mp h).1
  simp only [List.mem_cons, List.not_mem_nil, or_false] at this
  omega

/-! ### Resolution (R95, R109) -/

/-- What a fresh resolution of a route can leave before the pass of its step. -/
structure Route.Resolved (r r' : Route) : Prop where
  fixed : r'.fixed = r.fixed
  damage : r'.damage = r.damage
  binding : r'.binding = r.binding
  reason : r'.reason = none
  run : r'.run = false
  outcome : (r'.state = .pending ∧ r'.pages = [] ∧ r'.bound = none) ∨ (r'.state = .starved ∧ r'.pages = []) ∨
    (r'.state = .filling ∧ r'.fill = 0 ∧ r'.pages = r.pages ∧ r'.geometry = r.geometry)

theorem resolveRoute_other (x : State × List Nat) {m n : Nat} (hmn : m ≠ n) :
    (resolveRoute x n).1.route m = x.1.route m := by
  unfold resolveRoute
  extract_lets t
  have ht : t.route m = x.1.route m := by
    rw [endRun_other n _ hmn, State.route_modRoute_other _ _ hmn.symm]
  clear_value t
  split
  · unfold toPending
    dsimp only
    rw [endRun_other n _ hmn, State.route_modRoute_other _ _ hmn.symm, ht]
  split
  · dsimp only
    rw [State.route_modRoute_other _ _ hmn.symm, ht]
  · unfold toWaiting
    dsimp only
    rw [State.route_modRoute_other _ _ hmn.symm, ht]

/-- R101: the route after the end of its run, as a change of its record. -/
theorem endRun_record (n : Nat) (s : State) : (endRun n s).route n =
    { s.route n with
      run := false, aborted := ((endRun n s).route n).aborted, lastAbort := ((endRun n s).route n).lastAbort } :=
  (endRun_same n s).eq

theorem resolveRoute_length (x : State × List Nat) (n : Nat) :
    (resolveRoute x n).1.routes.length = x.1.routes.length := by
  unfold resolveRoute
  extract_lets t
  have ht : t.routes.length = x.1.routes.length := by
    rw [endRun_length, State.modRoute_routes, List.length_modify]
  clear_value t
  split
  · unfold toPending
    dsimp only
    rw [endRun_length, State.modRoute_routes, List.length_modify, ht]
  split
  · exact (List.length_modify _ _ _).trans ht
  · exact (List.length_modify _ _ _).trans ht

theorem resolveRoute_resolved (x : State × List Nat) {n : Nat} (hn : n < x.1.routes.length) :
    (x.1.route n).Resolved ((resolveRoute x n).1.route n) := by
  unfold resolveRoute
  extract_lets t
  have ht : t.route n = { x.1.route n with
      reason := none, run := false, aborted := (t.route n).aborted, lastAbort := (t.route n).lastAbort } := by
    have h := endRun_record n (x.1.modRoute n fun r => { r with reason := none })
    rw [State.route_modRoute_same _ _ _ hn] at h
    exact h
  have hlen : n < t.routes.length := by
    rw [endRun_length, State.modRoute_routes, List.length_modify]
    exact hn
  clear_value t
  split
  · unfold toPending
    dsimp only
    rw [endRun_record, State.route_modRoute_same _ _ _ hlen, ht]
    exact ⟨rfl, rfl, rfl, rfl, rfl, .inl ⟨rfl, rfl, rfl⟩⟩
  split
  · dsimp only
    rw [State.route_modRoute_same _ _ _ hlen, ht]
    exact ⟨rfl, rfl, rfl, rfl, rfl, .inr (.inr ⟨rfl, rfl, rfl, rfl⟩)⟩
  · unfold toWaiting
    dsimp only
    rw [State.route_modRoute_same _ _ _ hlen, ht]
    exact ⟨rfl, rfl, rfl, rfl, rfl, .inr (.inl ⟨rfl, rfl⟩)⟩

/-! ### The allocator -/

/-- What a property of a route's record survives of the passes of the allocator. -/
structure Allotted (R : Route → Prop) : Prop where
  grant : ∀ r pages g, R r → r.state = .starved → R (r.grant pages g)
  ended : ∀ r r', R r → r.state = .starved → r.RunEnded r' → R r'

/-- A route that does not wait for pages passes the allocator by. -/
theorem Allotted.of_state {R : Route → Prop} (h : ∀ r, R r → r.state ≠ .starved) : Allotted R where
  grant r _ _ hr hs := absurd hs (h r hr)
  ended r _ hr hs _ := absurd hs (h r hr)

theorem allocTurn_idle {s : State} {m : Nat} (h : (s.route m).state ≠ .starved ∨ (s.route m).bound = none)
    (asks : List Nat) (imm : Option Nat) : allocTurn asks imm s m = s := by
  unfold allocTurn
  split
  · rename_i hstate hbound
    exact absurd hbound (by rw [h.resolve_left (not_not_intro hstate)]; exact nofun)
  · rfl

namespace Allotted

variable {n : Nat} {R : Route → Prop} (h : Allotted R) {s : State} (before : State) (asks : List Nat)
  (imm : Option Nat)
  (hu : imm = some n → ∀ r, R r → R r.unbind)
include h hu

theorem allocTurn (m : Nat) (hs : OnRoute n R s) : OnRoute n R (allocTurn asks imm s m) := by
  by_cases hidle : (s.route m).state ≠ .starved ∨ (s.route m).bound = none
  · rw [allocTurn_idle hidle]
    exact hs
  · rw [not_or, not_not] at hidle
    obtain ⟨hstate, hbound⟩ := hidle
    obtain ⟨lane, hbound⟩ := Option.ne_none_iff_exists'.mp hbound
    by_cases hroom : pageNeed lane.geometry ≤ s.freePages.length
    · rw [allocTurn_grants asks imm hstate hbound hroom]
      exact hs.modRoute m _ fun hmn => h.grant _ _ _ hs (hmn ▸ hstate)
    · rw [allocTurn_refuses asks imm hstate hbound (Nat.lt_of_not_le hroom)]
      have hc : OnRoute n R (countRefusal asks m s) := hs.congr (countRefusal_routes asks m s)
      split
      · exact hc.modRoute m _ fun hmn => hu (hmn ▸ ‹_›) _ hc
      · refine hc.endRun m fun hmn r' hr => ?_
        rw [countRefusal_route] at hr
        exact h.ended _ _ hs (hmn ▸ hstate) hr

theorem allocPass (hs : OnRoute n R s) : OnRoute n R (allocPass asks imm s) :=
  foldl_keeps (fun _ m hb => h.allocTurn asks imm hu m hb) _ s hs

theorem closeWith (hs : OnRoute n R s) : OnRoute n R (closeStep before asks imm s) := by
  unfold Machine.closeStep
  extract_lets returned t
  have ht : OnRoute n R t := by
    unfold t
    split
    · exact h.allocPass asks imm hu hs
    · exact hs
  clear_value t
  split
  · exact ht
  · exact ht

omit hu in
theorem closeStep (hs : OnRoute n R s) : OnRoute n R (closeStep before asks none s) :=
  h.closeWith before asks none nofun hs

end Allotted

/-! ### The updates -/

/-- The updates of route n's record that the allocator and the announcement controller make, but for the
resolution of a route suspended by level. -/
structure Passed (n : Nat) (R : Route → Prop) : Prop extends Allotted R where
  held : ∀ r b, R r → R { r with held := b }
  unbind : 16 ≤ n → ∀ r, R r → R r.unbind
  ask : 16 ≤ n → ∀ r b lane, R r → r.state = .vacant →
    R { r with binding := some b, state := .starved, bound := some lane }
  binding : 16 ≤ n → ∀ r b, R r → R { r with binding := b }
  damage : 16 ≤ n → ∀ r d, R r → R { r with damage := d }

namespace Passed

variable {n : Nat} {R : Route → Prop} (h : Passed n R) {s : State}
include h

/-! ### Sources, removals and the bottom entry -/

theorem unbindRoute (m : Nat) (hm : 16 ≤ m) (hs : OnRoute n R s) : OnRoute n R (s.modRoute m Route.unbind) :=
  hs.modRoute m _ fun hmn => h.unbind (hmn ▸ hm) _ hs

theorem closeAt (before : State) (asks : List Nat) (m : Nat) (hm : 16 ≤ m)
    (hs : OnRoute n R s) : OnRoute n R (Machine.closeStep before asks (some m) s) :=
  h.closeWith before asks (some m) (fun hmn => h.unbind (hm.trans_eq (Option.some.inj hmn))) hs

omit h in
theorem raiseAt (fn : Option Fn) (b : NoticeBody) (hs : OnRoute n R s) : OnRoute n R (s.raiseAt fn b) :=
  hs.congr (State.raiseAt_routes _ fn b)

omit h in
theorem announce (ev : AnnounceEvent) (e : StackEntry) (route : Option Nat) (why : Option RemoveReason)
    (hs : OnRoute n R s) : OnRoute n R (announce ev e route why s) := raiseAt _ _ hs

omit h in
theorem announceProgram (hs : OnRoute n R s) : OnRoute n R (announceProgram s) := by
  unfold Machine.announceProgram
  split
  · exact announce _ _ _ _ hs
  · exact raiseAt _ _ hs

omit h in
theorem setSource (source : Option Nat) (hs : OnRoute n R s) : OnRoute n R (setSource source s) := by
  unfold Machine.setSource
  split
  · exact hs
  · exact hs

theorem setHeld (b : Bool) (hs : OnRoute n R s) : OnRoute n R (setHeld b s) := by
  unfold Machine.setHeld
  split
  · exact hs.modRoute _ _ fun _ => h.held _ b hs
  · exact hs

theorem unbindRoutes (ns : List Nat) (hns : ∀ m ∈ ns, 16 ≤ m) (hs : OnRoute n R s) :
    OnRoute n R (unbindRoutes ns s) := by
  unfold Machine.unbindRoutes
  induction ns generalizing s with
  | nil => exact hs
  | cons m rest ih =>
    exact ih (fun k hk => hns k (.tail _ hk)) (h.unbindRoute m (hns m (.head _)) hs)

theorem releaseCarriers (ns : List Nat) (hns : ∀ m ∈ ns, 16 ≤ m) (hs : OnRoute n R s) :
    OnRoute n R (releaseCarriers ns s) := h.closeStep _ _ (h.unbindRoutes ns hns hs)

theorem releaseBound (hs : OnRoute n R s) : OnRoute n R (Machine.releaseCarriers s.boundCarriers s) :=
  h.releaseCarriers _ (fun _ => boundCarriers_range) hs

omit h in
theorem rereadBottom (hs : OnRoute n R s) : OnRoute n R (rereadBottom s) := by
  unfold Machine.rereadBottom
  split
  · exact hs
  · exact hs

theorem returnToProgram (hs : OnRoute n R s) : OnRoute n R (returnToProgram s) := by
  unfold Machine.returnToProgram
  extract_lets t
  exact announceProgram (s := State.modAnn t _) (h.setHeld false (h.releaseBound hs))

omit h in
theorem removeAt (why : RemoveReason) (i : Nat) (hs : OnRoute n R s) : OnRoute n R (removeAt why s i) := by
  unfold Machine.removeAt
  split
  · exact hs
  · exact announce _ _ _ _ hs

omit h in
theorem removeAll (why : RemoveReason) (ps : List Nat) (hs : OnRoute n R s) :
    OnRoute n R (ps.foldl (Machine.removeAt why) s) := foldl_keeps (fun _ i hb => removeAt why i hb) ps s hs

theorem removeWhere (why : RemoveReason) (p : StackEntry → Bool) (hs : OnRoute n R s) :
    OnRoute n R (removeWhere why p s) := by
  unfold Machine.removeWhere
  extract_lets ps t
  have ht : OnRoute n R t := removeAll why ps hs
  clear_value t
  split
  · exact h.returnToProgram ht
  · exact ht

theorem refreshBottom (hs : OnRoute n R s) : OnRoute n R (refreshBottom s) := by
  unfold Machine.refreshBottom
  extract_lets t
  have ht : OnRoute n R t := rereadBottom hs
  clear_value t
  split
  · exact h.removeWhere _ _ ht
  · exact ht

theorem controllerMapChange (hs : OnRoute n R s) : OnRoute n R (controllerMapChange s) := by
  unfold Machine.controllerMapChange
  extract_lets t u
  exact h.refreshBottom (h.removeWhere _ _ (rereadBottom hs))

/-! ### Matching and evaluation -/

/-- R141: a carrier that is none of the routes changes none. -/
theorem askCarrier (m : Nat) (hm : 16 ≤ m) (lane : Lane) (cls : Nat) (hs : OnRoute n R s) :
    OnRoute n R (askCarrier m lane cls s) := by
  by_cases hlen : m < s.routes.length
  · have hu := h.unbindRoute m hm hs
    refine OnRoute.modRoute m _ hu fun hmn => ?_
    have hvacant : ((s.modRoute m Route.unbind).route n).state = .vacant := by
      subst hmn
      rw [State.route_modRoute_same _ _ _ hlen]
      rfl
    exact h.ask (hmn ▸ hm) _ _ _ hu hvacant
  · have hle := Nat.le_of_not_lt hlen
    refine hs.congr ?_
    show ((s.routes.modify m _).modify m _) = s.routes
    rw [List.modify_eq_self (l := s.routes.modify m _) ((List.length_modify _ _ _).trans_le hle),
      List.modify_eq_self hle]

theorem bindCarrier (m : Nat) (hm : 16 ≤ m) (lane : Lane) (cls : Nat) (hs : OnRoute n R s) :
    OnRoute n R (bindCarrier m lane cls s) := by
  unfold Machine.bindCarrier
  extract_lets u
  have hu : OnRoute n R u := h.closeAt _ _ m hm (h.askCarrier m hm lane cls hs)
  clear_value u
  split
  · split
    · exact hu.modRoute m _ fun hmn => h.damage (hmn ▸ hm) _ _ hu
    · exact hu
  · exact hu

theorem keepCarrier (m cls : Nat) (hm : 16 ≤ m) (hs : OnRoute n R s) : OnRoute n R (keepCarrier m cls s) := by
  unfold Machine.keepCarrier
  extract_lets changed t u others
  have ht : OnRoute n R t := hs.modRoute m _ fun hmn => h.binding (hmn ▸ hm) _ _ hs
  clear_value t
  have hu : OnRoute n R u := by
    unfold u
    split
    · exact ht
    · exact ht
  have hothers : ∀ k ∈ others, 16 ≤ k := fun k hk => boundCarriers_range (List.mem_filter.mp hk).1
  clear_value u others
  split
  · exact hu
  · exact h.releaseCarriers _ hothers hu

theorem matchTo (lane cls : Nat) (hs : OnRoute n R s) : OnRoute n R (matchTo lane cls s) := by
  unfold Machine.matchTo
  split
  · exact h.keepCarrier _ _ (State.carrierOf_range ‹_›) hs
  · split
    · exact h.bindCarrier _ (carrierFor_range ‹_›) _ _ hs
    · exact hs
  · exact hs

omit h in
theorem noteRefusal (cluster cls : Nat) (what : NotedRefusal) (b : NoticeBody) (hs : OnRoute n R s) :
    OnRoute n R (noteRefusal cluster cls what b s) := by
  unfold Machine.noteRefusal
  split
  · split
    · exact hs
    · exact raiseAt _ _ hs
  · exact hs

theorem tryPush (e : LiveEntry) (hs : OnRoute n R s) : OnRoute n R (tryPush e s) := by
  unfold Machine.tryPush
  split
  · exact noteRefusal _ _ _ _ hs
  · extract_lets refusal t entry u v
    have ht : OnRoute n R t := h.matchTo _ _ hs
    have hv : OnRoute n R v := by
      unfold v
      split
      · exact ht
      · exact ht
    clear_value v
    split
    · exact noteRefusal _ _ _ _ ht
    · exact announce _ _ _ _ hv

theorem matchProgram (hs : OnRoute n R s) : OnRoute n R (matchProgram s) := by
  unfold Machine.matchProgram
  split
  · exact hs
  · extract_lets old t u
    have hu : OnRoute n R u := setSource _ (h.releaseBound hs)
    clear_value u
    split
    · exact hu
    · exact announceProgram hu

theorem matchTop (hs : OnRoute n R s) : OnRoute n R (matchTop s) := by
  unfold Machine.matchTop
  split
  · split
    · extract_lets refusal t
      have ht : OnRoute n R t := h.matchTo _ _ hs
      clear_value t
      split
      · exact ht
      · exact noteRefusal _ _ _ _ ht
    · exact hs
  · exact h.matchProgram hs

theorem evaluateRun (hs : OnRoute n R s) : OnRoute n R (evaluateRun s) := by
  unfold Machine.evaluateRun
  extract_lets t
  have ht : OnRoute n R t := by
    unfold t
    split
    · exact h.tryPush _ hs
    · exact hs
  exact h.matchTop ht

/-! ### A change of listening route -/

theorem clearHeld (hs : OnRoute n R s) :
    OnRoute n R { s with routes := s.routes.map fun (r : Route) => { r with held := false } } := by
  unfold OnRoute State.route
  rw [List.getD_eq_getElem?_getD, List.getElem?_map]
  have hr := h.held _ false hs
  unfold State.route at hr
  rw [List.getD_eq_getElem?_getD] at hr
  unfold OnRoute State.route at hs
  rw [List.getD_eq_getElem?_getD] at hs
  cases hget : s.routes[n]? with
  | none =>
    rw [hget] at hs
    exact hs
  | some r =>
    rw [hget] at hr
    exact hr

theorem listeningChanged (hs : OnRoute n R s) : OnRoute n R (listeningChanged s) := by
  unfold Machine.listeningChanged
  extract_lets old ps a b c d e
  have hc : OnRoute n R c := h.clearHeld (h.releaseBound (removeAll .cleared ps hs))
  have hd : OnRoute n R d := by
    unfold d
    split
    · exact hc
    · exact hc
  have he : OnRoute n R e := by
    unfold e
    split
    · exact hd
    · exact announceProgram hd
  exact he

theorem tellController (before : Option Nat) (hs : OnRoute n R s) : OnRoute n R (tellController before s) := by
  unfold Machine.tellController
  split
  · exact h.refreshBottom hs
  · exact h.listeningChanged hs

end Passed

/-- And that of a wake. -/
structure Settled (n : Nat) (R : Route → Prop) : Prop extends Passed n R where
  resumed : n < 16 → ∀ r r', R r → r.reason = some .level → r.Resolved r' → R r'

namespace Settled

variable {n : Nat} {R : Route → Prop} (h : Settled n R) {s : State}
include h

/-- R112: a turn of the resolution of the routes suspended by level. -/
theorem resumeTurn (x : State × List Nat) (m : Nat) (hm : m < 16) (hs : OnRoute n R x.1)
    (hlevel : (x.1.route m).reason = some .level) : OnRoute n R (resolveRoute x m).1 := by
  by_cases hmn : m = n
  · subst hmn
    have hlen : m < x.1.routes.length := by
      by_contra hlen
      have hout : x.1.route m = .reset m := List.getD_eq_default _ _ (Nat.le_of_not_lt hlen)
      rw [hout] at hlevel
      exact absurd hlevel (by simp [Route.reset])
    exact h.resumed hm _ _ hs hlevel (resolveRoute_resolved x hlen)
  · unfold OnRoute
    rw [resolveRoute_other x (Ne.symm hmn)]
    exact hs

theorem resumeRoutes (hs : OnRoute n R s) : OnRoute n R (resumeRoutes s) := by
  unfold Machine.resumeRoutes
  extract_lets x
  have hx : ∀ (ms : List Nat) (y : State × List Nat), (∀ m ∈ ms, m < 16) → OnRoute n R y.1 →
      OnRoute n R (ms.foldl (fun x m => if (x.1.route m).reason = some .level then resolveRoute x m else x) y).1 := by
    intro ms
    induction ms with
    | nil => exact fun _ _ hy => hy
    | cons m rest ih =>
      intro y hms hy
      refine ih _ (fun k hk => hms k (.tail _ hk)) ?_
      dsimp only
      split
      · exact h.resumeTurn y m (hms m (.head _)) hy ‹_›
      · exact hy
  exact h.closeStep _ _ (hx _ _ (fun m hm => List.mem_range.mp hm) hs)

theorem wake (source : WakeSource) (e : Option LiveEntry) (hs : OnRoute n R s) : OnRoute n R (wake source e s) := by
  unfold Machine.wake
  extract_lets t u v
  have ht : OnRoute n R t := hs
  exact h.evaluateRun (Passed.raiseAt _ _ (h.refreshBottom (h.resumeRoutes ht)))

theorem evaluate (hs : OnRoute n R s) : OnRoute n R (evaluate s) := by
  unfold Machine.evaluate
  split
  · exact h.evaluateRun hs
  · split
    · exact h.wake _ _ hs
    · exact hs

theorem settle (hs : OnRoute n R s) : OnRoute n R (settle s) := by
  unfold Machine.settle
  split
  · exact h.evaluate hs
  · exact hs

end Settled

end Sys2Proof.Machine
end

section
/-! SUPPORT. Folds that reach each route once, and operations of the announcement controller that leave the live table
as it is, or change no more of it than the noted refusals. -/

namespace Sys2Proof.Machine

/-! ### Folds that touch one place at a time -/

section Folds

variable {β ρ : Type} {f : β → Nat → β} {π : β → ρ} {n : Nat} (hother : ∀ b m, m ≠ n → π (f b m) = π b)
include hother

theorem foldl_skips (ms : List Nat) (hn : n ∉ ms) (b : β) : π (ms.foldl f b) = π b := by
  induction ms generalizing b with
  | nil => rfl
  | cons m rest ih =>
    rw [List.mem_cons, not_or] at hn
    exact (ih hn.2 _).trans (hother b m (Ne.symm hn.1))

/-- A fold whose steps touch their own place alone comes to the step of a place with that place as it was, and does
not come back to it. -/
theorem foldl_passes (I : β → Prop) (hI : ∀ b m, I b → I (f b m)) (ms : List Nat) (hn : n ∈ ms) (hd : ms.Nodup)
    (b : β) (hb : I b) :
    ∃ c, I c ∧ π c = π b ∧ ∃ rest : List Nat, n ∉ rest ∧ ms.foldl f b = rest.foldl f (f c n) := by
  induction ms generalizing b with
  | nil => cases hn
  | cons m rest ih =>
    obtain ⟨hm, hrest⟩ := List.nodup_cons.mp hd
    by_cases hmn : m = n
    · subst hmn
      exact ⟨b, hb, rfl, rest, hm, rfl⟩
    · obtain ⟨c, hc, hsame, hfold⟩ :=
        ih ((List.mem_cons.mp hn).resolve_left (Ne.symm hmn)) hrest (f b m) (hI b m hb)
      exact ⟨c, hc, hsame.trans (hother b m hmn), hfold⟩

/-- It leaves at a place what its own step does there. -/
theorem foldl_reaches (I : β → Prop) (hI : ∀ b m, I b → I (f b m)) (ms : List Nat) (hn : n ∈ ms) (hd : ms.Nodup)
    (b : β) (hb : I b) : ∃ c, I c ∧ π c = π b ∧ π (ms.foldl f b) = π (f c n) := by
  obtain ⟨c, hc, hsame, rest, hrest, hfold⟩ := foldl_passes hother I hI ms hn hd b hb
  exact ⟨c, hc, hsame, by rw [hfold, foldl_skips hother rest hrest]⟩

end Folds

/-! ### The live table stands -/

/-- A property that any change of the stack keeps. -/
structure Stacked (P : State → Prop) : Prop extends Lower P where
  stack : ∀ s a, P s → a.live = s.ann.live → a.level = s.ann.level → P { s with ann := a }

namespace Stacked

variable {P : State → Prop} (h : Stacked P) {s : State}
include h

theorem rereadBottom (hs : P s) : P (rereadBottom s) := by
  unfold Machine.rereadBottom
  split
  · exact h.stack s _ hs rfl rfl
  · exact hs

theorem removeAt (why : RemoveReason) (i : Nat) (hs : P s) : P (removeAt why s i) := by
  unfold Machine.removeAt
  split
  · exact hs
  · exact h.announce _ _ _ _ (h.dueEval (h.stack s _ hs rfl rfl))

theorem removeAll (why : RemoveReason) (ps : List Nat) (hs : P s) : P (ps.foldl (Machine.removeAt why) s) :=
  foldl_keeps (fun _ i hb => h.removeAt why i hb) ps s hs

theorem removeWhere (why : RemoveReason) (p : StackEntry → Bool) (hs : P s) : P (removeWhere why p s) := by
  unfold Machine.removeWhere
  extract_lets ps t
  have ht : P t := h.removeAll why ps hs
  clear_value t
  split
  · exact h.returnToProgram ht
  · exact ht

theorem refreshBottom (hs : P s) : P (refreshBottom s) := by
  unfold Machine.refreshBottom
  extract_lets t
  have ht : P t := h.rereadBottom hs
  clear_value t
  split
  · exact h.removeWhere _ _ ht
  · exact ht

end Stacked

/-- A property that a change of noted refusals keeps too. -/
structure Noted (P : State → Prop) : Prop extends Stacked P where
  note : ∀ s i w, P s → P (modLive i (fun x => x.map fun e => { e with noted := w }) s)

namespace Noted

variable {P : State → Prop} (h : Noted P) {s : State}
include h

theorem noteRefusal (cluster cls : Nat) (what : NotedRefusal) (b : NoticeBody) (hs : P s) :
    P (noteRefusal cluster cls what b s) := by
  unfold Machine.noteRefusal
  split
  · split
    · exact hs
    · exact h.raiseNow _ (h.note _ _ _ hs)
  · exact hs

theorem tryPush (e : LiveEntry) (hs : P s) : P (tryPush e s) := by
  unfold Machine.tryPush
  split
  · exact h.noteRefusal _ _ _ _ (h.modSticky _ hs)
  · extract_lets refusal t entry u v
    have ht : P t := h.matchTo _ _ hs
    have hu : P u := h.stack t _ ht rfl rfl
    have hv : P v := by
      unfold v
      split
      · exact h.note _ _ _ hu
      · exact hu
    clear_value v
    split
    · exact h.noteRefusal _ _ _ _ ht
    · exact h.announce _ _ _ _ hv

theorem matchTop (hs : P s) : P (matchTop s) := by
  unfold Machine.matchTop
  split
  · split
    · extract_lets refusal t
      have ht : P t := h.matchTo _ _ hs
      clear_value t
      split
      · exact ht
      · exact h.noteRefusal _ _ _ _ ht
    · exact hs
  · exact h.matchProgram hs

theorem evaluateRun (hs : P s) : P (evaluateRun s) := by
  unfold Machine.evaluateRun
  extract_lets t
  have ht : P t := by
    unfold t
    split
    · exact h.tryPush _ hs
    · exact hs
  exact h.modAir _ (h.matchTop ht) rfl rfl rfl

end Noted

/-- A live entry but for its noted refusal. -/
def LiveEntry.sansNote (e : LiveEntry) : LiveEntry := { e with noted := .none }

/-- The level, and the live table but for the noted refusals. -/
theorem liveNoted (lvl : OpLevel) (live : List (Option LiveEntry)) :
    Noted fun s => s.ann.level = lvl ∧ s.ann.live.map (Option.map LiveEntry.sansNote) = live where
  rest _ _ hs _ _ h _ _ := h ▸ hs
  route _ _ _ hs _ := hs
  packets _ _ hs _ := hs
  deliver s i _ n g hs _ _ := by rw [placeGroup_eq]; exact hs
  air _ _ hs _ h2 h3 := ⟨h3.trans hs.1, h2 ▸ hs.2⟩
  stack _ _ hs h1 h2 := ⟨h2.trans hs.1, h1 ▸ hs.2⟩
  note s i w hs := by
    refine ⟨hs.1, ?_⟩
    rw [← hs.2]
    refine List.ext_getElem (by simp [modLive]) fun j h₁ h₂ => ?_
    simp only [modLive, State.modAnn_ann, List.getElem_map, List.getElem_modify]
    split
    · cases (s.ann.live[j]'(by simpa using h₂)) with
      | none => rfl
      | some e => rfl
    · rfl

end Sys2Proof.Machine
end

section
/-! SUPPORT. The wake (R152): what it leaves of level, live table, routes and notices (O51). -/

namespace Sys2Proof.Machine

/-! ### Routes suspended by level -/

/-- A route whose resolution has been asked for and judged. -/
def Route.Resumed (r : Route) : Prop := r.reason = none ∧ r.state ∈ [.pending, .starved, .filling]

theorem Route.Resolved.resumed {r r' : Route} (h : r.Resolved r') : r'.Resumed := by
  refine ⟨h.reason, ?_⟩
  obtain ⟨hs, -⟩ | ⟨hs, -⟩ | ⟨hs, -⟩ := h.outcome
  · simp [hs]
  · simp [hs]
  · simp [hs]

/-- R75: the pass grants a resolved route or leaves it waiting; a later wake does not find it suspended. -/
theorem resumedSettled {n : Nat} (hn : n < 16) : Settled n Route.Resumed where
  held _ _ h := h
  grant _ _ _ h _ := ⟨h.1, by simp [Route.grant]⟩
  ended r r' h hs hr := by
    rw [hr.eq]
    exact h
  unbind hn' := absurd hn' hn.not_ge
  ask hn' := absurd hn' hn.not_ge
  binding hn' := absurd hn' hn.not_ge
  damage hn' := absurd hn' hn.not_ge
  resumed _ _ _ _ _ hr := hr.resumed

/-- A host route that neither waits for pages nor is suspended by level keeps its state and its reason. -/
theorem steadySettled {n : Nat} (hn : n < 16) {c : Option SuspendReason} {d : RouteState} (hc : c ≠ some .level)
    (hd : d ≠ .starved) : Settled n fun r => r.reason = c ∧ r.state = d where
  held _ _ h := h
  grant _ _ _ h hs := absurd (h.2.symm.trans hs) hd
  ended _ _ h hs _ := absurd (h.2.symm.trans hs) hd
  unbind hn' := absurd hn' hn.not_ge
  ask hn' := absurd hn' hn.not_ge
  binding hn' := absurd hn' hn.not_ge
  damage hn' := absurd hn' hn.not_ge
  resumed _ _ _ h hl _ := absurd (h.1.symm.trans hl) hc

/-- One turn of R112's resolution. -/
def resumeStep (x : State × List Nat) (n : Nat) : State × List Nat :=
  if (x.1.route n).reason = some .level then resolveRoute x n else x

theorem resumeStep_other {m n : Nat} (x : State × List Nat) (hmn : m ≠ n) :
    (resumeStep x m).1.route n = x.1.route n := by
  unfold resumeStep
  split
  · exact resolveRoute_other x (Ne.symm hmn)
  · rfl

theorem resumeStep_length (x : State × List Nat) (m : Nat) :
    (resumeStep x m).1.routes.length = x.1.routes.length := by
  unfold resumeStep
  split
  · exact resolveRoute_length x m
  · rfl

theorem resumeRoutes_resumed {s : State} {n : Nat} (hn : n < 16) (hlen : s.routes.length = 18)
    (hlevel : (s.route n).reason = some .level) : ((resumeRoutes s).route n).Resumed := by
  obtain ⟨c, hc, hsame, hfold⟩ := foldl_reaches (f := resumeStep) (π := fun x => x.1.route n)
    (fun x m hmn => resumeStep_other x hmn) (fun x => x.1.routes.length = 18)
    (fun x m hx => (resumeStep_length x m).trans hx) (List.range 16) (List.mem_range.mpr hn) List.nodup_range
    (s, []) hlen
  have hturn : ((resumeStep c n).1.route n).Resumed := by
    unfold resumeStep
    have hc' : (c.1.route n).reason = some .level := hsame ▸ hlevel
    rw [if_pos hc']
    exact (resolveRoute_resolved c (by rw [hc]; omega)).resumed
  exact (resumedSettled hn).closeStep (s := ((List.range 16).foldl resumeStep (s, [])).1) s _
    (hfold.symm ▸ hturn : Route.Resumed _)

/-! ### The wake -/

section Wake

variable (source : WakeSource) (e : Option LiveEntry) (s : State)

/-- R152: the level and the quiet marks as the wake begins. -/
def awake (s : State) : State :=
  s.modAnn fun a => { a with level := .run, live := a.live.map fun x => x.map fun e => { e with quiet := false } }

theorem wake_eq : wake source e s = evaluateRun
    ((refreshBottom (resumeRoutes (awake s))).raise (.wake source (e.map LiveEntry.cls) (e.map LiveEntry.cluster))) :=
  rfl

/-- What the wake does after level and quiet marks, the live table's part of it. -/
theorem wake_live : (wake source e s).ann.level = .run ∧
    (wake source e s).ann.live.map (Option.map LiveEntry.sansNote) =
      (awake s).ann.live.map (Option.map LiveEntry.sansNote) := by
  have h := liveNoted .run ((awake s).ann.live.map (Option.map LiveEntry.sansNote))
  exact h.evaluateRun (h.raiseNow _ (h.refreshBottom (h.resumeRoutes ⟨rfl, rfl⟩)))

theorem wake_quiet : ∀ x ∈ (wake source e s).ann.live, ∀ v, x = some v → v.quiet = false := by
  rintro _ hx v rfl
  have hmem : some v.sansNote ∈ (wake source e s).ann.live.map (Option.map LiveEntry.sansNote) :=
    List.mem_map_of_mem hx
  rw [(wake_live source e s).2] at hmem
  obtain ⟨y, hy, hyv⟩ := List.mem_map.mp hmem
  obtain ⟨z, -, rfl⟩ := List.mem_map.mp hy
  cases z with
  | none => cases hyv
  | some w =>
    have := congrArg LiveEntry.quiet (Option.some.inj hyv)
    exact this.symm

theorem wake_noticed : (wake source e s).Noticed
    (.wake source (e.map LiveEntry.cls) (e.map LiveEntry.cluster)) :=
  (noticeEngine _).evaluateRun (State.noticed_raiseAt _ _ _)

theorem wake_front : SameFront s (wake source e s) :=
  (frontEngine s).wake source e (.refl s)

theorem wake_woken (hlen : s.routes.length = 18) : State.Woken source s (wake source none s) where
  level := (wake_live source none s).1
  quiet := wake_quiet source none s
  noticed := wake_noticed source none s
  resumed _ hn hlevel :=
    have h := resumedSettled hn
    h.evaluateRun (Passed.raiseAt _ _ (h.refreshBottom (resumeRoutes_resumed (s := awake s) hn hlen hlevel)))
  others _ hn hreason hstate := (steadySettled hn hreason hstate).wake source none ⟨rfl, rfl⟩
  links :=
    have h := wake_front source none s
    ⟨h.linkA, h.linkB, h.merge,
      ((trackersRestacked s.leadTracker s.scoutTracker).wake source none ⟨rfl, rfl⟩).1⟩

theorem settle_wake : settle (wake source e s) = wake source e s := by
  unfold settle
  rw [wake_evalDue]
  rfl

end Wake

theorem State.Woken.congr {source : WakeSource} {s s' t t' : State} (h : s.Woken source t)
    (hs : s = { s' with mgmt := s.mgmt }) (ht : t' = { t with mgmt := t'.mgmt, trunk := t'.trunk })
    (hn : t'.trunk.notices = t.trunk.notices) (hk : t'.mgmt.sticky = t.mgmt.sticky) : s'.Woken source t' := by
  have hnoticed : t'.Noticed (.wake source none none) := State.HasNotice.congr h.noticed hn hk
  obtain ⟨level, quiet, -, resumed, others, links⟩ := h
  rw [hs] at resumed others links
  rw [ht]
  rw [ht] at hnoticed
  exact ⟨level, quiet, hnoticed, resumed, others, links⟩

/-! ### LEVEL with code 0 -/

section Level

variable {s : State} {tag : Tag} {code : Byte} (hsv : s.Serves { tag := tag, op := .level code })
include hsv

theorem execLevelRun_serves (hcode : code ≠ 1) : exec (.levelRun tag) s =
    .next (serveLevel code { tag := tag, op := .level code } s) :=
  serveIf_of_serves (isOp := isLevelNot 1) (body := serveLevelOf) hsv (by simpa [isLevelNot] using hcode)

theorem execLevelWatch_serves (hcode : code ≠ 0) : exec (.levelWatch tag) s =
    .next (serveLevel code { tag := tag, op := .level code } s) :=
  serveIf_of_serves (isOp := isLevelNot 0) (body := serveLevelOf) hsv (by simpa [isLevelNot] using hcode)

end Level

section Serve

variable {s : State} (h : s.quiescent) (req : Request)
include h

/-- R173: an unknown code. -/
theorem serveLevel_unknown {code : Byte} (hcode : 2 ≤ code.toNat) :
    serveLevel code req s = answer req (lastOf s .badValue) [] (s.cleared s.mgmt.cursor) := by
  unfold serveLevel
  have h0 : code ≠ 0 := fun hc => by simp [hc] at hcode
  have h1 : code ≠ 1 := fun hc => by simp [hc] at hcode
  rw [if_neg h0, if_neg h1]
  exact replyAfter_of_quiescent (t := dropSelection s) h s req _ _

theorem serveLevel_run (hrun : s.ann.level = .run) :
    serveLevel 0 req s = answer req (lastOf s .ok) [] (s.cleared s.mgmt.cursor) := by
  unfold serveLevel
  dsimp only
  have hlevel : (dropSelection s).ann.level = .run := hrun
  rw [if_pos rfl, hlevel, if_neg (by decide)]
  exact replyAfter_of_quiescent (t := dropSelection s) h s req _ _

theorem serveLevel_watch (hwatch : s.ann.level = .watch) :
    serveLevel 1 req s = answer req (lastOf s .ok) [] (s.cleared s.mgmt.cursor) := by
  unfold serveLevel
  dsimp only
  have hlevel : (dropSelection s).ann.level = .watch := hwatch
  rw [if_neg (by decide), if_pos rfl, hlevel, if_neg (by decide)]
  exact replyAfter_of_quiescent (t := dropSelection s) h s req _ _

omit h in
theorem serveLevel_wakes (hwatch : s.ann.level = .watch) :
    serveLevel 0 req s = answer req (lastOf s .ok) [] (wake .request none (dropSelection s)) := by
  unfold serveLevel
  dsimp only
  rw [if_pos rfl, if_pos (show (dropSelection s).ann.level = .watch from hwatch)]
  unfold replyAfter reply
  rw [settle_wake]
  rfl

end Serve

/-- Settles O51: the wake, from the WAKE input and from LEVEL RUN. -/
theorem wakeCommands : Obligations.WakeCommands := by
  intro s
  refine ⟨fun hrun => ?ignored, fun hwatch hlen => ?input, fun tag code hq hsv => ?request⟩
  case ignored =>
    show execWakeInput s = _
    unfold execWakeInput
    rw [hrun]
  case input =>
    refine ⟨wake .pin none s, ?_, wake_woken .pin s hlen, Management.eq_of_asked (wake_front .pin none s).asked⟩
    show execWakeInput s = _
    unfold execWakeInput
    rw [hwatch]
  case request =>
    refine ⟨fun hcode => ?_, fun hcode hrun => ?_, fun hcode hwatch hlen => ?_⟩
    · have h1 : code ≠ 1 := fun hc => by simp [hc] at hcode
      exact (execLevelRun_serves hsv h1).trans (congrArg _ (serveLevel_unknown hq _ hcode))
    · subst hcode
      exact (execLevelRun_serves hsv (by decide)).trans (congrArg _ (serveLevel_run hq _ hrun))
    · subst hcode
      refine ⟨_, (execLevelRun_serves hsv (by decide)).trans (congrArg _ (serveLevel_wakes _ hwatch)), ?_, rfl⟩
      exact (wake_woken .request (dropSelection s) hlen).congr rfl rfl rfl rfl

end Sys2Proof.Machine
end

section
/-! SUPPORT. What a route is after it has been vacated or suspended, and the action of a held APPLY (O40). -/

namespace Sys2Proof.Machine

/-! ### Queue cuts -/

theorem cutQueue_other {m n : Nat} (hmn : m ≠ n) (s : State) : (cutQueue n s).route m = s.route m :=
  State.route_modRoute_other _ _ hmn.symm

theorem cutQueue_same {n : Nat} {s : State} (hn : n < s.routes.length) :
    (cutQueue n s).route n = { s.route n with queue := (s.route n).queue.filter Item.begun } :=
  State.route_modRoute_same _ _ _ hn

theorem cutQueue_length (n : Nat) (s : State) : (cutQueue n s).routes.length = s.routes.length :=
  List.length_modify _ _ _

/-! ### Vacating -/

/-- What R109 leaves of a route whose queue has been q. -/
structure Route.Vacated (q : List Item) (r : Route) : Prop where
  state : r.state = .vacant
  program : r.program = 0
  reason : r.reason = none
  bound : r.bound = none
  listening : r.listening = false
  pin : r.pin = false
  pages : r.pages = []
  run : r.run = false
  queue : r.queue = q.filter Item.begun

theorem vacateRoute_other {m n : Nat} (hmn : m ≠ n) (s : State) : (vacateRoute n s).route m = s.route m := by
  unfold vacateRoute
  rw [endRun_other n _ hmn, cutQueue_other hmn, State.route_modRoute_other _ _ hmn.symm]

theorem vacateRoute_length (n : Nat) (s : State) : (vacateRoute n s).routes.length = s.routes.length := by
  unfold vacateRoute
  rw [endRun_length, cutQueue_length, State.modRoute_routes, List.length_modify]

theorem vacateRoute_vacated {n : Nat} {s : State} (hn : n < s.routes.length) :
    ((vacateRoute n s).route n).Vacated (s.route n).queue := by
  unfold vacateRoute
  rw [endRun_record, cutQueue_same (by rw [State.modRoute_routes, List.length_modify]; exact hn),
    State.route_modRoute_same _ _ _ hn]
  exact ⟨rfl, rfl, rfl, rfl, rfl, rfl, rfl, rfl, rfl⟩

theorem vacatedSettled {n : Nat} (hn : n < 16) (q : List Item) : Settled n (Route.Vacated q) where
  held _ _ h := ⟨h.1, h.2, h.3, h.4, h.5, h.6, h.7, h.8, h.9⟩
  grant _ _ _ h hs := by rw [h.state] at hs; cases hs
  ended _ _ h hs _ := by rw [h.state] at hs; cases hs
  unbind hn' := absurd hn' hn.not_ge
  ask hn' := absurd hn' hn.not_ge
  binding hn' := absurd hn' hn.not_ge
  damage hn' := absurd hn' hn.not_ge
  resumed _ _ _ h hl _ := by rw [h.reason] at hl; cases hl

/-! ### Suspending -/

/-- What R112 and R116 leave of a route. -/
structure Route.Stopped (why : SuspendReason) (r : Route) : Prop where
  state : r.state = .suspended
  reason : r.reason = some why
  pages : r.pages = []
  run : r.run = false

theorem suspendRoute_other {m n : Nat} (hmn : m ≠ n) (why : SuspendReason) (s : State) :
    (suspendRoute why n s).route m = s.route m := by
  unfold suspendRoute
  extract_lets t
  have ht : t.route m = s.route m := by rw [endRun_other n _ hmn, State.route_modRoute_other _ _ hmn.symm]
  clear_value t
  split
  · exact ht
  · rw [cutQueue_other hmn, ht]

theorem suspendRoute_length (why : SuspendReason) (n : Nat) (s : State) :
    (suspendRoute why n s).routes.length = s.routes.length := by
  unfold suspendRoute
  extract_lets t
  have ht : t.routes.length = s.routes.length := by rw [endRun_length, State.modRoute_routes, List.length_modify]
  clear_value t
  split
  · exact ht
  · rw [cutQueue_length, ht]

/-- A suspended route: its queue is cut unless it listens and the reason is REQUEST (R106). -/
theorem suspendRoute_same (why : SuspendReason) {n : Nat} {s : State} (hn : n < s.routes.length) :
    (suspendRoute why n s).route n =
      { s.route n with
        pages := [], geometry := none, fill := 0, tallies := [], state := .suspended, reason := some why
        bound := none, run := false
        aborted := ((suspendRoute why n s).route n).aborted, lastAbort := ((suspendRoute why n s).route n).lastAbort
        queue := if (s.route n).listening && why = .request then (s.route n).queue
          else (s.route n).queue.filter Item.begun } := by
  unfold suspendRoute
  extract_lets t
  have ht : t.route n = _ := endRun_record n _
  rw [State.route_modRoute_same _ _ _ hn] at ht
  have hlen : n < t.routes.length := by
    rw [endRun_length, State.modRoute_routes, List.length_modify]
    exact hn
  have hl : (t.route n).listening = (s.route n).listening := by rw [ht]; rfl
  change t.route n = { (s.route n).dropPages with
    state := .suspended, reason := some why, bound := none, run := false
    aborted := (t.route n).aborted, lastAbort := (t.route n).lastAbort } at ht
  clear_value t
  rw [hl]
  split
  · exact ht
  · rw [cutQueue_same hlen]
    conv_lhs => rw [ht]
    rfl

theorem suspendRoute_stopped (why : SuspendReason) {n : Nat} {s : State} (hn : n < s.routes.length) :
    ((suspendRoute why n s).route n).Stopped why := by
  rw [suspendRoute_same why hn]
  exact ⟨rfl, rfl, rfl, rfl⟩

theorem stoppedSettled {n : Nat} (hn : n < 16) {why : SuspendReason} (hw : why ≠ .level) :
    Settled n (Route.Stopped why) where
  held _ _ h := ⟨h.1, h.2, h.3, h.4⟩
  grant _ _ _ h hs := by rw [h.state] at hs; cases hs
  ended _ _ h hs _ := by rw [h.state] at hs; cases hs
  unbind hn' := absurd hn' hn.not_ge
  ask hn' := absurd hn' hn.not_ge
  binding hn' := absurd hn' hn.not_ge
  damage hn' := absurd hn' hn.not_ge
  resumed _ _ _ h hl _ := absurd (Option.some.inj (h.reason.symm.trans hl)) hw

/-- The fields that only a write, an APPLY or the level changes of a host route. -/
theorem fixedSettled {n : Nat} (hn : n < 16) (r₀ : Route) : Settled n fun r => r.fixed = r₀.fixed where
  held _ _ h := h
  grant _ _ _ h _ := h
  ended _ _ h _ hr := by rw [hr.eq]; exact h
  unbind hn' := absurd hn' hn.not_ge
  ask hn' := absurd hn' hn.not_ge
  binding hn' := absurd hn' hn.not_ge
  damage hn' := absurd hn' hn.not_ge
  resumed _ _ _ h _ hr := hr.fixed.trans h

/-! ### The marked routes -/

section Marked

variable (s : State) (kind : ApplyKind)

theorem mem_markedRoutes {n : Nat} : n ∈ markedRoutes s ↔ s.Marked n := by
  unfold markedRoutes State.Marked
  simp only [List.mem_filter, List.mem_range, Bool.and_eq_true, Bool.not_eq_true', Option.any_eq_true,
    decide_eq_true_eq]
  constructor
  · rintro ⟨hn, ⟨⟨⟨a, ha, han⟩, b, hb, hnb⟩, hu⟩, hv⟩
    exact ⟨a, b, ha, hb, han, hnb, hn, by simpa using hu, hv⟩
  · rintro ⟨a, b, ha, hb, han, hnb, hn, hu, hv⟩
    exact ⟨hn, ⟨⟨⟨a, ha, han⟩, b, hb, hnb⟩, by simpa using hu⟩, hv⟩

theorem mem_applyTargets {n : Nat} : n ∈ applyTargets kind s ↔ s.Marked n ∧
    (kind = .release → (s.route n).pin = false) ∧ (kind = .suspend → (s.route n).reason ≠ some .request) ∧
    (kind = .engage → (s.route n).state = .suspended) := by
  unfold applyTargets
  rw [List.mem_filter, mem_markedRoutes]
  cases kind with
  | release => simp
  | suspend => simp
  | engage => simp

theorem applyTargets_nodup : (applyTargets kind s).Nodup := (List.nodup_range.filter _).filter _

theorem applyTargets_lt {n : Nat} (h : n ∈ applyTargets kind s) : n < 16 := by
  obtain ⟨⟨_, _, _, _, _, _, hn, _⟩, -⟩ := (mem_applyTargets s kind).mp h
  exact hn

theorem pinnedSkipped_pos : 0 < pinnedSkipped kind s ↔ kind = .release ∧ ∃ n, s.Marked n ∧ (s.route n).pin = true := by
  cases kind with
  | release => simp [pinnedSkipped, List.length_pos_iff_exists_mem, mem_markedRoutes]
  | suspend => simp [pinnedSkipped]
  | engage => simp [pinnedSkipped]

end Marked

/-! ### The step of the action -/

section Step

variable {s : State} (kind : ApplyKind) {n : Nat}

/-- R116: a host route that the action does not change. -/
theorem applyStep_skips {R : Route → Prop} (h : Settled n R) (hn : n ∉ applyTargets kind s) (hs : OnRoute n R s) :
    OnRoute n R (applyStep kind s) := by
  unfold applyStep
  extract_lets ns x
  have skips : ∀ {β : Type} (f : β → Nat → β) (π : β → Route) (b : β), (∀ b m, m ≠ n → π (f b m) = π b) →
      R (π b) → R (π (ns.foldl f b)) := fun f π b hother hb => by
    rw [foldl_skips (f := f) (π := π) hother ns hn b]
    exact hb
  split
  · exact h.closeStep _ _ (skips (fun s n => vacateRoute n s) (fun t => t.route n) s
      (fun b m hm => vacateRoute_other (Ne.symm hm) b) hs)
  · exact h.closeStep _ _ (skips (fun s n => suspendRoute .request n s) (fun t => t.route n) s
      (fun b m hm => suspendRoute_other (Ne.symm hm) _ b) hs)
  · exact h.closeStep _ _ (skips resolveRoute (fun t => t.1.route n) (s, [])
      (fun b m hm => resolveRoute_other b (Ne.symm hm)) hs)

variable (hlen : s.routes.length = 18)
include hlen

theorem applyStep_release (hn : n ∈ applyTargets .release s) :
    OnRoute n (Route.Vacated (s.route n).queue) (applyStep .release s) := by
  have hlt := applyTargets_lt s _ hn
  obtain ⟨c, hc, hsame, hfold⟩ := foldl_reaches (f := fun s n => vacateRoute n s) (π := fun t => t.route n)
    (fun b m hm => vacateRoute_other (Ne.symm hm) b) (fun t => t.routes.length = 18)
    (fun b m hb => (vacateRoute_length m b).trans hb) _ hn (applyTargets_nodup s _) s hlen
  refine (vacatedSettled hlt _).closeStep _ _ ?_
  unfold OnRoute
  rw [hfold, ← hsame]
  exact vacateRoute_vacated (by rw [hc]; omega)

theorem applyStep_suspend (hn : n ∈ applyTargets .suspend s) :
    OnRoute n (Route.Stopped .request) (applyStep .suspend s) := by
  have hlt := applyTargets_lt s _ hn
  obtain ⟨c, hc, -, hfold⟩ := foldl_reaches (f := fun s n => suspendRoute .request n s) (π := fun t => t.route n)
    (fun b m hm => suspendRoute_other (Ne.symm hm) _ b) (fun t => t.routes.length = 18)
    (fun b m hb => (suspendRoute_length _ m b).trans hb) _ hn (applyTargets_nodup s _) s hlen
  refine (stoppedSettled hlt (by decide)).closeStep _ _ ?_
  unfold OnRoute
  rw [hfold]
  exact suspendRoute_stopped _ (by rw [hc]; omega)

theorem applyStep_engage (hn : n ∈ applyTargets .engage s) : OnRoute n Route.Resumed (applyStep .engage s) := by
  have hlt := applyTargets_lt s _ hn
  obtain ⟨c, hc, -, hfold⟩ := foldl_reaches (f := resolveRoute) (π := fun t => t.1.route n)
    (fun b m hm => resolveRoute_other b (Ne.symm hm)) (fun t => t.1.routes.length = 18)
    (fun b m hb => (resolveRoute_length b m).trans hb) _ hn (applyTargets_nodup s _) (s, []) hlen
  refine (resumedSettled hlt).closeStep (s := ((applyTargets .engage s).foldl resolveRoute (s, [])).1) _ _ ?_
  unfold OnRoute
  rw [hfold]
  exact (resolveRoute_resolved c (by rw [hc]; omega)).resumed

end Step

/-! ### The held APPLY -/

/-- No APPLY is held. -/
def State.unheld (s : State) : State := { s with mgmt := { s.mgmt with held := none, applyDue := false } }

/-- The state in which the reply of a held APPLY is formed. -/
@[irreducible] def actedOn (kind : ApplyKind) (s : State) : State :=
  let t := applyStep kind s.unheld
  let t := settle (tellController s.listening t)
  { t with mgmt := { t.mgmt with selection := .idle } }

theorem actApply_eq {s : State} {kind : ApplyKind} {req : Request} {rest : List Request}
    (hheld : s.mgmt.held = some kind) (hreq : s.mgmt.requests = req :: rest) :
    actApply s = answer req { outcome := .ok, sequenceReset := false, pinSkip := 0 < pinnedSkipped kind s }
      [selectionCell s.mgmt.selection (applyTargets kind s).length (pinnedSkipped kind s)] (actedOn kind s) := by
  unfold actApply actedOn
  rw [hheld, hreq]
  rfl

/-- Besides routes, assembler, store and controller, the action changes notices and sticky flags alone. -/
theorem actedOn_front (kind : ApplyKind) (s : State) :
    SameFront { s with mgmt := { s.mgmt with held := none, applyDue := false, selection := .idle } }
      (actedOn kind s) := by
  have h := frontEngine s.unheld
  have ht := h.settle (h.tellController s.listening (h.applyStep kind (.refl _)))
  unfold actedOn
  refine ⟨⟨ht.1.1, ht.1.2, ht.1.3, ht.1.4, ht.1.5, ht.1.6, ht.1.7⟩, ?_, ht.egress⟩
  have hm := Management.eq_of_asked ht.asked
  dsimp only
  rw [hm]
  rfl

theorem OnRoute.actedOn {R : Route → Prop} {n : Nat} {kind : ApplyKind} {s : State} (h : Settled n R)
    (hs : OnRoute n R (applyStep kind s.unheld)) :
    OnRoute n R (actedOn kind s) := by
  unfold Machine.actedOn
  exact h.settle (h.tellController _ hs)

/-- Settles O40: the action of the held APPLY, marked routes, unmarked routes and reply. -/
theorem applyActs : Obligations.ApplyActs := by
  intro s req rest kind
  refine ⟨fun hdue => ?idle, fun hlen hdue hheld hreq => ?acts⟩
  case idle =>
    show Host.Outcome.next (actIfDue s) = _
    unfold actIfDue
    rw [hdue]
    rfl
  case acts =>
    intro changed skipped
    have hexec : exec .applyAction s = .next (actApply s) := by
      show Host.Outcome.next (actIfDue s) = _
      unfold actIfDue
      rw [if_pos hdue]
    rw [actApply_eq hheld hreq] at hexec
    have hf := actedOn_front kind s
    have hm := Management.eq_of_asked hf.asked
    have hx : (actedOn kind s).trunk.replies = s.trunk.replies := by
      have h := congrArg Trunk.replies (Trunk.eq_of_egress hf.egress)
      exact h
    refine ⟨_, hexec, ?_, ?_, ?_, ?_, ?_, fun n => mem_applyTargets s kind, rfl, pinnedSkipped_pos s kind,
      fun n hn => ⟨fun hk hp => ?release, fun hk hp => ?suspend, fun hk hp => ?engage⟩, fun n hlt hn => ?unmarked⟩
    · exact congrArg Management.held hm
    · exact congrArg Management.applyDue hm
    · exact congrArg Management.selection hm
    · rw [answer_requests, congrArg Management.requests hm]
      exact congrArg (List.drop 1) hreq
    · exact congrArg (· ++ _) hx
    case release =>
      subst hk
      have hmem := (mem_applyTargets s .release).mpr ⟨hn, fun _ => hp, nofun, nofun⟩
      have h := (applyStep_release (s := s.unheld) hlen
        hmem).actedOn (vacatedSettled (applyTargets_lt s _ hmem) _)
      exact ⟨h.state, h.program, h.listening, h.pages, h.run, h.queue⟩
    case suspend =>
      subst hk
      have hmem := (mem_applyTargets s .suspend).mpr ⟨hn, nofun, fun _ => hp, nofun⟩
      have h := (applyStep_suspend (s := s.unheld) hlen
        hmem).actedOn (stoppedSettled (applyTargets_lt s _ hmem) (by decide))
      exact ⟨h.state, h.reason, h.pages, h.run⟩
    case engage =>
      subst hk
      have hmem := (mem_applyTargets s .engage).mpr ⟨hn, nofun, nofun, fun _ => hp⟩
      exact (applyStep_engage (s := s.unheld) hlen
        hmem).actedOn (resumedSettled (applyTargets_lt s _ hmem))
    case unmarked =>
      have hmem : n ∉ applyTargets kind s := fun h => hn ((mem_applyTargets s kind).mp h).1
      have h := (applyStep_skips (s := s.unheld) kind
        (fixedSettled hlt (s.route n)) hmem rfl).actedOn (fixedSettled hlt _)
      unfold OnRoute Route.fixed at h
      simp only [Prod.mk.injEq] at h
      obtain ⟨hprogram, hcomponent, hchannel, hlistening, hpin, -, -⟩ := h
      exact ⟨hprogram, hcomponent, hchannel, hpin, hlistening⟩

end Sys2Proof.Machine
end

section
/-! SUPPORT. Removals from the interruption stack (R145): the stack they leave, and the notice of the top's. -/

namespace Sys2Proof.Machine

/-- The stack without the announcements that satisfy p. -/
def stackWithout (p : StackEntry → Bool) (st : List StackEntry) : List StackEntry :=
  st.take 1 ++ (st.drop 1).filter fun e => !p e

theorem stackWithout_nil (p : StackEntry → Bool) : stackWithout p [] = [] := rfl

theorem stackWithout_cons (p : StackEntry → Bool) (b : StackEntry) (rest : List StackEntry) :
    stackWithout p (b :: rest) = b :: rest.filter fun e => !p e := rfl

theorem stackWithout_true (st : List StackEntry) : stackWithout (fun _ => true) st = st.take 1 := by
  simp [stackWithout]

theorem stackWithout_length_le (p : StackEntry → Bool) (st : List StackEntry) :
    (stackWithout p st).length ≤ st.length := by
  cases st with
  | nil => exact le_rfl
  | cons b rest => simpa [stackWithout_cons] using List.length_filter_le _ _

/-- Erasures from the top down of a stack leave what is put on top of it. -/
theorem foldl_eraseIdx_append (ps : List Nat) (st : List StackEntry) (x : StackEntry)
    (hd : ps.Pairwise (· > ·)) (hlt : ∀ i ∈ ps, i < st.length) :
    ps.foldl List.eraseIdx (st ++ [x]) = ps.foldl List.eraseIdx st ++ [x] := by
  induction ps generalizing st with
  | nil => rfl
  | cons i rest ih =>
    obtain ⟨hi, hrest⟩ := List.pairwise_cons.mp hd
    have hlen := hlt i (.head _)
    rw [List.foldl_cons, List.foldl_cons, List.eraseIdx_append_of_lt_length hlen]
    refine ih (st.eraseIdx i) hrest fun j hj => ?_
    rw [List.length_eraseIdx_of_lt hlen]
    have := hi j hj
    omega

theorem positionsFromTop_nil (p : StackEntry → Bool) : positionsFromTop p [] = [] := rfl

theorem positionsFromTop_concat (p : StackEntry → Bool) (st : List StackEntry) (x : StackEntry) :
    positionsFromTop p (st ++ [x]) =
      (if 0 < st.length && p x then [st.length] else []) ++ positionsFromTop p st := by
  unfold positionsFromTop
  rw [List.length_append, List.length_singleton, List.range_succ, List.filter_append, List.reverse_append]
  congr 1
  · rw [List.filter_singleton, List.getElem?_concat_length]
    simp only [Option.any_some]
    cases decide (0 < st.length) && p x with
    | false => rfl
    | true => rfl
  · refine congrArg List.reverse (List.filter_congr fun i hi => ?_)
    rw [List.getElem?_append_left (List.mem_range.mp hi)]

theorem positionsFromTop_sorted (p : StackEntry → Bool) (st : List StackEntry) :
    (positionsFromTop p st).Pairwise (· > ·) :=
  List.pairwise_reverse.mpr (List.pairwise_lt_range.filter _)

theorem positionsFromTop_lt {p : StackEntry → Bool} {st : List StackEntry} {i : Nat}
    (h : i ∈ positionsFromTop p st) : i < st.length := by
  unfold positionsFromTop at h
  exact List.mem_range.mp (List.mem_filter.mp (List.mem_reverse.mp h)).1

theorem foldl_eraseIdx_positions (p : StackEntry → Bool) (st : List StackEntry) :
    (positionsFromTop p st).foldl List.eraseIdx st = stackWithout p st := by
  induction st using List.reverseRecOn with
  | nil => rfl
  | append_singleton st x ih =>
    have htail := foldl_eraseIdx_append _ st x (positionsFromTop_sorted p st) fun _ => positionsFromTop_lt
    rw [positionsFromTop_concat]
    cases st with
    | nil => rfl
    | cons b rest =>
      by_cases hp : p x = true
      · rw [if_pos (by simp [hp])]
        rw [List.singleton_append, List.foldl_cons, List.eraseIdx_append_of_length_le le_rfl, Nat.sub_self]
        simp only [List.eraseIdx_cons_zero, List.append_nil]
        rw [ih, List.cons_append, stackWithout_cons, stackWithout_cons, List.filter_append]
        simp [hp]
      · rw [if_neg (by simp [hp]), List.nil_append, htail, ih, List.cons_append, stackWithout_cons,
          stackWithout_cons, List.filter_append, List.cons_append]
        simp [hp]

theorem positionsFromTop_eq_nil_iff (p : StackEntry → Bool) (st : List StackEntry) :
    positionsFromTop p st = [] ↔ ∀ e ∈ st.drop 1, p e = false := by
  induction st using List.reverseRecOn with
  | nil => simp [positionsFromTop_nil]
  | append_singleton st x ih =>
    rw [positionsFromTop_concat, List.append_eq_nil_iff, ih]
    cases st with
    | nil => simp
    | cons b rest =>
      rw [List.cons_append, List.drop_one, List.tail_cons, List.drop_one, List.tail_cons]
      by_cases hp : p x = true
      · simp [hp]
      · rw [Bool.not_eq_true] at hp
        simp only [hp, Bool.and_false, Bool.false_eq_true, if_false, true_and, List.mem_append, List.mem_singleton]
        refine ⟨fun h e he => he.elim (h e) fun hx => hx ▸ hp, fun h e he => h e (.inl he)⟩

/-! ### On the state -/

section Removals

variable (why : RemoveReason) (s : State)

theorem removeAt_stack (i : Nat) : (removeAt why s i).ann.stack = s.ann.stack.eraseIdx i := by
  unfold removeAt
  cases h : s.ann.stack[i]? with
  | none => exact (List.eraseIdx_of_length_le (List.getElem?_eq_none_iff.mp h)).symm
  | some e =>
    unfold announce State.raise
    rw [State.raiseAt_ann]
    rfl

theorem removeAll_stack (ps : List Nat) :
    (ps.foldl (removeAt why) s).ann.stack = ps.foldl List.eraseIdx s.ann.stack := by
  induction ps generalizing s with
  | nil => rfl
  | cons i rest ih => rw [List.foldl_cons, List.foldl_cons, ih, removeAt_stack]

theorem removeAll_positions_stack (p : StackEntry → Bool) :
    ((positionsFromTop p s.ann.stack).foldl (removeAt why) s).ann.stack = stackWithout p s.ann.stack := by
  rw [removeAll_stack, foldl_eraseIdx_positions]

/-- A release of carriers and the sources leave stack, live table and level. -/
theorem returnToProgram_stack : (returnToProgram s).ann.stack = s.ann.stack :=
  ((airOnly _ _ _).returnToProgram ⟨rfl, rfl, rfl⟩).1

theorem removeWhere_stack (p : StackEntry → Bool) :
    (removeWhere why p s).ann.stack = stackWithout p s.ann.stack := by
  unfold removeWhere
  extract_lets ps t
  have ht : t.ann.stack = stackWithout p s.ann.stack := removeAll_positions_stack why s p
  clear_value t
  split
  · rw [returnToProgram_stack, ht]
  · exact ht

/-- R145: the removal of the top is noticed, with the route that was bound to its lane. -/
theorem removeAt_noticed {e : StackEntry} {i : Nat} (h : s.ann.stack[i]? = some e) :
    (removeAt why s i).Noticed (.announce .remove (some (e.cls.getD 8)) (some e.cluster) e.lane (s.routeOf e)
      (s.ann.stack.length - 1) (some why)) := by
  have hlen : (s.ann.stack.eraseIdx i).length = s.ann.stack.length - 1 :=
    List.length_eraseIdx_of_lt (List.getElem?_eq_some_iff.mp h).1
  unfold removeAt
  rw [h, ← hlen]
  exact State.noticed_raiseAt _ _ _

theorem removeWhere_noticed (p : StackEntry → Bool) {st : List StackEntry} {e : StackEntry} (hne : st ≠ [])
    (hst : s.ann.stack = st ++ [e]) (hp : p e = true) :
    (removeWhere why p s).Noticed (.announce .remove (some (e.cls.getD 8)) (some e.cluster) e.lane (s.routeOf e)
      (s.ann.stack.length - 1) (some why)) := by
  have hlen : 0 < st.length := List.length_pos_iff.mpr hne
  have hps : positionsFromTop p s.ann.stack = st.length :: positionsFromTop p st := by
    rw [hst, positionsFromTop_concat, if_pos (by simp [hp, hlen])]
    rfl
  have hfirst := removeAt_noticed why s (i := st.length) (e := e) (by rw [hst, List.getElem?_concat_length])
  have hall : ((positionsFromTop p s.ann.stack).foldl (removeAt why) s).Noticed (.announce .remove
      (some (e.cls.getD 8)) (some e.cluster) e.lane (s.routeOf e) (s.ann.stack.length - 1) (some why)) := by
    rw [hps, List.foldl_cons]
    exact (noticeEngine _).removeAll why _ hfirst
  unfold removeWhere
  extract_lets ps t
  have ht : t.Noticed _ := hall
  clear_value t
  split
  · exact (noticeEngine _).returnToProgram ht
  · exact ht

end Removals

end Sys2Proof.Machine
end

section
/-! SUPPORT. What a change of role or a departure of a link that does not hold LEAD reaches: that link, its held
frames, the scout tracker's target, notices and flags (R12, R49). -/

namespace Sys2Proof.Machine

/-! ### Beside the link -/

/-- The part but for the links, the held frames, the scout tracker's target, notices and sticky flags. -/
def State.sansPort (s : State) : State :=
  { s with
    linkA := .reset .off, linkB := .reset .off
    merge := { s.merge with held := [] }
    scoutTracker := { s.scoutTracker with target := none }
    trunk := s.trunk.egress
    mgmt := s.mgmt.asked }

/-- The other link and all that does not belong to link l stand. -/
structure Beside (l : LinkId) (s t : State) : Prop where
  other : t.link (otherLink l) = s.link (otherLink l)
  rest : t.sansPort = s.sansPort

namespace Beside

variable {l : LinkId} {s t u : State}

theorem refl (l : LinkId) (s : State) : Beside l s s := ⟨rfl, rfl⟩

theorem trans (h : Beside l s t) (h' : Beside l t u) : Beside l s u :=
  ⟨h'.other.trans h.other, h'.rest.trans h.rest⟩

/-- What `sansPort` keeps is the same. -/
theorem part (h : Beside l s t) {α : Type} (f : State → α) : f t.sansPort = f s.sansPort := congrArg f h.rest

theorem leadTracker (h : Beside l s t) : t.leadTracker = s.leadTracker := h.part State.leadTracker
theorem store (h : Beside l s t) : t.store = s.store := h.part State.store
theorem routes (h : Beside l s t) : t.routes = s.routes := h.part State.routes
theorem packets (h : Beside l s t) : t.packets = s.packets := h.part State.packets
theorem ann (h : Beside l s t) : t.ann = s.ann := h.part State.ann
theorem roles (h : Beside l s t) : t.roles = s.roles := h.part State.roles
theorem clock (h : Beside l s t) : t.clock = s.clock := h.part State.clock
theorem asked (h : Beside l s t) : t.mgmt.asked = s.mgmt.asked := h.part State.mgmt
theorem egress (h : Beside l s t) : t.trunk.egress = s.trunk.egress := h.part State.trunk

theorem merge (h : Beside l s t) : t.merge = { s.merge with held := t.merge.held } := by
  have hm : { t.merge with held := [] } = { s.merge with held := [] } := h.part State.merge
  cases ht : t.merge
  cases hs : s.merge
  rw [ht, hs] at hm
  simpa using hm

theorem scoutTracker (h : Beside l s t) :
    t.scoutTracker = { s.scoutTracker with target := t.scoutTracker.target } := by
  have hm : { t.scoutTracker with target := none } = { s.scoutTracker with target := none } :=
    h.part State.scoutTracker
  cases ht : t.scoutTracker
  cases hs : s.scoutTracker
  rw [ht, hs] at hm
  simpa using hm

theorem lastQ (h : Beside l s t) : t.lastQ = s.lastQ := by
  unfold State.lastQ
  rw [h.merge]

end Beside

section Steps

variable (l : LinkId) (s : State)

theorem State.raiseAt_sansPort (fn : Option Fn) (b : NoticeBody) : (s.raiseAt fn b).sansPort = s.sansPort := by
  unfold State.raiseAt
  dsimp only
  split
  · rfl
  · rfl

theorem modLink_beside (f : Link → Link) : Beside l s (s.modLink l f) := by
  cases l
  · exact ⟨rfl, rfl⟩
  · exact ⟨rfl, rfl⟩

theorem raiseAt_beside (fn : Option Fn) (b : NoticeBody) : Beside l s (s.raiseAt fn b) :=
  ⟨by cases l <;> simp [State.link, otherLink], State.raiseAt_sansPort _ _ _⟩

theorem setRole_beside (r : Role) : Beside l s (setRole l r s) := modLink_beside l s _

theorem setLevel_beside (v : QLevel) : Beside l s (setLevel l v s) := by
  unfold setLevel
  extract_lets old t
  have ht : Beside l s t := modLink_beside l s _
  clear_value t
  split
  · exact ht
  · exact ht.trans (raiseAt_beside l t _ _)

theorem portDepart_beside (v : SyncState) : Beside l s (portDepart l v s) :=
  (modLink_beside l s _).trans (setLevel_beside l _ _)

theorem clearTarget_beside : Beside l s (clearTarget .scout s) := ⟨by cases l <;> rfl, rfl⟩

theorem dropHeld_beside : Beside l s (dropHeld (fun h => h.link = l) s) := by
  refine ⟨?_, ?_⟩
  · rw [dropHeld_link]
    have hnone : (s.merge.held.filter fun h => h.link = l && h.link = otherLink l) = [] := by
      refine List.filter_eq_nil_iff.mpr fun h _ => ?_
      cases l <;> cases h.link <;> simp [otherLink]
    simp [hnone]
  · have h := congrArg State.sansPort (dropHeld_links (fun h => h.link = l) s)
    rw [dropHeld_merge] at h
    exact h

theorem depart_beside (v : SyncState) (h : (s.link l).role ≠ .lead) : Beside l s (depart l v s) := by
  unfold depart
  extract_lets t
  have ht : Beside l s t := portDepart_beside l s v
  have hrole : (t.link l).role = (s.link l).role := by
    unfold t portDepart
    rw [setLevel_role, State.link_modLink]
  clear_value t
  split
  · exact absurd (hrole.symm.trans ‹_›) h
  · exact ht.trans (dropHeld_beside l t)
  · exact ht.trans (clearTarget_beside l t)
  · exact ht

theorem goHunt_beside (h : (s.link l).role ≠ .lead) : Beside l s (goHunt l s) := by
  unfold goHunt
  split
  · exact depart_beside l s _ h
  · exact modLink_beside l s _

theorem leavePartner_beside : Beside l s (leavePartner l s) := by
  unfold leavePartner
  split
  · exact dropHeld_beside l s
  · exact .refl l s

/-! ### The held frames -/

/-- The held frames of a partner that departs are dropped, and no other. -/
theorem goHunt_held (h : (s.link l).role ≠ .lead) : (goHunt l s).merge.held = s.merge.held ∨
    (s.link l).role = .partner ∧ (goHunt l s).merge.held = s.merge.held.filter fun x => x.link ≠ l := by
  unfold goHunt
  split
  · unfold depart
    extract_lets t
    have hrole : (t.link l).role = (s.link l).role := by
      unfold t portDepart
      rw [setLevel_role, State.link_modLink]
    have hmerge : t.merge = s.merge := by
      unfold t portDepart setLevel
      dsimp only
      split
      · simp
      · simp [State.raise]
    clear_value t
    split
    · exact absurd (hrole.symm.trans ‹_›) h
    · refine .inr ⟨hrole.symm.trans ‹_›, ?_⟩
      rw [dropHeld_merge, hmerge]
      simp
    · exact .inl (congrArg MergeStage.held hmerge)
    · exact .inl (congrArg MergeStage.held hmerge)
  · exact .inl (by simp)

theorem leavePartner_held : (leavePartner l s).merge.held =
    if (s.link l).role = .partner then s.merge.held.filter fun x => x.link ≠ l else s.merge.held := by
  unfold leavePartner
  split
  · rw [dropHeld_merge]
    simp
  · rfl

theorem leavePartner_goHunt_held (h : (s.link l).role ≠ .lead) : (leavePartner l (goHunt l s)).merge.held =
    if (s.link l).role = .partner then s.merge.held.filter fun x => x.link ≠ l else s.merge.held := by
  rw [leavePartner_held, goHunt_role]
  obtain hsame | ⟨hp, hdrop⟩ := goHunt_held l s h
  · rw [hsame]
  · rw [hdrop, if_pos hp, if_pos hp, List.filter_filter]
    simp

theorem leavePartner_sync (m : LinkId) : ((leavePartner l s).link m).sync = (s.link m).sync := by
  unfold leavePartner
  split
  · rw [dropHeld_link]
  · rfl

theorem goHunt_sync : ((goHunt l s).link l).sync = .hunt := by
  unfold goHunt
  split
  · exact depart_sync l .hunt s
  · rw [State.link_modLink]

end Steps

/-! ### The role becomes OFF -/

section Off

variable {l : LinkId} {s : State}

theorem changeRole_off_eq : changeRole l .off s = clearMarks (setRole l .off (leavePartner l (goHunt l s))) := rfl

theorem changeRole_off_beside (h : (s.link l).role ≠ .lead) :
    Beside l s (setRole l .off (leavePartner l (goHunt l s))) :=
  ((goHunt_beside l s h).trans (leavePartner_beside l _)).trans (setRole_beside l _ _)

theorem changeRole_off_link : ((changeRole l .off s).link l).role = .off ∧
    ((changeRole l .off s).link l).sync = .hunt := by
  have hsync : (((leavePartner l (goHunt l s))).link l).sync = .hunt := by rw [leavePartner_sync, goHunt_sync]
  have h : (changeRole l .off s).link l = { (leavePartner l (goHunt l s)).link l with role := .off } :=
    State.link_modLink _ _ _
  rw [h]
  exact ⟨rfl, hsync⟩

end Off

end Sys2Proof.Machine
end

section
/-! SUPPORT. The entry into WATCH (R150, O50). -/

namespace Sys2Proof.Machine

/-! ### The controller's part -/

namespace Passed

variable {n : Nat} {R : Route → Prop} (h : Passed n R) {s : State}
include h

theorem unbindBound (hs : OnRoute n R s) : OnRoute n R (Machine.unbindRoutes s.boundCarriers s) :=
  h.unbindRoutes _ (fun _ => boundCarriers_range) hs

theorem levelController (hs : OnRoute n R s) : OnRoute n R (levelController s) := by
  unfold Machine.levelController
  extract_lets aired a b c d
  have hb : OnRoute n R b := h.unbindBound (removeAll .level _ hs)
  have hd : OnRoute n R d := rereadBottom (h.setHeld false (s := State.modAnn b _) hb)
  clear_value d
  split
  · exact announceProgram hd
  · exact hd

omit h in
theorem cutListening (hcut : ∀ r, R r → R { r with queue := r.queue.filter Item.begun }) (hs : OnRoute n R s) :
    OnRoute n R (cutListening s) := by
  unfold Machine.cutListening
  split
  · exact hs.modRoute _ _ fun _ => hcut _ hs
  · exact hs

end Passed

/-- The engine keeps a stack of one entry at most so. -/
theorem shortStack : Lower fun s => s.ann.stack.length ≤ 1 where
  rest _ _ hs _ _ h _ _ := h ▸ hs
  route _ _ _ hs _ := hs
  packets _ _ hs _ := hs
  deliver s i _ n g hs _ _ := by rw [placeGroup_eq]; exact hs
  air _ _ hs h _ _ := h ▸ hs

theorem rereadBottom_stack_length (s : State) : (rereadBottom s).ann.stack.length = s.ann.stack.length := by
  unfold rereadBottom
  split
  · rename_i hst
    rw [hst]
    rfl
  · rfl

/-- R145: all announcements go. -/
theorem removeEvery_stack_length (why : RemoveReason) (s : State) :
    ((positionsFromTop (fun _ => true) s.ann.stack).foldl (removeAt why) s).ann.stack.length ≤ 1 := by
  rw [removeAll_positions_stack, stackWithout_true]
  exact List.length_take_le _ _

theorem levelController_stack (s : State) : (levelController s).ann.stack.length ≤ 1 := by
  unfold levelController
  extract_lets aired a b c d
  have hb : b.ann.stack.length ≤ 1 := shortStack.unbindRoutes _ (removeEvery_stack_length .level s)
  have hd : d.ann.stack.length ≤ 1 := by
    rw [rereadBottom_stack_length]
    exact shortStack.setHeld false (shortStack.modAir _ hb rfl rfl rfl)
  clear_value d
  split
  · exact shortStack.announceProgram hd
  · exact hd

/-! ### The role controller's part -/

theorem Beside.setRoles {l : LinkId} {s t : State} (h : Beside l s t) (r : RoleController) :
    Beside l { s with roles := r } { t with roles := r } := by
  refine ⟨?_, h.part fun u => { u with roles := r }⟩
  have ho := h.other
  cases l
  · exact ho
  · exact ho

section Roles

variable {s : State} (h : s.oneLead)
include h

theorem other_ne_lead : (s.link (otherLink s.leadLink)).role ≠ .lead := fun hx =>
  otherLink_ne _ ((State.oneLead_leadLink h _).mp hx)

theorem levelRoles_beside :
    Beside (otherLink s.leadLink) { s with roles := (levelRoles s).roles } (levelRoles s) := by
  have hl := other_ne_lead h
  unfold levelRoles
  dsimp only
  generalize otherLink s.leadLink = l at *
  split
  · exact .refl l (setArm none s)
  · have hr : (roleNotice .level none (changeRole l .off s)).roles = (changeRole l .off s).roles :=
      State.raiseAt_roles _ _ _
    rw [hr]
    have hb : Beside l { s with roles := (changeRole l .off s).roles } (changeRole l .off s) :=
      (changeRole_off_beside hl).setRoles _
    exact hb.trans (raiseAt_beside l (changeRole l .off s) _ _)

omit h in
theorem levelRoles_off :
    ((levelRoles s).link (otherLink s.leadLink)).role = .off ∧ (levelRoles s).roles.arm = none := by
  unfold levelRoles
  dsimp only
  generalize otherLink s.leadLink = l
  split
  · exact ⟨by cases l <;> assumption, rfl⟩
  · unfold roleNotice State.raise
    rw [State.link_raiseAt, State.raiseAt_roles]
    exact ⟨changeRole_off_link.1, rfl⟩

theorem levelRoles_leaves (hl : (s.link (otherLink s.leadLink)).role ≠ .off) :
    ((levelRoles s).link (otherLink s.leadLink)).sync = .hunt ∧ (levelRoles s).roles.dwell = 0 ∧
      (levelRoles s).roles.advised = false ∧
      (levelRoles s).Noticed (.role ((levelRoles s).link .a).role ((levelRoles s).link .b).role .level none s.lastQ) := by
  have hb := (changeRole_off_beside (other_ne_lead h)).lastQ
  unfold levelRoles
  dsimp only
  rw [if_neg hl]
  unfold roleNotice State.raise
  rw [State.link_raiseAt, State.link_raiseAt, State.link_raiseAt, State.raiseAt_roles]
  refine ⟨changeRole_off_link.2, rfl, rfl, ?_⟩
  rw [← hb]
  exact State.noticed_raiseAt _ _ _

end Roles

/-! ### The step -/

section Step

variable (s : State)

/-- R150: LEVEL WATCH up to the end of its allocator step. -/
@[irreducible] def watchStep (s : State) : State :=
  closeStep s [] none (levelController (cutListening
    ((levelTargets s).foldl (fun t n => suspendRoute .level n t) s)))

theorem enterWatch_eq : enterWatch s = ((watchStep (levelRoles s)).modAnn fun a =>
    { a with
      live := a.live.map fun x => x.map fun e => { e with quiet := true }
      level := .watch }).dueEval := by
  unfold enterWatch watchStep
  rfl

theorem watchStep_front : SameFront s (watchStep s) := by
  unfold watchStep
  have h := frontEngine s
  refine h.closeStep _ _ _ ?_
  have ht := h.suspendAll .level (levelTargets s) (.refl s)
  exact h.levelController (h.cutListening ht)

theorem watchStep_leadTracker : (watchStep s).leadTracker = s.leadTracker := by
  have h := trackersRestacked s.leadTracker s.scoutTracker
  unfold watchStep
  exact (h.closeStep _ _ _ (h.levelController (h.cutListening (h.suspendAll .level _ ⟨rfl, rfl⟩)))).1

theorem watchStep_noticed {b : NoticeBody} (hs : s.Noticed b) : (watchStep s).Noticed b := by
  have h := noticeEngine fun n => n.body = b
  unfold watchStep
  exact h.closeStep _ _ _ (h.levelController (h.cutListening (h.suspendAll .level _ hs)))

theorem watchStep_stack : (watchStep s).ann.stack.length ≤ 1 := by
  unfold watchStep
  exact shortStack.closeStep _ _ _ (levelController_stack _)

theorem mem_levelTargets {n : Nat} : n ∈ levelTargets s ↔ n < 16 ∧ (s.route n).state ≠ .vacant ∧
    (s.route n).pin = false ∧ (s.route n).reason ≠ some .request := by
  simp [levelTargets, and_assoc]

/-- What WATCH leaves of an unpinned route: it is stopped, and nothing of its queue that has not begun stays. -/
def Route.WatchStopped (q : List Item) (r : Route) : Prop := r.Stopped .level ∧ r.queue = q.filter Item.begun

theorem watchStopped_passed {n : Nat} (hn : n < 16) (q : List Item) : Passed n (Route.WatchStopped q) where
  held _ _ h := ⟨⟨h.1.1, h.1.2, h.1.3, h.1.4⟩, h.2⟩
  grant _ _ _ h hs := by rw [h.1.state] at hs; cases hs
  ended _ _ h hs _ := by rw [h.1.state] at hs; cases hs
  unbind hn' := absurd hn' hn.not_ge
  ask hn' := absurd hn' hn.not_ge
  binding hn' := absurd hn' hn.not_ge
  damage hn' := absurd hn' hn.not_ge

/-- What WATCH leaves of a pinned route that does not wait for pages. -/
theorem pinnedPassed {n : Nat} (hn : n < 16) (r₀ : Route) (hstate : r₀.state ≠ .starved) :
    Passed n fun r => r.state = r₀.state ∧ r.run = r₀.run ∧ r.pages = r₀.pages where
  held _ _ h := h
  grant _ _ _ h hs := absurd (h.1.symm.trans hs) hstate
  ended _ _ h hs _ := absurd (h.1.symm.trans hs) hstate
  unbind hn' := absurd hn' hn.not_ge
  ask hn' := absurd hn' hn.not_ge
  binding hn' := absurd hn' hn.not_ge
  damage hn' := absurd hn' hn.not_ge

theorem watchStep_stops {n : Nat} (hn : n < s.routes.length) (ht : n ∈ levelTargets s) :
    ((watchStep s).route n).WatchStopped (s.route n).queue := by
  have hlt : n < 16 := ((mem_levelTargets s).mp ht).1
  obtain ⟨c, hc, hsame, hfold⟩ := foldl_reaches (f := fun t n => suspendRoute .level n t) (π := fun t => t.route n)
    (fun b m hm => suspendRoute_other (Ne.symm hm) _ b) (fun t => n < t.routes.length)
    (fun b m hb => hb.trans_eq (suspendRoute_length _ m b).symm) _ ht (List.nodup_range.filter _) s hn
  have h := watchStopped_passed hlt (s.route n).queue
  unfold watchStep
  refine h.closeStep _ _ (h.levelController (Passed.cutListening (fun r hr => ?_) ?_))
  · refine ⟨⟨hr.1.1, hr.1.2, hr.1.3, hr.1.4⟩, ?_⟩
    rw [hr.2, List.filter_filter]
    simp
  · unfold OnRoute
    rw [hfold]
    refine ⟨suspendRoute_stopped _ hc, ?_⟩
    rw [suspendRoute_same _ hc, hsame]
    simp

theorem watchStep_keeps {n : Nat} (hn : n < 16) (hpin : (s.route n).pin = true)
    (hstate : (s.route n).state ≠ .starved) : ((watchStep s).route n).state = (s.route n).state ∧
      ((watchStep s).route n).run = (s.route n).run ∧ ((watchStep s).route n).pages = (s.route n).pages := by
  have hnot : n ∉ levelTargets s := fun h => by
    obtain ⟨-, -, hp, -⟩ := (mem_levelTargets s).mp h
    rw [hpin] at hp
    cases hp
  have h := pinnedPassed hn (s.route n) hstate
  unfold watchStep
  refine h.closeStep _ _ (h.levelController (Passed.cutListening (fun r hr => hr) ?_))
  unfold OnRoute
  rw [foldl_skips (f := fun t n => suspendRoute .level n t) (π := fun t => t.route n)
    (fun b m hm => suspendRoute_other (Ne.symm hm) _ b) _ hnot s]
  exact ⟨rfl, rfl, rfl⟩

end Step

/-! ### Its end: no live entry can wake the part -/

theorem wakeCandidate_of_quiet {s : State} (h : ∀ x ∈ s.ann.live, ∀ e, x = some e → e.quiet = true) :
    wakeCandidate s = none := by
  unfold wakeCandidate
  split
  · unfold bestLive
    refine List.findSome?_eq_none_iff.mpr fun c _ => List.find?_eq_none.mpr fun e he => ?_
    have hq : e.quiet = true := h _ (List.reduceOption_mem_iff.mp he) e rfl
    simp [hq]
  · rfl

theorem enterWatch_quiet (s : State) : ∀ x ∈ (enterWatch s).ann.live, ∀ e, x = some e → e.quiet = true := by
  rw [enterWatch_eq]
  rintro _ hx e rfl
  obtain ⟨y, -, hy⟩ := List.mem_map.mp hx
  cases y with
  | none => cases hy
  | some w => exact (congrArg LiveEntry.quiet (Option.some.inj hy)).symm

/-- An evaluation in WATCH with no wake candidate has nothing to do. -/
theorem settle_asleep {s : State} (hl : s.ann.level = .watch) (hw : wakeCandidate s = none) (hd : s.ann.evalDue = true) :
    settle s = s.modAnn fun a => { a with evalDue := false } := by
  unfold settle evaluate
  rw [if_pos hd, hl, hw]

theorem settle_enterWatch (s : State) :
    settle (enterWatch s) = (enterWatch s).modAnn fun a => { a with evalDue := false } :=
  settle_asleep (by rw [enterWatch_eq]; rfl) (wakeCandidate_of_quiet (enterWatch_quiet s))
    (by rw [enterWatch_eq]; rfl)

theorem serveLevel_sleeps {s : State} (hrun : s.ann.level = .run) (req : Request) :
    serveLevel 1 req s = answer req (lastOf s .ok) []
      ((enterWatch (dropSelection s)).modAnn fun a => { a with evalDue := false }) := by
  unfold serveLevel
  dsimp only
  rw [if_neg (by decide), if_pos rfl, if_pos (show (dropSelection s).ann.level = .run from hrun)]
  unfold replyAfter reply
  rw [settle_enterWatch]
  rfl

end Sys2Proof.Machine
end

section
/-! SUPPORT. LEVEL WATCH as a request (O50), and the changes of role of a link that does not hold LEAD (O24). -/

namespace Sys2Proof.Machine

theorem enterWatch_stack (s : State) : (enterWatch s).ann.stack.length ≤ 1 := by
  rw [enterWatch_eq]
  exact watchStep_stack (levelRoles s)

theorem enterWatch_route (s : State) (n : Nat) : (enterWatch s).route n = (watchStep (levelRoles s)).route n := by
  rw [enterWatch_eq]
  rfl

theorem enterWatch_leadTracker (s : State) : (enterWatch s).leadTracker = (levelRoles s).leadTracker := by
  rw [enterWatch_eq]
  exact watchStep_leadTracker (levelRoles s)

theorem enterWatch_noticed {s : State} {b : NoticeBody} (h : (levelRoles s).Noticed b) : (enterWatch s).Noticed b := by
  rw [enterWatch_eq]
  exact watchStep_noticed (levelRoles s) h

section EnterWatch

variable {s : State} (h : s.oneLead)

theorem SameFront.modAnn {s t : State} (h : SameFront s t) (f : Announcer → Announcer) :
    SameFront s (t.modAnn f) :=
  ⟨⟨h.clock, h.linkA, h.linkB, h.merge, h.roles, h.freeIndex, h.pending⟩, h.asked, h.egress⟩

theorem enterWatch_front (s : State) : SameFront (levelRoles s) (enterWatch s) := by
  rw [enterWatch_eq]
  exact ((watchStep_front (levelRoles s)).modAnn _).modAnn _

include h in
theorem levelRoles_lead : (levelRoles s).link s.leadLink = s.link s.leadLink := by
  have ho := (levelRoles_beside h).other
  rw [otherLink_otherLink] at ho
  exact ho

include h in
theorem levelRoles_route (n : Nat) : (levelRoles s).route n = s.route n :=
  congrArg (fun rs : List Route => rs.getD n (.reset n)) (levelRoles_beside h).routes

include h in
theorem enterWatch_stops {n : Nat} (hn : n < 16) (hlen : n < s.routes.length) (hstate : (s.route n).state ≠ .vacant)
    (hpin : (s.route n).pin = false) (hreason : (s.route n).reason ≠ some .request) :
    ((enterWatch s).route n).WatchStopped (s.route n).queue := by
  have hr := levelRoles_route h n
  have hrs := (levelRoles_beside h).routes
  have ht : n ∈ levelTargets (levelRoles s) := by
    rw [mem_levelTargets, hr]
    exact ⟨hn, hstate, hpin, hreason⟩
  have hstop := watchStep_stops (levelRoles s) (by rw [hrs]; exact hlen) ht
  rw [hr, ← enterWatch_route] at hstop
  exact hstop

include h in
theorem enterWatch_keeps {n : Nat} (hn : n < 16) (hpin : (s.route n).pin = true)
    (hstate : (s.route n).state ≠ .starved) : ((enterWatch s).route n).state = (s.route n).state ∧
      ((enterWatch s).route n).run = (s.route n).run ∧ ((enterWatch s).route n).pages = (s.route n).pages := by
  have hr := levelRoles_route h n
  have hk := watchStep_keeps (levelRoles s) hn (hr ▸ hpin) (hr ▸ hstate)
  rw [hr, ← enterWatch_route] at hk
  exact hk

end EnterWatch

/-- What LEVEL WATCH in RUN leaves. -/
structure State.Slept (s t : State) : Prop where
  level : t.ann.level = .watch
  off : (t.link (otherLink s.leadLink)).role = .off
  arm : t.roles.arm = none
  left : (s.link (otherLink s.leadLink)).role ≠ .off →
    (t.link (otherLink s.leadLink)).sync = .hunt ∧ t.roles.dwell = 0 ∧ t.roles.advised = false ∧
      t.Noticed (.role (t.link .a).role (t.link .b).role .level none s.lastQ)
  lead : t.link s.leadLink = s.link s.leadLink
  leadTracker : t.leadTracker = s.leadTracker
  stops : ∀ n < 16, (s.route n).state ≠ .vacant → (s.route n).pin = false → (s.route n).reason ≠ some .request →
    (t.route n).WatchStopped (s.route n).queue
  keeps : ∀ n < 16, (s.route n).pin = true → (s.route n).state ≠ .starved →
    (t.route n).state = (s.route n).state ∧ (t.route n).run = (s.route n).run ∧ (t.route n).pages = (s.route n).pages
  quiet : ∀ x ∈ t.ann.live, ∀ e, x = some e → e.quiet = true
  stack : t.ann.stack.length ≤ 1

theorem enterWatch_slept {s : State} (h : s.oneLead) : s.Slept (enterWatch s) := by
  have hf := enterWatch_front s
  have hoff := levelRoles_off (s := s)
  refine ⟨by rw [enterWatch_eq]; rfl, ?_, ?_, fun hne => ?_, ?_, ?_, fun n hn hstate => ?_, fun n hn => enterWatch_keeps h hn,
    enterWatch_quiet s, enterWatch_stack s⟩
  · rw [hf.link]
    exact hoff.1
  · rw [hf.roles]
    exact hoff.2
  · obtain ⟨hsync, hdwell, hadvised, hn⟩ := levelRoles_leaves h hne
    rw [hf.link, hf.link, hf.link, hf.roles]
    exact ⟨hsync, hdwell, hadvised, enterWatch_noticed hn⟩
  · rw [hf.link]
    exact levelRoles_lead h
  · exact (enterWatch_leadTracker s).trans (levelRoles_beside h).leadTracker
  · exact enterWatch_stops h hn (State.lt_of_state_ne hstate) hstate

/-- Settles O50: LEVEL WATCH, refused, without effect, and in RUN. -/
theorem levelWatchRequest : Obligations.LevelWatchRequest := by
  intro s tag code hq ho hsv refusedOrKept
  refine ⟨fun hcode => ?unknown, fun hcode hwatch => ?kept, fun hcode hrun => ?entered⟩
  case unknown =>
    have h0 : code ≠ 0 := fun hc => by simp [hc] at hcode
    exact (execLevelWatch_serves hsv h0).trans (congrArg _ (serveLevel_unknown hq _ hcode))
  case kept =>
    subst hcode
    exact (execLevelWatch_serves hsv (by decide)).trans (congrArg _ (serveLevel_watch hq _ hwatch))
  case entered =>
    subst hcode
    have hexec := (execLevelWatch_serves hsv (by decide)).trans (congrArg _ (serveLevel_sleeps hrun _))
    have h := enterWatch_slept (s := dropSelection s) ho
    generalize enterWatch (dropSelection s) = u at hexec h
    refine ⟨_, hexec, h.level, rfl, h.off, h.arm, h.left, h.lead, h.leadTracker,
      fun n hn hstate hpin hreason => ?_, h.keeps, h.quiet, h.stack⟩
    have hs := h.stops n hn hstate hpin hreason
    exact ⟨hs.1.state, hs.1.reason, hs.1.pages, hs.1.run, hs.2⟩

end Sys2Proof.Machine
end

section
/-! SUPPORT. LINK writes that are refused, keep the role, or change the roles of links without a BREAK (O23, O24,
O25). -/

namespace Sys2Proof.Machine

/-! ### The judgement (R49, R171) -/

section Judge

variable {s : State} {l : LinkId} {code : Byte}

theorem roleOf_eq_none (h : 4 ≤ code.toNat) : roleOf code = none := by
  unfold roleOf
  split <;> first | omega | rfl

theorem roleOf_code {r : Role} (h : code.toNat = r.code) : roleOf code = some r := by
  unfold roleOf
  rw [h]
  cases r <;> rfl

theorem roleOf_known (h : code.toNat ≤ 3) : ∃ r, roleOf code = some r ∧ code.toNat = r.code := by
  obtain h | h | h | h : code.toNat = 0 ∨ code.toNat = 1 ∨ code.toNat = 2 ∨ code.toNat = 3 := by omega
  · exact ⟨.lead, roleOf_code h, h⟩
  · exact ⟨.partner, roleOf_code h, h⟩
  · exact ⟨.scout, roleOf_code h, h⟩
  · exact ⟨.off, roleOf_code h, h⟩

theorem roleOf_some {r : Role} (h : roleOf code = some r) : code.toNat = r.code := by
  unfold roleOf at h
  split at h
  · cases h; assumption
  · cases h; assumption
  · cases h; assumption
  · cases h; assumption
  · cases h

theorem judgeLink_unknown (h : roleOf code = none) : judgeLink l code s = .badValue := by
  unfold judgeLink
  rw [h]

theorem judgeLink_some {r : Role} (h : roleOf code = some r) : judgeLink l code s =
    if (s.link l).role = .lead then (if r = .lead then .ok else .role)
    else if s.ann.level = .watch ∧ r ≠ .off then .level else .ok := by
  unfold judgeLink
  rw [h]

theorem judgeLink_lead {r : Role} (h : roleOf code = some r) (hl : (s.link l).role = .lead) :
    judgeLink l code s = if r = .lead then .ok else .role := by
  rw [judgeLink_some h, if_pos hl]

theorem judgeLink_other {r : Role} (h : roleOf code = some r) (hl : (s.link l).role ≠ .lead) :
    judgeLink l code s = if s.ann.level = .watch ∧ r ≠ .off then .level else .ok := by
  rw [judgeLink_some h, if_neg hl]

/-- R49: what is served in RUN, or gives OFF. -/
theorem judgeLink_served {r : Role} (h : roleOf code = some r) (hl : (s.link l).role ≠ .lead)
    (hlevel : s.ann.level = .run ∨ r = .off) : judgeLink l code s = .ok := by
  rw [judgeLink_other h hl, if_neg]
  rintro ⟨hw, hr⟩
  obtain hrun | hoff := hlevel
  · rw [hrun] at hw
    cases hw
  · exact hr hoff

end Judge

/-! ### A write served -/

/-- The part as a served LINK write finds it. -/
def linkTaken (l : LinkId) (s : State) : State := s.cleared { table := .link, index := linkIndex l }

section Served

variable {s : State} {tag : Tag} {l : LinkId} {f : LinkFields}
  (hsv : s.Serves { tag := tag, op := .writeLink l f })

theorem linkIndex_eq (l : LinkId) : linkIndex l = if l = .a then 0 else 1 := by cases l <;> rfl

theorem entryCells_link (t : State) (l : LinkId) : entryCells t .link (linkIndex l) = linkEntry (t.link l) := by
  cases l <;> rfl

include hsv in
theorem exec_writeLink : exec (.writeLink tag l f) s =
    .next (serveWriteLink l f { tag := tag, op := .writeLink l f } s) := serve_of_serves hsv

include hsv in
theorem exec_writeLink_refused {o : Outcome} (hq : s.quiescent) (ho : judgeLink l f.role (linkTaken l s) = o)
    (hne : o ≠ .ok) : exec (.writeLink tag l f) s =
      .next (answer { tag := tag, op := .writeLink l f } (lastOf s o) (linkEntry (s.link l)) (linkTaken l s)) := by
  rw [exec_writeLink hsv]
  unfold serveWriteLink
  dsimp only
  have ho' : judgeLink l f.role (setCursor .link (linkIndex l) (dropSelection s)) = o := ho
  rw [ho', if_neg hne]
  refine congrArg _ ((replyAfter_of_quiescent (t := linkTaken l s) hq s _ _ _).trans ?_)
  rw [entryCells_link]
  cases l <;> rfl

include hsv in
theorem exec_writeLink_ok (ho : judgeLink l f.role (linkTaken l s) = .ok) : exec (.writeLink tag l f) s =
    .next (answer { tag := tag, op := .writeLink l f } (lastOf s .ok)
      (linkEntry ((settle (applyLink l f (linkTaken l s))).link l)) (settle (applyLink l f (linkTaken l s)))) := by
  rw [exec_writeLink hsv]
  unfold serveWriteLink
  dsimp only
  have ho' : judgeLink l f.role (setCursor .link (linkIndex l) (dropSelection s)) = .ok := ho
  rw [ho', if_pos rfl]
  unfold replyAfter reply
  dsimp only
  rw [entryCells_link]
  rfl

end Served

/-! ### The expected id (R5) -/

section ExpectedId

variable {s : State} {l : LinkId}

theorem writeExpectedId_keeps {f : LinkFields} (h : KeepsId f (s.link l)) : writeExpectedId l f.expectedId s = s := by
  obtain ⟨hsame, hnot, hfollowed⟩ := h
  have hclamp : clampId f.expectedId = f.expectedId := if_neg hnot
  have hstays : ¬ (f.expectedId ≠ 0 ∧ f.expectedId ≠ (s.link l).followedId ∧ (s.link l).sync ≠ .hunt) := by
    rintro ⟨h0, h1, h2⟩
    exact hfollowed.elim h0 fun h => h.elim h1 h2
  unfold writeExpectedId
  dsimp only
  rw [hclamp, if_neg hstays, hsame]
  cases l <;> rfl

/-- The multiplex id that a write sets. -/
theorem writeExpectedId_stays {m : Id16} (h : clampId m = 0 ∨ clampId m = (s.link l).followedId) :
    writeExpectedId l m s = s.modLink l fun x => { x with expectedId := clampId m } := by
  unfold writeExpectedId
  dsimp only
  refine if_neg ?_
  rintro ⟨h0, h1, -⟩
  exact h.elim h0 h1

/-- R15: a synced link departs, a confirmation ends. -/
theorem PortMakes.goHunt {y : Link} {t : State} (h : PortMakes l y s t) :
    PortMakes l (if y.synced then y.afterDeparture .hunt
      else { y with sync := .hunt, confirmCount := 0, lastFn := none }) s (goHunt l t) := by
  unfold Machine.goHunt
  rw [h.synced]
  split
  · exact h.depart .hunt
  · exact h.modLink (f := fun x => { x with sync := .hunt, confirmCount := 0, lastFn := none }) fun _ => rfl

/-- R5: the entry of a link after a write of its expected id, as far as the port's own part goes. -/
theorem PortMakes.writeExpectedId (m : Id16) :
    ∃ y : Link, PortMakes l y s (writeExpectedId l m s) ∧ y.expectedId = clampId m ∧
      (clampId m ≠ 0 → clampId m ≠ (s.link l).followedId →
        y.sync = .hunt ∧ ((s.link l).synced = true → y.due = none)) := by
  have hset := (PortMakes.refl l s).modLink (f := fun x => { x with expectedId := clampId m }) fun _ => rfl
  by_cases h : clampId m ≠ 0 ∧ clampId m ≠ (s.link l).followedId ∧ (s.link l).sync ≠ .hunt
  · have heq : Machine.writeExpectedId l m s =
        Machine.goHunt l (s.modLink l fun x => { x with expectedId := clampId m }) := if_pos h
    rw [heq]
    refine ⟨_, hset.goHunt, ?_, fun _ _ => ⟨?_, fun hsync => ?_⟩⟩
    · split <;> rfl
    · split <;> rfl
    · have hsync' : Link.synced { s.link l with expectedId := clampId m } = true := hsync
      rw [if_pos hsync']
      rfl
  · have heq : Machine.writeExpectedId l m s = s.modLink l fun x => { x with expectedId := clampId m } := if_neg h
    rw [heq]
    refine ⟨_, hset, rfl, fun h0 h1 => ?_⟩
    have hhunt : (s.link l).sync = .hunt := by
      by_contra hne
      exact h ⟨h0, h1, hne⟩
    refine ⟨hhunt, fun hsync => ?_⟩
    unfold Link.synced at hsync
    simp [hhunt] at hsync

end ExpectedId

/-! ### A write that keeps the role -/

section KeepsRole

variable {s : State} {l : LinkId} {f : LinkFields} (hr : f.role.toNat = (s.link l).role.code)
include hr

theorem applyLink_keeps_role :
    applyLink l f s = finishEvent (writeExpectedId l f.expectedId s) := by
  unfold applyLink
  rw [roleOf_code hr]
  have hrole : ((writeExpectedId l f.expectedId s).link l).role = (s.link l).role := writeExpectedId_role l l _ s
  have hsame : writeRole l ((some (s.link l).role).getD .off) (writeExpectedId l f.expectedId s) =
      writeExpectedId l f.expectedId s := if_pos hrole
  rw [hsame]

theorem judgeLink_keeps_role (hlevel : (s.link l).role = .lead ∨ s.ann.level = .run ∨ (s.link l).role = .off) :
    judgeLink l f.role s = .ok := by
  by_cases hlead : (s.link l).role = .lead
  · rw [judgeLink_lead (roleOf_code hr) hlead, if_pos hlead]
  · exact judgeLink_served (roleOf_code hr) hlead (hlevel.resolve_left hlead)

end KeepsRole

/-- Settles O23: LINK writes that are refused, and those that keep the role. -/
theorem linkWriteKeepsRole : Obligations.LinkWriteKeepsRole := by
  intro s tag l f hq ho hsv req c x m answered
  have hc : linkTaken l s = c := by
    unfold linkTaken
    rw [linkIndex_eq]
  have hlink : (linkTaken l s).link l = x := by cases l <;> rfl
  have hother : (linkTaken l s).link (otherLink l) = s.link (otherLink l) := by cases l <;> rfl
  have hqc : (linkTaken l s).quiescent := hq
  have refused : ∀ o, judgeLink l f.role (linkTaken l s) = o → o ≠ .ok → answered o := fun o hj hne => by
    have h := exec_writeLink_refused hsv hq hj hne
    rw [hc] at h
    exact h
  refine ⟨fun hcode => ?unknown, fun hlead h1 h3 => ?role, fun hlead hwatch h2 => ?level, fun hr hlevel => ?kept⟩
  case unknown => exact refused _ (judgeLink_unknown (roleOf_eq_none hcode)) (by decide)
  case role =>
    obtain ⟨r, hr, hcode⟩ := roleOf_known h3
    have hne : r ≠ .lead := by
      rintro rfl
      exact absurd (hcode ▸ h1) (by decide)
    exact refused _ ((judgeLink_lead hr (hlink ▸ hlead)).trans (if_neg hne)) (by decide)
  case level =>
    obtain ⟨r, hr, hcode⟩ := roleOf_known (h2.trans (by decide))
    have hne : r ≠ .off := by
      rintro rfl
      exact absurd (hcode ▸ h2) (by decide)
    exact refused _ ((judgeLink_other hr (hlink ▸ hlead)).trans (if_pos ⟨hwatch, hne⟩)) (by decide)
  case kept =>
    have hr' : f.role.toNat = ((linkTaken l s).link l).role.code := hlink ▸ hr
    have hok : judgeLink l f.role (linkTaken l s) = .ok := judgeLink_keeps_role hr' (hlink ▸ hlevel)
    have hexec := exec_writeLink_ok hsv hok
    rw [applyLink_keeps_role hr'] at hexec
    obtain ⟨y, hy, hid, hhunts⟩ := PortMakes.writeExpectedId (s := linkTaken l s) (l := l) f.expectedId
    have hend := (hy.next ((coreEvents _).finishEvent (.refl _))).next ((coreEngine _).settle (.refl _))
    rw [hlink] at hhunts
    obtain ⟨u, hu⟩ : ∃ u, settle (finishEvent (writeExpectedId l f.expectedId (linkTaken l s))) = u := ⟨_, rfl⟩
    rw [hu] at hexec hend
    refine ⟨fun hkeeps => ?_, answer req (lastOf s .ok) (linkEntry (u.link l)) u, hexec, ?_, ?_, fun h0 h1 => ⟨?_, fun hsync => ?_⟩, fun hstays => ?_⟩
    · rw [writeExpectedId_keeps (hlink ▸ hkeeps), finishEvent_of_quiescent hqc, settle_of_quiescent hqc] at hu
      rw [← hu, hlink, hc] at hexec
      exact hexec
    · have h := congrArg Link.expectedId hend.link
      exact h.trans hid
    · have h := congrArg Link.expectedId hend.other
      rw [hother] at h
      exact h
    · exact hend.sync.trans (hhunts h0 h1).1
    · have h := congrArg Link.due hend.link
      exact h.trans ((hhunts h0 h1).2 hsync)
    · have hw : writeExpectedId l f.expectedId (linkTaken l s) =
          (linkTaken l s).modLink l fun x => { x with expectedId := m } := writeExpectedId_stays (hlink ▸ hstays)
      have hqw : ((linkTaken l s).modLink l fun x => { x with expectedId := m }).quiescent := hqc.modLink _
      rw [hw, finishEvent_of_quiescent hqw, settle_of_quiescent hqw] at hu
      have hul : u.link l = { (linkTaken l s).link l with expectedId := m } := hu ▸ State.link_modLink _ l _
      rw [hlink] at hul
      exact hul

end Sys2Proof.Machine
end

section
/-! SUPPORT. LINK writes that change roles without a BREAK (O24, O25). -/

namespace Sys2Proof.Machine

/-- What the emptying of the scout tracker leaves, by the steps it is made of. -/
theorem emptyScout_keeps {α : Type} (g : State → α) (hm : ∀ s f, g (s.modTracker .scout f) = g s)
    (hr : ∀ s fn b, g (s.raiseAt fn b) = g s) (why : LostReason) (s : State) :
    g (emptyTracker .scout why s) = g s := by
  unfold emptyTracker emptyMap
  split
  · exact hm s _
  · exact (hr _ _ _).trans ((hm _ _).trans (hm s _))

/-! ### The roles -/

section Roles

variable {s : State} {l : LinkId}

/-- R48: one of the two links holds LEAD. -/
theorem other_is_lead (h : s.oneLead) (hl : (s.link l).role ≠ .lead) : (s.link (otherLink l)).role = .lead := by
  unfold State.oneLead at h
  cases l
  · exact not_not.mp fun hb => hl (h.mpr hb)
  · exact h.mpr hl

theorem clearMarks_roles {s : State} (h : s.roles.decision = none) :
    (clearMarks s).roles = { arm := none, dwell := 0, advised := false, decision := none } := by
  unfold clearMarks
  dsimp only
  rw [h]

end Roles

/-! ### The role of a link that does not hold LEAD -/

section ChangeRole

variable {s : State} {l : LinkId} {r : Role}

/-- The links, merge stage and rest that a change of role leaves, before the scout tracker is emptied. -/
def changesRole (l : LinkId) (r : Role) (s : State) : State :=
  setRole l r (leavePartner l (if r = .off then goHunt l s else s))

theorem leavePartner_of_ne (h : (s.link l).role ≠ .partner) : leavePartner l s = s := if_neg h

theorem changeRole_eq (hr : r ≠ .lead) (hne : r ≠ (s.link l).role) : changeRole l r s =
    if r = .scout then emptyTracker .scout .handover (clearMarks (changesRole l r s))
    else clearMarks (changesRole l r s) := by
  unfold changesRole
  cases r with
  | lead => exact absurd rfl hr
  | off => rfl
  | scout => rfl
  | partner =>
    show clearMarks (setRole l .partner s) = clearMarks (setRole l .partner (leavePartner l s))
    rw [leavePartner_of_ne (Ne.symm hne)]

theorem changesRole_beside (hl : (s.link l).role ≠ .lead) : Beside l s (changesRole l r s) := by
  unfold changesRole
  refine Beside.trans ?_ (setRole_beside l _ r)
  split
  · exact (goHunt_beside l s hl).trans (leavePartner_beside l _)
  · exact leavePartner_beside l s

theorem changesRole_merge (hl : (s.link l).role ≠ .lead) : (changesRole l r s).merge =
    { s.merge with held :=
      if (s.link l).role = .partner then s.merge.held.filter fun x => x.link ≠ l else s.merge.held } := by
  have hm := (changesRole_beside (r := r) hl).merge
  have hheld : (changesRole l r s).merge.held =
      if (s.link l).role = .partner then s.merge.held.filter fun x => x.link ≠ l else s.merge.held := by
    unfold changesRole
    rw [setRole_merge]
    split
    · exact leavePartner_goHunt_held l s hl
    · exact leavePartner_held l s
  rw [hheld] at hm
  exact hm

theorem changesRole_link : ((changesRole l r s).link l).role = r ∧
    (r = .off → ((changesRole l r s).link l).sync = .hunt) ∧
    (r ≠ .off → ((changesRole l r s).link l).sync = (s.link l).sync) := by
  have hlink : (changesRole l r s).link l =
      { (leavePartner l (if r = .off then goHunt l s else s)).link l with role := r } := State.link_modLink _ _ _
  have hsync : ((changesRole l r s).link l).sync = ((if r = .off then goHunt l s else s).link l).sync := by
    rw [hlink]
    exact leavePartner_sync l _ l
  refine ⟨by rw [hlink], fun hr => ?_, fun hr => ?_⟩
  · rw [hsync, if_pos hr]
    exact goHunt_sync l s
  · rw [hsync, if_neg hr]

/-- What a change of role leaves. -/
structure State.RoleChanged (l : LinkId) (r : Role) (s t : State) : Prop where
  role : (t.link l).role = r
  other : (t.link (otherLink l)).role = .lead
  roles : t.roles = { arm := none, dwell := 0, advised := false, decision := none }
  hunts : r = .off → (t.link l).sync = .hunt
  stays : r ≠ .off → (t.link l).sync = (s.link l).sync
  emptied : r = .scout →
    t.scoutTracker.map = none ∧ t.scoutTracker.collection = none ∧ t.scoutTracker.target = none
  kept : r ≠ .scout → t.scoutTracker.map = s.scoutTracker.map
  merge : t.merge = { s.merge with held :=
    if (s.link l).role = .partner then s.merge.held.filter fun x => x.link ≠ l else s.merge.held }
  leadTracker : t.leadTracker = s.leadTracker
  routes : t.routes = s.routes
  store : t.store = s.store
  packets : t.packets = s.packets
  ann : t.ann = s.ann

theorem changeRole_changed (h : s.oneLead) (hd : s.roles.decision = none) (hl : (s.link l).role ≠ .lead)
    (hr : r ≠ .lead) (hne : r ≠ (s.link l).role) : s.RoleChanged l r (changeRole l r s) := by
  have hb := changesRole_beside (r := r) hl
  have hmerge := changesRole_merge (r := r) hl
  obtain ⟨hrole, hhunts, hstays⟩ := changesRole_link (s := s) (l := l) (r := r)
  have hroles : (clearMarks (changesRole l r s)).roles = _ := clearMarks_roles (hb.roles ▸ hd)
  have hother : ((changesRole l r s).link (otherLink l)).role = .lead := by
    rw [hb.other]
    exact other_is_lead h hl
  rw [changeRole_eq hr hne]
  generalize hu : changesRole l r s = u at *
  have hlink : ∀ k, (clearMarks u).link k = u.link k := fun k => by cases k <;> rfl
  split
  · rename_i hscout
    have keeps : ∀ {α : Type} (g : State → α), (∀ s f, g (s.modTracker .scout f) = g s) →
        (∀ s fn b, g (s.raiseAt fn b) = g s) → g (emptyTracker .scout .handover (clearMarks u)) = g (clearMarks u) :=
      fun g hm hr => emptyScout_keeps g hm hr _ _
    have hports := emptyTracker_ports .scout .handover (clearMarks u)
    have htracker := emptyTracker_tracker .scout (clearMarks u) .handover
    refine ⟨?_, ?_, hports.roles.trans hroles, fun ho => ?_, fun ho => ?_, fun _ => ?_, fun hc => absurd hscout hc,
      hports.merge.trans hmerge, ?_, ?_, ?_, ?_, ?_⟩
    · rw [hports.link, hlink]
      exact hrole
    · rw [hports.link, hlink]
      exact hother
    · rw [hports.link, hlink]
      exact hhunts ho
    · rw [hports.link, hlink]
      exact hstays ho
    · change (emptyTracker .scout .handover (clearMarks u)).scoutTracker = _ at htracker
      rw [htracker]
      exact ⟨rfl, rfl, rfl⟩
    · exact (keeps State.leadTracker (fun _ _ => rfl) fun _ _ _ => State.raiseAt_leadTracker _ _ _).trans hb.leadTracker
    · exact (keeps State.routes (fun _ _ => rfl) fun _ _ _ => State.raiseAt_routes _ _ _).trans hb.routes
    · exact (keeps State.store (fun _ _ => rfl) fun _ _ _ => State.raiseAt_store _ _ _).trans hb.store
    · exact (keeps State.packets (fun _ _ => rfl) fun _ _ _ => State.raiseAt_packets _ _ _).trans hb.packets
    · exact (keeps State.ann (fun _ _ => rfl) fun _ _ _ => State.raiseAt_ann _ _ _).trans hb.ann
  · rename_i hscout
    refine ⟨?_, ?_, hroles, fun ho => ?_, fun ho => ?_, fun hc => absurd hc hscout, fun _ => ?_, hmerge,
      hb.leadTracker, hb.routes, hb.store, hb.packets, hb.ann⟩
    · rw [hlink]
      exact hrole
    · rw [hlink]
      exact hother
    · rw [hlink]
      exact hhunts ho
    · rw [hlink]
      exact hstays ho
    · have hmap := congrArg Tracker.map hb.scoutTracker
      exact hmap

end ChangeRole

theorem finishEvent_undecided {s : State} (h : s.roles.decision = none) : finishEvent s = s := by
  unfold finishEvent
  rw [h]

/-- R171: a write that keeps the expected id and decides nothing ends with the change of role. -/
theorem applyLink_of_keepsId {s : State} {l : LinkId} {f : LinkFields} {r : Role} (hk : KeepsId f (s.link l))
    (hr : roleOf f.role = some r) (hq : (writeRole l r s).roles.decision = none) :
    applyLink l f s = writeRole l r s := by
  unfold applyLink
  rw [hr, writeExpectedId_keeps hk]
  exact finishEvent_undecided hq

/-- Settles O24: a change of role of a link that does not hold LEAD. -/
theorem linkRoleChanges : Obligations.LinkRoleChanges := by
  intro s tag l f r hq ho hsv hk hr hlead hl hne hlevel
  have hlink : (linkTaken l s).link l = s.link l := by cases l <;> rfl
  have hchanged := changeRole_changed (s := linkTaken l s) ho hq.1 (hlink ▸ hl) hlead (hlink ▸ hne)
  have hwrite : writeRole l r (linkTaken l s) = changeRole l r (linkTaken l s) :=
    (if_neg (hlink ▸ Ne.symm hne)).trans (if_neg hlead)
  have happly : applyLink l f (linkTaken l s) = changeRole l r (linkTaken l s) := by
    rw [applyLink_of_keepsId (hlink ▸ hk) hr (by rw [hwrite, hchanged.roles]), hwrite]
  have hok : judgeLink l f.role (linkTaken l s) = .ok := judgeLink_served hr (hlink ▸ hl) hlevel
  have hexec := exec_writeLink_ok hsv hok
  have hsettle : settle (changeRole l r (linkTaken l s)) = changeRole l r (linkTaken l s) :=
    settle_of_quiescent ⟨by rw [hchanged.roles], by rw [hchanged.ann]; exact hq.2⟩
  rw [happly, hsettle] at hexec
  generalize changeRole l r (linkTaken l s) = u at hexec hchanged
  have hmerge := hchanged.merge
  rw [hlink] at hmerge
  refine ⟨_, hexec, hchanged.role, hchanged.other, hchanged.roles, hchanged.hunts, fun h => ?_, hchanged.emptied,
    hchanged.kept, fun hp => ?_, fun hp => ?_, hchanged.leadTracker, hchanged.routes, hchanged.store, hchanged.packets,
    hchanged.ann, rfl⟩
  · exact (hchanged.stays h).trans (congrArg Link.sync hlink)
  · rw [if_pos hp] at hmerge
    exact hmerge
  · rw [if_neg hp] at hmerge
    exact hmerge

/-! ### A SEAMLESS handover -/

section Seamless

variable {s : State} {l : LinkId}

/-- R52: the roles are exchanged. -/
theorem handover_seamless (why : RoleReason) : handover l .partner true why s =
    roleNotice why (some .seamless) (clearMarks (setRole (otherLink l) .partner (setRole l .lead s))) := rfl

theorem roleNotice_noticed (why : RoleReason) (k : Option HandoverKind) (s : State) :
    (roleNotice why k s).Noticed (.role (s.link .a).role (s.link .b).role why k s.lastQ) := State.noticed_raiseAt _ _ _

/-- Both roles set. -/
theorem setRoles_link (a b : Role) : (setRole (otherLink l) a (setRole l b s)).link l = { s.link l with role := b } ∧
    (setRole (otherLink l) a (setRole l b s)).link (otherLink l) = { s.link (otherLink l) with role := a } := by
  cases l <;> exact ⟨rfl, rfl⟩

end Seamless

/-- What a SEAMLESS handover of a manual write leaves. -/
structure State.Swapped (l : LinkId) (s t : State) : Prop where
  link : t.link l = { s.link l with role := .lead }
  other : t.link (otherLink l) = { s.link (otherLink l) with role := .partner }
  roles : t.roles = { s.roles with arm := none, dwell := 0, advised := false }
  rest : t.merge = s.merge ∧ t.leadTracker = s.leadTracker ∧ t.scoutTracker = s.scoutTracker ∧ t.store = s.store ∧
    t.routes = s.routes ∧ t.packets = s.packets ∧ t.ann = s.ann
  noticed : t.Noticed (.role (t.link .a).role (t.link .b).role .manual (some .seamless) s.lastQ)

theorem handover_swapped (s : State) (l : LinkId) : s.Swapped l (handover l .partner true .manual s) := by
  obtain ⟨hl, ho⟩ := setRoles_link (s := s) (l := l) .partner .lead
  rw [handover_seamless]
  generalize hv : setRole (otherLink l) .partner (setRole l .lead s) = v at hl ho
  have hlink : ∀ k, (roleNotice .manual (some .seamless) (clearMarks v)).link k = v.link k := fun k => by
    unfold roleNotice State.raise
    rw [State.link_raiseAt]
    cases k <;> rfl
  have hq : (clearMarks v).lastQ = s.lastQ := by
    rw [← hv]
    simp [State.lastQ, clearMarks]
  have hnotice := roleNotice_noticed .manual (some .seamless) (clearMarks v)
  rw [hq] at hnotice
  refine ⟨by rw [hlink, hl], by rw [hlink, ho], ?_, ?_, ?_⟩
  · simp [roleNotice, State.raise, clearMarks, ← hv]
  · simp [roleNotice, State.raise, clearMarks, ← hv]
  · rw [hlink, hlink]
    exact hnotice

/-- Settles O25: the exchange of roles when every condition of R51 holds. -/
theorem seamlessSwap : Obligations.SeamlessSwap := by
  intro s tag l f rp last m h hq ho hsv hk hrole hrun hpartner holds hnews hmux hrp hlast hmap hheader hversion hdist
  have hlink : (linkTaken l s).link l = s.link l := by cases l <;> rfl
  have hother : (linkTaken l s).link (otherLink l) = s.link (otherLink l) := by cases l <;> rfl
  have hr : roleOf f.role = some .lead := by rw [hrole]; rfl
  have hseamless : isSeamless l (linkTaken l s) = true := by
    have hrp' : (linkTaken l s).merge.releasePoint = some rp := hrp
    have hmap' : (linkTaken l s).leadMap = some m := hmap
    unfold isSeamless
    dsimp only
    rw [hlink, hother, hrp', hlast, hmap', hheader]
    dsimp only
    rw [holds, hnews, hmux, hversion]
    obtain hd | hd := hdist
    · simp [hd]
    · simp [hd]
  have hswap := handover_swapped (linkTaken l s) l
  have hwrite : writeRole l .lead (linkTaken l s) = handover l .partner true .manual (linkTaken l s) := by
    unfold writeRole manualHandover
    rw [hlink, hpartner, if_neg (by decide), if_pos rfl, hseamless]
  generalize handover l .partner true .manual (linkTaken l s) = u at hwrite hswap
  obtain ⟨hlead, hold, hroles, ⟨hmerge, hlt, hst, hstore, hroutes, hpackets, hann⟩, hnoticed⟩ := hswap
  have hd : u.roles.decision = none := by
    rw [hroles]
    exact hq.1
  have happly : applyLink l f (linkTaken l s) = u := by
    rw [applyLink_of_keepsId (hlink ▸ hk) hr (by rw [hwrite, hd]), hwrite]
  have hok : judgeLink l f.role (linkTaken l s) = .ok :=
    judgeLink_served hr (by rw [hlink, hpartner]; decide) (.inl hrun)
  have hexec := exec_writeLink_ok hsv hok
  rw [happly, settle_of_quiescent (s := u) ⟨hd, by rw [hann]; exact hq.2⟩] at hexec
  rw [hlink] at hlead
  rw [hother] at hold
  refine ⟨_, hexec, hlead, hold, hroles.trans ?_, hmerge, hlt, hst, hstore, hroutes, hpackets, hann, hnoticed, rfl⟩
  exact clearMarks_roles (s := s) hq.1

end Sys2Proof.Machine
end

section
/-! SUPPORT. A change of the lead map, route by route (R97, R88, R127; O42). -/

namespace Sys2Proof.Machine

/-! ### No assembly of a route -/

/-- Route n has no open assembly. -/
def State.Unassembled (n : Nat) (s : State) : Prop := ∀ i < 8, ∀ a, s.assemblyAt i = some a → a.route ≠ n

theorem State.Unassembled.congr {n : Nat} {s t : State} (hs : s.Unassembled n) (h : t.packets = s.packets) :
    t.Unassembled n := by
  unfold State.Unassembled State.assemblyAt
  rw [h]
  exact hs

theorem State.Unassembled.abortRoute {n : Nat} {s : State} (hs : s.Unassembled n) (m : Nat) (why : AbortReason) :
    (abortRoute m why s).Unassembled n := fun i hi a ha => by
  rw [(abortRoute_aborted m why s).table] at ha
  split at ha
  · cases ha
  · exact hs i hi a ha

theorem abortRoute_unassembled (n : Nat) (why : AbortReason) (s : State) : (abortRoute n why s).Unassembled n :=
  fun _ hi _ ha => abortRoute_none_left n why s hi ha

theorem State.Unassembled.endRun {n : Nat} {s : State} (hs : s.Unassembled n) (m : Nat) :
    (endRun m s).Unassembled n :=
  State.Unassembled.abortRoute (s := s.modRoute m fun r => { r with run := false }) hs m .service

theorem endRun_unassembled (n : Nat) (s : State) : (endRun n s).Unassembled n := abortRoute_unassembled _ _ _

theorem State.Unassembled.allocTurn {n : Nat} {s : State} (hs : s.Unassembled n) (asks : List Nat) (m : Nat) :
    (allocTurn asks none s m).Unassembled n := by
  unfold Machine.allocTurn
  split
  · dsimp only
    split
    · exact hs
    · have hc : (if m ∈ asks then { s with store := { s.store with refusals := bump s.store.refusals } }
          else s).Unassembled n := by
        split
        · exact hs
        · exact hs
      rw [if_neg nofun]
      exact hc.endRun m
  · exact hs

theorem State.Unassembled.allocPass {n : Nat} {s : State} (hs : s.Unassembled n) (asks : List Nat) :
    (allocPass asks none s).Unassembled n := by
  unfold Machine.allocPass
  exact foldl_keeps (P := State.Unassembled n) (fun b m hb => hb.allocTurn asks m) _ s hs

theorem State.Unassembled.closeStep {n : Nat} {s : State} (hs : s.Unassembled n) (before : State)
    (asks : List Nat) : (closeStep before asks none s).Unassembled n := by
  unfold Machine.closeStep
  extract_lets returned t
  have ht : t.Unassembled n := by
    unfold t
    split
    · exact hs.allocPass asks
    · exact hs
  clear_value t
  split
  · exact ht
  · exact ht

/-! ### One turn of the allocator, and a whole pass -/

theorem allocTurn_other {asks : List Nat} {imm : Option Nat} {m n : Nat} (hmn : m ≠ n) (s : State) :
    (allocTurn asks imm s m).route n = s.route n := by
  by_cases hidle : (s.route m).state ≠ .starved ∨ (s.route m).bound = none
  · rw [allocTurn_idle hidle]
  · rw [not_or, not_not] at hidle
    obtain ⟨hstate, hbound⟩ := hidle
    obtain ⟨lane, hbound⟩ := Option.ne_none_iff_exists'.mp hbound
    by_cases hroom : pageNeed lane.geometry ≤ s.freePages.length
    · rw [allocTurn_grants asks imm hstate hbound hroom, State.route_modRoute_other _ _ hmn]
    · rw [allocTurn_refuses asks imm hstate hbound (Nat.lt_of_not_le hroom)]
      split
      · rw [State.route_modRoute_other _ _ hmn, countRefusal_route]
      · rw [endRun_other _ _ hmn.symm, countRefusal_route]

theorem allocTurn_length (asks : List Nat) (imm : Option Nat) (m : Nat) (s : State) :
    (allocTurn asks imm s m).routes.length = s.routes.length := by
  by_cases hidle : (s.route m).state ≠ .starved ∨ (s.route m).bound = none
  · rw [allocTurn_idle hidle]
  · rw [not_or, not_not] at hidle
    obtain ⟨hstate, hbound⟩ := hidle
    obtain ⟨lane, hbound⟩ := Option.ne_none_iff_exists'.mp hbound
    by_cases hroom : pageNeed lane.geometry ≤ s.freePages.length
    · rw [allocTurn_grants asks imm hstate hbound hroom, State.modRoute_routes, List.length_modify]
    · rw [allocTurn_refuses asks imm hstate hbound (Nat.lt_of_not_le hroom)]
      split
      · rw [State.modRoute_routes, List.length_modify, countRefusal_routes]
      · rw [endRun_length, countRefusal_routes]

/-- A route that waits for the pages of a lane, its run flag as given. -/
structure Route.Waits (lane : Lane) (run : Bool) (r : Route) : Prop where
  state : r.state = .starved
  bound : r.bound = some lane
  pages : r.pages = []
  run : r.run = run

/-- What a pass leaves of it: its need, or none and no run. -/
def Route.Served (lane : Lane) (run : Bool) (r : Route) : Prop :=
  r.bound = some lane ∧
    ((r.state = .filling ∧ r.fill = 0 ∧ r.pages.length = pageNeed lane.geometry ∧ r.run = run) ∨
      (r.state = .starved ∧ r.pages = [] ∧ r.run = false))

/-- R75: the turn of a waiting route. -/
theorem allocTurn_serves {asks : List Nat} {n : Nat} {s : State} {lane : Lane} {run : Bool} (hn : n < s.routes.length)
    (h : (s.route n).Waits lane run) : ((allocTurn asks none s n).route n).Served lane run := by
  by_cases hroom : pageNeed lane.geometry ≤ s.freePages.length
  · rw [allocTurn_grants asks none h.state h.bound hroom, State.route_modRoute_same _ _ _ hn]
    exact ⟨h.bound, .inl ⟨rfl, rfl, List.length_take_of_le hroom, h.run⟩⟩
  · rw [allocTurn_refuses asks none h.state h.bound (Nat.lt_of_not_le hroom), if_neg nofun, endRun_record,
      countRefusal_route]
    exact ⟨h.bound, .inr ⟨h.state, h.pages, rfl⟩⟩

theorem allocPass_serves {asks : List Nat} {n : Nat} {s : State} {lane : Lane} {run : Bool} (h18 : n < 18)
    (hn : n < s.routes.length) (h : (s.route n).Waits lane run) :
    ((allocPass asks none s).route n).Served lane run := by
  obtain ⟨c, hc, hsame, hfold⟩ := foldl_reaches (f := allocTurn asks none) (π := fun t => t.route n)
    (fun b m hm => allocTurn_other hm b) (fun t => n < t.routes.length)
    (fun b m hb => hb.trans_eq (allocTurn_length asks none m b).symm) (List.range 18) (List.mem_range.mpr h18)
    List.nodup_range s hn
  unfold allocPass
  rw [hfold]
  exact allocTurn_serves hc (hsame ▸ h)

/-- The routes at the end of a step: those of its pass, when it has one. -/
theorem closeStep_routes (before : State) (asks : List Nat) (imm : Option Nat) (s : State) :
    (closeStep before asks imm s).routes =
      if pagesReturned before s || !asks.isEmpty then (allocPass asks imm s).routes else s.routes := by
  unfold closeStep
  extract_lets returned t
  have ht : t.routes = if pagesReturned before s || !asks.isEmpty then (allocPass asks imm s).routes else s.routes := by
    unfold t
    split
    · rfl
    · rfl
  clear_value t
  split
  · exact ht
  · exact ht

theorem closeStep_route (before : State) (asks : List Nat) (imm : Option Nat) (s : State) (n : Nat) :
    (closeStep before asks imm s).route n =
      if pagesReturned before s || !asks.isEmpty then (allocPass asks imm s).route n else s.route n := by
  unfold State.route
  rw [closeStep_routes]
  split
  · rfl
  · rfl

/-- R75: a route that asks for pages in its step is served at the end of it. -/
theorem closeStep_serves {asks : List Nat} {n : Nat} {s before : State} {lane : Lane} {run : Bool} (h18 : n < 18)
    (hn : n < s.routes.length) (h : (s.route n).Waits lane run) (hasks : n ∈ asks) :
    ((closeStep before asks none s).route n).Served lane run := by
  have hsome : (pagesReturned before s || !asks.isEmpty) = true := by
    cases asks with
    | nil => cases hasks
    | cons a rest => rw [List.isEmpty_cons, Bool.not_false, Bool.or_true]
  rw [closeStep_route, if_pos hsome]
  exact allocPass_serves h18 hn h

/-- A route that waited already is served, or goes on waiting. -/
theorem closeStep_waiting {asks : List Nat} {n : Nat} {s before : State} {lane : Lane} {run : Bool} (h18 : n < 18)
    (hn : n < s.routes.length) (h : (s.route n).Waits lane run) :
    ((closeStep before asks none s).route n).Served lane run ∨
      ((closeStep before asks none s).route n).Waits lane run := by
  rw [closeStep_route]
  split
  · exact .inl (allocPass_serves h18 hn h)
  · exact .inr h

end Sys2Proof.Machine
end

section
/-! SUPPORT. A change of the lead map, route by route (R97, R88, R127; O42). -/

namespace Sys2Proof.Machine

/-! ### What a route resolves to -/

theorem lookupLane_congr {s t : State} {n : Nat} (hr : t.route n = s.route n) (hl : t.leadTracker = s.leadTracker) :
    lookupLane t n = lookupLane s n := by
  unfold lookupLane State.lane State.leadMap
  rw [hr, hl]

/-- R95: with no lead map a host route resolves to nothing. -/
theorem lookupLane_unmapped {s : State} (h : s.leadTracker.map = none) (n : Nat) : lookupLane s n = none := by
  unfold lookupLane State.lane State.leadMap
  rw [h]
  dsimp only
  split
  · rfl
  · cases (s.route n).binding <;> rfl

/-! ### One route's turn -/

section Turn

variable {x : State × List Nat} {n : Nat}

theorem remapRoute_stays (h : (x.1.route n).state = .vacant ∨ (x.1.route n).state = .suspended) :
    remapRoute x n = x := by
  unfold remapRoute
  dsimp only
  obtain h | h := h
  · rw [h]
  · rw [h]

/-- R88: what happens to a route that holds pages. -/
def rebindTurn (x : State × List Nat) (n : Nat) (lane : Lane) : State × List Nat :=
  let y := rebindRoute x n lane
  (if (x.1.route n).bound.any (·.form = .packet) && lane.form = .stream then abortRoute n .service y.1 else y.1, y.2)

section Bound

variable (hv : (x.1.route n).state ≠ .vacant) (hs : (x.1.route n).state ≠ .suspended)
include hv hs

theorem remapRoute_lost (h : lookupLane x.1 n = none) : remapRoute x n = (toPending n x.1, x.2) := by
  unfold remapRoute
  dsimp only
  rw [h]
  cases hstate : (x.1.route n).state with
  | vacant => exact absurd hstate hv
  | suspended => exact absurd hstate hs
  | pending => rfl
  | starved => rfl
  | filling => rfl
  | running => rfl

theorem remapRoute_found {lane : Lane} (h : lookupLane x.1 n = some lane) :
    ((x.1.route n).state = .pending ∧ remapRoute x n = (toWaiting n lane x.1, x.2 ++ [n])) ∨
    ((x.1.route n).state = .starved ∧ ∃ asks, (asks = x.2 ++ [n] ∨ asks = x.2) ∧
      remapRoute x n = (x.1.modRoute n fun r => { r with bound := some lane }, asks)) ∨
    (((x.1.route n).state = .filling ∨ (x.1.route n).state = .running) ∧ remapRoute x n = rebindTurn x n lane) := by
  unfold remapRoute
  dsimp only
  rw [h]
  cases hstate : (x.1.route n).state with
  | vacant => exact absurd hstate hv
  | suspended => exact absurd hstate hs
  | pending => exact .inl ⟨rfl, rfl⟩
  | starved =>
    refine .inr (.inl ⟨rfl, _, ?_, rfl⟩)
    split
    · exact .inl rfl
    · exact .inr rfl
  | filling => exact .inr (.inr ⟨.inl rfl, rfl⟩)
  | running => exact .inr (.inr ⟨.inr rfl, rfl⟩)

end Bound

theorem toPending_other {m : Nat} (hmn : m ≠ n) (s : State) : (toPending n s).route m = s.route m := by
  unfold toPending
  rw [endRun_other n _ hmn, State.route_modRoute_other _ _ hmn.symm]

theorem toPending_length (n : Nat) (s : State) : (toPending n s).routes.length = s.routes.length := by
  unfold toPending
  rw [endRun_length, State.modRoute_routes, List.length_modify]

theorem rebindTurn_other {m : Nat} (hmn : m ≠ n) (lane : Lane) : (rebindTurn x n lane).1.route m = x.1.route m := by
  have hy : (rebindRoute x n lane).1.route m = x.1.route m := by
    unfold rebindRoute toWaiting
    split
    · exact State.route_modRoute_other _ _ hmn.symm
    · exact State.route_modRoute_other _ _ hmn.symm
  unfold rebindTurn
  dsimp only
  split
  · rw [abortRoute_route_other _ _ _ hmn, hy]
  · exact hy

theorem rebindTurn_length (lane : Lane) : (rebindTurn x n lane).1.routes.length = x.1.routes.length := by
  have hy : (rebindRoute x n lane).1.routes.length = x.1.routes.length := by
    unfold rebindRoute toWaiting
    split
    · exact List.length_modify _ _ _
    · exact List.length_modify _ _ _
  unfold rebindTurn
  dsimp only
  split
  · rw [abortRoute_length, hy]
  · exact hy

theorem rebindTurn_asks {m : Nat} (hmn : m ≠ n) (lane : Lane) : m ∈ (rebindTurn x n lane).2 ↔ m ∈ x.2 := by
  unfold rebindTurn rebindRoute
  dsimp only
  split
  · exact Iff.rfl
  · simp [hmn]

/-- A turn of another route, and what it asks. -/
theorem remapRoute_other {m : Nat} (hmn : m ≠ n) :
    (remapRoute x n).1.route m = x.1.route m ∧ (m ∈ (remapRoute x n).2 ↔ m ∈ x.2) := by
  by_cases hv : (x.1.route n).state = .vacant
  · rw [remapRoute_stays (.inl hv)]
    exact ⟨rfl, Iff.rfl⟩
  by_cases hs : (x.1.route n).state = .suspended
  · rw [remapRoute_stays (.inr hs)]
    exact ⟨rfl, Iff.rfl⟩
  cases h : lookupLane x.1 n with
  | none =>
    rw [remapRoute_lost hv hs h]
    dsimp only
    exact ⟨toPending_other hmn x.1, Iff.rfl⟩
  | some lane =>
    obtain ⟨-, he⟩ | ⟨-, asks, hasks, he⟩ | ⟨-, he⟩ := remapRoute_found hv hs h
    · rw [he]
      exact ⟨State.route_modRoute_other _ _ hmn.symm, by simp [hmn]⟩
    · rw [he]
      refine ⟨State.route_modRoute_other _ _ hmn.symm, ?_⟩
      obtain rfl | rfl := hasks
      · simp [hmn]
      · exact Iff.rfl
    · rw [he]
      exact ⟨rebindTurn_other hmn lane, rebindTurn_asks hmn lane⟩

theorem remapRoute_length (x : State × List Nat) (n : Nat) :
    (remapRoute x n).1.routes.length = x.1.routes.length := by
  by_cases hv : (x.1.route n).state = .vacant
  · rw [remapRoute_stays (.inl hv)]
  by_cases hs : (x.1.route n).state = .suspended
  · rw [remapRoute_stays (.inr hs)]
  cases h : lookupLane x.1 n with
  | none =>
    rw [remapRoute_lost hv hs h]
    exact toPending_length n x.1
  | some lane =>
    obtain ⟨-, he⟩ | ⟨-, asks, -, he⟩ | ⟨-, he⟩ := remapRoute_found hv hs h
    · rw [he]
      exact List.length_modify _ _ _
    · rw [he]
      exact List.length_modify _ _ _
    · rw [he]
      exact rebindTurn_length lane

theorem remapRoute_leadTracker (x : State × List Nat) (n : Nat) :
    (remapRoute x n).1.leadTracker = x.1.leadTracker :=
  ((trackersRestacked x.1.leadTracker x.1.scoutTracker).remapRoute x n ⟨rfl, rfl⟩).1

theorem State.Unassembled.toPending {m : Nat} {s : State} (h : s.Unassembled m) (n : Nat) :
    (toPending n s).Unassembled m := by
  have hm : (s.modRoute n fun r => { r.dropPages with state := .pending, bound := none }).Unassembled m := h
  exact hm.endRun n

theorem remapRoute_unassembled {m : Nat} (h : x.1.Unassembled m) : (remapRoute x n).1.Unassembled m := by
  by_cases hv : (x.1.route n).state = .vacant
  · rw [remapRoute_stays (.inl hv)]
    exact h
  by_cases hs : (x.1.route n).state = .suspended
  · rw [remapRoute_stays (.inr hs)]
    exact h
  cases hl : lookupLane x.1 n with
  | none =>
    rw [remapRoute_lost hv hs hl]
    dsimp only
    exact h.toPending n
  | some lane =>
    obtain ⟨-, he⟩ | ⟨-, asks, -, he⟩ | ⟨-, he⟩ := remapRoute_found hv hs hl
    · rw [he]
      exact h
    · rw [he]
      exact h
    · rw [he]
      have hy : (rebindRoute x n lane).1.Unassembled m := by
        unfold rebindRoute
        split
        · exact h
        · exact h
      unfold rebindTurn
      dsimp only
      split
      · exact hy.abortRoute n .service
      · exact hy

/-! ### What its own turn leaves of a route -/

/-- A PENDING route. -/
structure Route.Lost (r : Route) : Prop where
  state : r.state = .pending
  bound : r.bound = none
  pages : r.pages = []
  run : r.run = false

theorem toPending_same {s : State} (hn : n < s.routes.length) : (toPending n s).route n =
    { s.route n with
      pages := [], geometry := none, fill := 0, tallies := [], state := .pending, bound := none, run := false
      aborted := ((toPending n s).route n).aborted, lastAbort := ((toPending n s).route n).lastAbort } := by
  have h := endRun_record n (s.modRoute n fun r => { r.dropPages with state := .pending, bound := none })
  rw [State.route_modRoute_same _ _ _ hn] at h
  exact h

/-- A route that has its pages laid out for the lane already. -/
def Route.Rebound (r : Route) (lane : Lane) (r' : Route) : Prop :=
  ∃ k why, r' = { r with bound := some lane, aborted := k, lastAbort := why }

section Rebind

variable {lane : Lane} (hn : n < x.1.routes.length)
include hn

theorem rebindTurn_rebound (h : (x.1.route n).holds lane.geometry = true) :
    (x.1.route n).Rebound lane ((rebindTurn x n lane).1.route n) := by
  have hy : (rebindRoute x n lane).1.route n = { x.1.route n with bound := some lane } := by
    unfold rebindRoute
    rw [if_pos h]
    exact State.route_modRoute_same _ _ _ hn
  unfold rebindTurn
  dsimp only
  split
  · rw [abortRoute_route_same, hy]
    exact ⟨_, _, rfl⟩
  · exact ⟨_, _, hy⟩

theorem toWaiting_waits : ((toWaiting n lane x.1).route n).Waits lane (x.1.route n).run := by
  unfold toWaiting
  rw [State.route_modRoute_same _ _ _ hn]
  exact ⟨rfl, rfl, rfl, rfl⟩

theorem rebindTurn_waits (h : (x.1.route n).holds lane.geometry ≠ true) :
    ((rebindTurn x n lane).1.route n).Waits lane (x.1.route n).run ∧ n ∈ (rebindTurn x n lane).2 := by
  have hy : rebindRoute x n lane = (toWaiting n lane x.1, x.2 ++ [n]) := if_neg h
  unfold rebindTurn
  rw [hy]
  dsimp only
  refine ⟨?_, by simp⟩
  have hw := toWaiting_waits (lane := lane) hn
  split
  · rw [abortRoute_route_same]
    exact ⟨hw.state, hw.bound, hw.pages, hw.run⟩
  · exact hw

end Rebind

section Found

variable {lane : Lane} (hn : n < x.1.routes.length) (hneed : (x.1.route n).HoldsNeed)
  (hv : (x.1.route n).state ≠ .vacant) (hs : (x.1.route n).state ≠ .suspended) (h : lookupLane x.1 n = some lane)
include hn hneed hv hs h

theorem remapRoute_keeps (hp : (x.1.route n).pages ≠ []) (hg : (x.1.route n).geometry = some lane.geometry) :
    (x.1.route n).Rebound lane ((remapRoute x n).1.route n) := by
  have nopages : (x.1.route n).state = .pending ∨ (x.1.route n).state = .starved → (x.1.route n).pages = [] := by
    intro hst
    unfold Route.HoldsNeed at hneed
    rwa [if_neg (by obtain hst | hst := hst <;> rw [hst] <;> decide)] at hneed
  obtain ⟨hst, -⟩ | ⟨hst, -⟩ | ⟨-, he⟩ := remapRoute_found hv hs h
  · exact absurd (nopages (.inl hst)) hp
  · exact absurd (nopages (.inr hst)) hp
  · rw [he]
    exact rebindTurn_rebound hn (Route.holds_iff.mpr ⟨hp, hg⟩)

theorem remapRoute_waits (hg : (x.1.route n).pages = [] ∨ (x.1.route n).geometry ≠ some lane.geometry) :
    ((remapRoute x n).1.route n).Waits lane (x.1.route n).run ∧
      ((x.1.route n).state ≠ .starved → n ∈ (remapRoute x n).2) := by
  obtain ⟨-, he⟩ | ⟨hst, asks, -, he⟩ | ⟨-, he⟩ := remapRoute_found hv hs h
  · rw [he]
    exact ⟨toWaiting_waits hn, fun _ => by simp⟩
  · rw [he]
    have hpages : (x.1.route n).pages = [] := by
      unfold Route.HoldsNeed at hneed
      rwa [if_neg (by rw [hst]; decide)] at hneed
    refine ⟨?_, fun hne => absurd hst hne⟩
    dsimp only
    rw [State.route_modRoute_same _ _ _ hn]
    exact ⟨hst, rfl, hpages, rfl⟩
  · rw [he]
    obtain ⟨hw, hask⟩ := rebindTurn_waits (lane := lane) hn fun hh => by
      obtain ⟨h1, h2⟩ := Route.holds_iff.mp hh
      exact hg.elim h1 fun hg => hg h2
    exact ⟨hw, fun _ => hask⟩

end Found

theorem rebindTurn_unassembled {lane old : Lane} (hb : (x.1.route n).bound = some old) (hp : old.form = .packet)
    (hf : lane.form = .stream) : (rebindTurn x n lane).1.Unassembled n := by
  unfold rebindTurn
  dsimp only
  rw [if_pos (by simp [hb, hp, hf])]
  exact abortRoute_unassembled _ _ _

end Turn

/-! ### All routes -/

/-- The turns of all routes before the pass of their step. -/
@[irreducible] def remapTurns (s : State) : State × List Nat := (List.range 18).foldl remapRoute (s, [])

theorem remapRoutes_eq (s : State) : remapRoutes s = closeStep s (remapTurns s).2 none (remapTurns s).1 := by
  unfold remapRoutes remapTurns
  rfl

/-- Route n among the turns: its record, and whether it has asked. -/
def askedAt (n : Nat) (x : State × List Nat) : Route × Prop := (x.1.route n, n ∈ x.2)

/-- The turn of route n finds that route, the map and the number of routes as they were before the first. -/
theorem remapTurns_at {s : State} {n : Nat} (hn : n < 18) : ∃ c : State × List Nat, c.1.route n = s.route n ∧
    lookupLane c.1 n = lookupLane s n ∧ c.1.routes.length = s.routes.length ∧
    (remapTurns s).1.route n = (remapRoute c n).1.route n ∧
    (n ∈ (remapTurns s).2 ↔ n ∈ (remapRoute c n).2) ∧
    (∀ m, (remapRoute c n).1.Unassembled m → (remapTurns s).1.Unassembled m) := by
  have hother : ∀ (b : State × List Nat) m, m ≠ n → askedAt n (remapRoute b m) = askedAt n b := fun b m hm => by
    obtain ⟨h1, h2⟩ := remapRoute_other (x := b) (n := m) (m := n) hm.symm
    exact Prod.ext h1 (propext h2)
  obtain ⟨c, ⟨hl, hlen⟩, hsame, rest, hrest, hfold⟩ := foldl_passes hother
    (fun x => x.1.leadTracker = s.leadTracker ∧ x.1.routes.length = s.routes.length)
    (fun b m hb => ⟨(remapRoute_leadTracker b m).trans hb.1, (remapRoute_length b m).trans hb.2⟩)
    (List.range 18) (List.mem_range.mpr hn) List.nodup_range (s, []) ⟨rfl, rfl⟩
  have hturns : remapTurns s = rest.foldl remapRoute (remapRoute c n) := by
    unfold remapTurns
    exact hfold
  have hroute : c.1.route n = s.route n := (Prod.ext_iff.mp hsame).1
  have hskip : askedAt n (remapTurns s) = askedAt n (remapRoute c n) := by
    rw [hturns]
    exact foldl_skips hother rest hrest (remapRoute c n)
  obtain ⟨hsame, hasks⟩ := Prod.ext_iff.mp hskip
  refine ⟨c, hroute, lookupLane_congr hroute hl, hlen, hsame, iff_of_eq hasks, fun m hm => ?_⟩
  rw [hturns]
  exact foldl_keeps (P := fun x : State × List Nat => x.1.Unassembled m)
    (fun b k hb => remapRoute_unassembled (n := k) hb) rest (remapRoute c n) hm

theorem remapTurns_length (s : State) : (remapTurns s).1.routes.length = s.routes.length := by
  unfold remapTurns
  exact foldl_keeps (P := fun x : State × List Nat => x.1.routes.length = s.routes.length)
    (fun b m hb => (remapRoute_length b m).trans hb) (List.range 18) (s, []) rfl

section Reached

variable {s : State} {n : Nat} (hp : s.PoolShared) (hn : n < 18)

theorem State.PoolShared.holdsNeed {s : State} (hp : s.PoolShared) {n : Nat} (hn : n < 18) : (s.route n).HoldsNeed :=
  hp.need _ (State.route_mem (hn.trans_eq hp.routes.symm))

/-- A route that survives the allocator as its turn leaves it. -/
theorem remapRoutes_kept {R : Route → Prop} (h : Allotted R) (hturn : R ((remapTurns s).1.route n)) :
    R ((remapRoutes s).route n) := by
  rw [remapRoutes_eq]
  exact h.closeStep s _ hturn

include hn

theorem remapRoutes_stays (h : (s.route n).state = .vacant ∨ (s.route n).state = .suspended) :
    (remapRoutes s).route n = s.route n := by
  obtain ⟨c, hroute, -, -, hsame, -, -⟩ := remapTurns_at (s := s) hn
  rw [remapRoute_stays (hroute ▸ h), hroute] at hsame
  refine remapRoutes_kept (R := fun r => r = s.route n) (Allotted.of_state fun r hr hs => ?_) hsame
  rw [hr] at hs
  rw [hs] at h
  exact h.elim nofun nofun

section Bound

variable (hv : (s.route n).state ≠ .vacant) (hs : (s.route n).state ≠ .suspended)
include hv hs

/-- R95: a route whose component is not found, its queue kept. -/
theorem remapRoutes_lost (hlen : n < s.routes.length) (h : lookupLane s n = none) :
    ((remapRoutes s).route n).Lost ∧ ((remapRoutes s).route n).fixed = (s.route n).fixed := by
  obtain ⟨c, hroute, hlook, hclen, hsame, -, -⟩ := remapTurns_at (s := s) hn
  rw [remapRoute_lost (hroute ▸ hv) (hroute ▸ hs) (hlook.trans h)] at hsame
  refine remapRoutes_kept (R := fun r => r.Lost ∧ r.fixed = (s.route n).fixed)
    (Allotted.of_state fun r hr hst => ?_) ?_
  · rw [hr.1.state] at hst
    cases hst
  · rw [hsame]
    dsimp only
    rw [toPending_same (hlen.trans_eq hclen.symm), hroute]
    exact ⟨⟨rfl, rfl, rfl, rfl⟩, rfl⟩

include hp

variable {lane : Lane} (h : lookupLane s n = some lane)
include h

theorem remapRoutes_rebound (hpages : (s.route n).pages ≠ []) (hg : (s.route n).geometry = some lane.geometry) :
    (s.route n).Rebound lane ((remapRoutes s).route n) := by
  obtain ⟨c, hroute, hlook, hclen, hsame, -, -⟩ := remapTurns_at (s := s) hn
  have hneed := hp.holdsNeed hn
  have hturn := remapRoute_keeps (x := c) (hn.trans_eq (hclen.trans hp.routes).symm) (hroute ▸ hneed) (hroute ▸ hv)
    (hroute ▸ hs) (hlook.trans h) (hroute ▸ hpages) (hroute ▸ hg)
  rw [hroute, ← hsame] at hturn
  refine remapRoutes_kept (Allotted.of_state fun r hr hst => ?_) hturn
  obtain ⟨k, why, rfl⟩ := hr
  unfold Route.HoldsNeed at hneed
  rw [if_neg (by rw [show (s.route n).state = .starved from hst]; decide)] at hneed
  exact hpages hneed

theorem remapRoutes_served (hg : (s.route n).pages = [] ∨ (s.route n).geometry ≠ some lane.geometry) :
    ((remapRoutes s).route n).Served lane (s.route n).run ∨
      (s.route n).state = .starved ∧ ((remapRoutes s).route n).Waits lane (s.route n).run := by
  obtain ⟨c, hroute, hlook, hclen, hsame, hasks, -⟩ := remapTurns_at (s := s) hn
  obtain ⟨hw, hask⟩ := remapRoute_waits (x := c) (hn.trans_eq (hclen.trans hp.routes).symm)
    (hroute ▸ hp.holdsNeed hn) (hroute ▸ hv) (hroute ▸ hs) (hlook.trans h) (hroute ▸ hg)
  rw [hroute, ← hsame] at hw
  rw [← hasks, hroute] at hask
  have hlen : n < (remapTurns s).1.routes.length := hn.trans_eq ((remapTurns_length s).trans hp.routes).symm
  rw [remapRoutes_eq]
  by_cases hst : (s.route n).state = .starved
  · exact (closeStep_waiting hn hlen hw).imp id fun hw => ⟨hst, hw⟩
  · exact .inl (closeStep_serves hn hlen hw (hask hst))

omit hp in
theorem remapRoutes_unassembled (hst : (s.route n).state = .filling ∨ (s.route n).state = .running) {old : Lane}
    (hb : (s.route n).bound = some old) (hold : old.form = .packet) (hlane : lane.form = .stream) :
    (remapRoutes s).Unassembled n := by
  obtain ⟨c, hroute, hlook, -, -, -, hun⟩ := remapTurns_at (s := s) hn
  have hst' : (c.1.route n).state = .filling ∨ (c.1.route n).state = .running := hroute ▸ hst
  obtain ⟨hc, -⟩ | ⟨hc, -⟩ | ⟨-, he⟩ := remapRoute_found (x := c) (hroute ▸ hv) (hroute ▸ hs) (hlook.trans h)
  · rw [hc] at hst'
    exact hst'.elim nofun nofun
  · rw [hc] at hst'
    exact hst'.elim nofun nofun
  · have hturn := hun n (by rw [he]; exact rebindTurn_unassembled (hroute ▸ hb) hold hlane)
    rw [remapRoutes_eq]
    exact hturn.closeStep s _

end Bound

end Reached

/-- Settles O42: the routes at a change of the lead map. -/
theorem leadMapReachesRoutes : Obligations.LeadMapReachesRoutes := by
  intro s n hp hn r r'
  refine ⟨remapRoutes_stays hn, fun hv hs => ⟨fun h => ?lost, fun lane h hpages hg => ?rebound,
    fun lane h hg => ?served, fun lane old h hb hold hlane hst => ?service⟩⟩
  case lost =>
    have hl := (remapRoutes_lost hn hv hs (hn.trans_eq hp.routes.symm) h).1
    exact ⟨hl.state, hl.bound, hl.pages, hl.run⟩
  case rebound =>
    obtain ⟨k, why, hr⟩ := remapRoutes_rebound hp hn hv hs h hpages hg
    have hr' : r' = { r with bound := some lane, aborted := k, lastAbort := why } := hr
    rw [hr']
  case served =>
    obtain ⟨hbound, hfill | hwait⟩ | ⟨hst, hw⟩ := remapRoutes_served hp hn hv hs h hg
    · exact ⟨hbound, .inl hfill⟩
    · exact ⟨hbound, .inr ⟨hwait.1, hwait.2.1, .inr hwait.2.2⟩⟩
    · exact ⟨hw.bound, .inr ⟨hw.state, hw.pages, .inl hst⟩⟩
  case service => exact remapRoutes_unassembled hn hv hs h hst hb hold hlane

end Sys2Proof.Machine
end

section
/-! SUPPORT. A handover that is a BREAK (R53, O26). -/

namespace Sys2Proof.Machine

/-! ### Its steps -/

theorem clearMerge_eq (s : State) : clearMerge s =
    { s with linkA := (clearMerge s).linkA, linkB := (clearMerge s).linkB, merge := (clearMerge s).merge } := by
  refine Eq.trans (b := { dropHeld (fun _ => true) { s with merge := { s.merge with waiting := [] } } with
    merge := (clearMerge s).merge }) rfl ?_
  rw [dropHeld_links]
  rfl

theorem clearMerge_role (s : State) (l : LinkId) : ((clearMerge s).link l).role = (s.link l).role := by
  have h : (clearMerge s).link l =
      (dropHeld (fun _ => true) { s with merge := { s.merge with waiting := [] } }).link l := by cases l <;> rfl
  rw [h, dropHeld_link]
  cases l <;> rfl

/-- R45: the emptying of the lead tracker does not reach the scout's. -/
theorem emptyLead_scoutTracker (why : LostReason) (s : State) :
    (emptyTracker .lead why s).scoutTracker = s.scoutTracker := by
  unfold emptyTracker emptyMap
  split
  · rfl
  · exact (leadMapChanged_trackers _).scout.trans (State.raiseAt_scoutTracker _ _ _)

/-! ### The end of a run in RUN -/

theorem settle_eq_of_run {s : State} (h : s.ann.level = .run) : settle s = s ∨ settle s = evaluateRun s := by
  unfold settle evaluate
  split
  · rw [h]
    exact .inr rfl
  · exact .inl rfl

theorem Passed.settle_run {n : Nat} {R : Route → Prop} (h : Passed n R) {s : State} (hl : s.ann.level = .run)
    (hs : OnRoute n R s) : OnRoute n R (settle s) := by
  obtain he | he := settle_eq_of_run hl
  · rw [he]
    exact hs
  · rw [he]
    exact h.evaluateRun hs

/-! ### What a BREAK leaves -/

/-- A host route that has lost its lane, and keeps its written fields and its queue. -/
def Route.Stranded (r₀ r : Route) : Prop := r.Lost ∧ r.fixed = r₀.fixed

theorem strandedPassed {n : Nat} (hn : n < 16) (r₀ : Route) : Passed n (Route.Stranded r₀) where
  held _ _ h := ⟨⟨h.1.1, h.1.2, h.1.3, h.1.4⟩, h.2⟩
  grant _ _ _ h hs := by rw [h.1.state] at hs; cases hs
  ended _ _ h hs _ := by rw [h.1.state] at hs; cases hs
  unbind hn' := absurd hn' hn.not_ge
  ask hn' := absurd hn' hn.not_ge
  binding hn' := absurd hn' hn.not_ge
  damage hn' := absurd hn' hn.not_ge

/-- What a BREAK that gives LEAD to link l, and `role` to the old lead, leaves of the part. -/
structure State.Broken (l : LinkId) (role : Role) (s t : State) : Prop where
  lead : (t.link l).role = .lead
  old : (t.link (otherLink l)).role = role
  merge : t.merge = { s.merge with waiting := [], held := [], releasePoint := none }
  leadTracker : t.leadTracker = { s.leadTracker with map := none, collection := none, target := none }
  scoutTracker : t.scoutTracker = s.scoutTracker
  roles : t.roles = { s.roles with arm := none, dwell := 0, advised := false }
  level : t.ann.level = .run
  noticed : t.Noticed (.role (t.link .a).role (t.link .b).role .manual (some .brk) s.lastQ)
  lost : ∀ m, s.leadTracker.map = some m → t.Noticed (.mapLost .lead l .handover m.version) ∧
    ∀ n < 16, (s.route n).state ≠ .vacant → (s.route n).state ≠ .suspended → (s.route n).Stranded (t.route n)

/-- What follows a BREAK in the same event leaves what it has left. -/
theorem State.Broken.next {l : LinkId} {role : Role} {s t u : State} (h : s.Broken l role t)
    (hrole : ∀ k, (u.link k).role = (t.link k).role) (hmerge : u.merge = t.merge) (hl : u.leadTracker = t.leadTracker)
    (hc : u.scoutTracker = t.scoutTracker) (hr : u.roles = t.roles) (hlevel : u.ann.level = .run)
    (hn : ∀ b, t.Noticed b → u.Noticed b)
    (hroute : ∀ n < 16, ∀ r₀ : Route, r₀.Stranded (t.route n) → r₀.Stranded (u.route n)) : s.Broken l role u where
  lead := (hrole l).trans h.lead
  old := (hrole _).trans h.old
  merge := hmerge.trans h.merge
  leadTracker := hl.trans h.leadTracker
  scoutTracker := hc.trans h.scoutTracker
  roles := hr.trans h.roles
  level := hlevel
  noticed := by
    rw [hrole, hrole]
    exact hn _ h.noticed
  lost m hm := ⟨hn _ (h.lost m hm).1, fun n hlt hv hs => hroute n hlt _ ((h.lost m hm).2 n hlt hv hs)⟩

/-- R53: the tracker's part. -/
theorem emptyLead_stranded {s : State} {m : MuxMap} (hm : s.leadTracker.map = some m) (why : LostReason) {n : Nat}
    (hn : n < 16) (hv : (s.route n).state ≠ .vacant) (hs : (s.route n).state ≠ .suspended) :
    (s.route n).Stranded ((emptyTracker .lead why s).route n) := by
  unfold emptyTracker
  rw [emptyMap_present .lead (m := m) _ (by rw [State.tracker_modTracker]; exact hm)]
  generalize hu : State.raiseAt _ _ _ = u
  have hroutes : u.routes = s.routes := by
    rw [← hu, State.raiseAt_routes]
    rfl
  have hr : u.route n = s.route n := congrArg (fun rs : List Route => rs.getD n (.reset n)) hroutes
  have hmap : u.leadTracker.map = none := by
    rw [← hu, State.raiseAt_leadTracker]
    rfl
  have hlen : n < u.routes.length := by
    rw [hroutes]
    exact State.lt_of_state_ne hv
  have hturn := remapRoutes_lost (s := u) (n := n) (by omega) (hr ▸ hv) (hr ▸ hs) hlen (lookupLane_unmapped hmap n)
  rw [hr] at hturn
  exact (strandedPassed hn (s.route n)).controllerMapChange hturn

section Break

variable {s : State} {l : LinkId} {role : Role}

theorem handover_break_eq (why : RoleReason) : handover l role false why s =
    roleNotice why (some .brk) (emptyTracker .lead .handover (clearMerge
      (clearMarks (setRole (otherLink l) role (setRole l .lead s))))) := rfl

theorem handover_broken (hrole : role ≠ .lead) (hrun : s.ann.level = .run) :
    s.Broken l role (handover l role false .manual s) := by
  have hlevel : (handover l role false .manual s).ann.level = .run := runKept.handover l role false .manual hrole hrun
  obtain ⟨hl, ho⟩ := setRoles_link (s := s) (l := l) role .lead
  rw [handover_break_eq] at hlevel ⊢
  obtain ⟨v, hv⟩ : ∃ v, clearMerge (clearMarks (setRole (otherLink l) role (setRole l .lead s))) = v := ⟨_, rfl⟩
  have hvrole : ∀ k, (v.link k).role = ((setRole (otherLink l) role (setRole l .lead s)).link k).role := fun k => by
    rw [← hv, clearMerge_role]
    cases k <;> rfl
  have hvmerge : v.merge = { s.merge with waiting := [], held := [], releasePoint := none } := by
    rw [← hv, clearMerge_merge]
    simp [clearMarks]
  have hvl : v.leadTracker = s.leadTracker := by
    rw [← hv, clearMerge_eq]
    simp [clearMarks]
  have hvc : v.scoutTracker = s.scoutTracker := by
    rw [← hv, clearMerge_eq]
    simp [clearMarks]
  have hvr : v.roles = { s.roles with arm := none, dwell := 0, advised := false } := by
    rw [← hv, clearMerge_eq]
    simp [clearMarks]
  have hvroutes : v.routes = s.routes := by
    rw [← hv, clearMerge_eq]
    simp [clearMarks]
  have hlead : (v.link l).role = .lead := by rw [hvrole, hl]
  have hold : (v.link (otherLink l)).role = role := by rw [hvrole, ho]
  have hone : v.oneLead := by
    unfold State.oneLead
    cases l
    · exact iff_of_true hlead (by rw [show v.linkB.role = role from hold]; exact hrole)
    · exact iff_of_false (by rw [show v.linkA.role = role from hold]; exact hrole) (not_not_intro hlead)
  rw [hv] at hlevel ⊢
  have hports := emptyTracker_ports .lead .handover v
  have hnotice := roleNotice_noticed .manual (some .brk) (emptyTracker .lead .handover v)
  have hq : (emptyTracker .lead .handover v).lastQ = s.lastQ := by
    rw [hports.lastQ]
    unfold State.lastQ
    rw [hvmerge]
  rw [hq] at hnotice
  have hlink : ∀ k, (roleNotice .manual (some .brk) (emptyTracker .lead .handover v)).link k = v.link k := fun k => by
    unfold roleNotice State.raise
    rw [State.link_raiseAt, hports.link]
  rw [hports.link, hports.link, ← hlink, ← hlink] at hnotice
  refine ⟨by rw [hlink, hlead], by rw [hlink, hold], ?_, ?_, ?_, ?_, hlevel, hnotice, fun m hm => ⟨?_, ?_⟩⟩
  · exact (State.raiseAt_merge _ _ _).trans (hports.merge.trans hvmerge)
  · refine (State.raiseAt_leadTracker _ _ _).trans ((emptyTracker_tracker .lead v .handover).trans ?_)
    show { v.leadTracker with map := none, collection := none, target := none } = _
    rw [hvl]
  · exact (State.raiseAt_scoutTracker _ _ _).trans ((emptyLead_scoutTracker _ _).trans hvc)
  · exact (State.raiseAt_roles _ _ _).trans (hports.roles.trans hvr)
  · have hlost := emptyTracker_noticed .lead v .handover (m := m) (by rw [← hm, ← hvl]; rfl)
    rw [State.feeder_lead hone hlead] at hlost
    exact State.HasNotice.raiseAt hlost _ _
  · intro n hn hsv hss
    have hr : v.route n = s.route n := congrArg (fun rs : List Route => rs.getD n (.reset n)) hvroutes
    have hst := emptyLead_stranded (s := v) (m := m) (hvl ▸ hm) .handover hn (hr ▸ hsv) (hr ▸ hss)
    rw [hr] at hst
    exact (OnRoute.congr (R := Route.Stranded (s.route n)) hst (State.raiseAt_routes _ _ _))

end Break

end Sys2Proof.Machine
end

section
/-! SUPPORT. LEAD written to an OFF link, or to a partner out of step (O26). -/

namespace Sys2Proof.Machine

section Off

variable {s : State} {l : LinkId} (h : (s.link l).role = .off)
include h

/-- R12: a departure of an OFF link tells no other block. -/
theorem goHunt_off : goHunt l s = if (s.link l).synced then portDepart l .hunt s
    else s.modLink l fun x => { x with sync := .hunt, confirmCount := 0, lastFn := none } := by
  have hrole : ((portDepart l .hunt s).link l).role = .off := by
    unfold portDepart
    rw [setLevel_role, State.link_modLink]
    exact h
  unfold goHunt depart
  dsimp only
  rw [hrole]

theorem goHunt_off_trackers : (goHunt l s).scoutTracker = s.scoutTracker ∧ (goHunt l s).merge = s.merge := by
  rw [goHunt_off h]
  split
  · unfold portDepart setLevel
    dsimp only
    split
    · simp
    · simp [State.raise]
  · simp

end Off

theorem State.Broken.goHunt {l : LinkId} {s t : State} (h : s.Broken l .off t) :
    s.Broken l .off (goHunt (otherLink l) t) := by
  have hb := goHunt_beside (otherLink l) t (by rw [h.old]; decide)
  obtain ⟨hscout, hmerge⟩ := goHunt_off_trackers h.old
  refine h.next (fun k => goHunt_role k (otherLink l) t) hmerge hb.leadTracker hscout hb.roles
    ((congrArg Announcer.level hb.ann).trans h.level)
    (fun b hn => (noticeKept _).goHunt (otherLink l) hn) fun n _ r₀ hn => ?_
  exact OnRoute.congr (R := r₀.Stranded) hn hb.routes

theorem State.Broken.settle {l : LinkId} {role : Role} {s t : State} (h : s.Broken l role t) :
    s.Broken l role (settle t) := by
  have hp := settle_ports t
  have ht := settle_trackers t
  refine h.next (fun k => by rw [hp.link]) hp.merge ht.lead ht.scout hp.roles (runKept.settle h.level)
    (fun b hn => (noticeEngine _).settle hn) fun n hlt r₀ hn => ?_
  exact (strandedPassed hlt r₀).settle_run h.level hn

/-- R51: the conditions of a BREAK from PARTNER. -/
theorem isSeamless_eq_false {s : State} {l : LinkId} (h : s.merge.releasePoint = none ∨ (s.link l).synced = false ∨
    (s.link (otherLink l)).synced = false ∨ (s.link l).followedId ≠ (s.link (otherLink l)).followedId ∨
    s.leadTracker.map = none) : isSeamless l s = false := by
  unfold isSeamless
  dsimp only
  split
  · rename_i rp last m hd hrp _ hmap _
    obtain h | h | h | h | h := h
    · rw [h] at hrp
      cases hrp
    · simp [h]
    · simp [h]
    · simp [h]
    · rw [show s.leadMap = none from h] at hmap
      cases hmap
  · rfl

/-- The handover of a LINK write that is a BREAK, with the hunt of an old lead that becomes OFF. -/
theorem manualHandover_broken {s : State} {l : LinkId} (hrun : s.ann.level = .run)
    (h : (s.link l).role = .off ∨ (s.link l).role = .partner ∧ isSeamless l s = false) :
    s.Broken l (s.link l).role (manualHandover l s) ∧
      ((s.link l).role = .off → ((manualHandover l s).link (otherLink l)).sync = .hunt) := by
  unfold manualHandover
  obtain h | ⟨h, hs⟩ := h
  · rw [h]
    exact ⟨(handover_broken (by decide) hrun).goHunt, fun _ => goHunt_sync _ _⟩
  · rw [h]
    dsimp only
    rw [hs]
    exact ⟨handover_broken (by decide) hrun, nofun⟩

/-- Settles O26: a handover by a LINK write that is a BREAK. -/
theorem breakHandover : Obligations.BreakHandover := by
  intro s tag l f hq ho hsv hk hrole hrun hbreak
  have hlink : (linkTaken l s).link l = s.link l := by cases l <;> rfl
  have hother : (linkTaken l s).link (otherLink l) = s.link (otherLink l) := by cases l <;> rfl
  have hr : roleOf f.role = some .lead := by rw [hrole]; rfl
  have hne : (s.link l).role ≠ .lead := fun hc => by
    rw [hc] at hbreak
    obtain h | ⟨h, -⟩ := hbreak
    · cases h
    · cases h
  have hcase : ((linkTaken l s).link l).role = .off ∨
      ((linkTaken l s).link l).role = .partner ∧ isSeamless l (linkTaken l s) = false := by
    rw [hlink]
    refine hbreak.imp id fun ⟨hp, hc⟩ => ⟨hp, isSeamless_eq_false ?_⟩
    rw [hlink, hother]
    exact hc
  obtain ⟨hb, hhunt⟩ := manualHandover_broken (s := linkTaken l s) hrun hcase
  have hwrite : writeRole l .lead (linkTaken l s) = manualHandover l (linkTaken l s) :=
    (if_neg (by rw [hlink]; exact hne)).trans (if_pos rfl)
  generalize manualHandover l (linkTaken l s) = u at hwrite hb hhunt
  rw [hlink] at hb hhunt
  have hd : u.roles.decision = none := by
    rw [hb.roles]
    exact hq.1
  have hok : judgeLink l f.role (linkTaken l s) = .ok := judgeLink_served hr (by rw [hlink]; exact hne) (.inl hrun)
  have hexec := exec_writeLink_ok hsv hok
  rw [applyLink_of_keepsId (hlink ▸ hk) hr (by rw [hwrite, hd]), hwrite] at hexec
  have hs := hb.settle
  have hsync : (s.link l).role = .off → ((settle u).link (otherLink l)).sync = .hunt := fun h => by
    rw [(settle_ports u).link]
    exact hhunt h
  generalize settle u = v at hexec hs hsync
  have htracker := hs.leadTracker
  refine ⟨_, hexec, hs.lead, hs.old, hsync, hs.merge, ?_, ?_, ?_, hs.scoutTracker,
    hs.roles.trans (clearMarks_roles (s := s) hq.1), hs.noticed, fun m hm => ⟨(hs.lost m hm).1, fun n hn hv hst => ?_⟩⟩
  · exact congrArg Tracker.map htracker
  · exact congrArg Tracker.collection htracker
  · exact congrArg Tracker.target htracker
  · obtain ⟨hlost, hfixed⟩ := (hs.lost m hm).2 n hn hv hst
    refine ⟨hlost.state, hlost.pages, hlost.bound, hlost.run, ?_⟩
    simp only [Route.fixed, Prod.mk.injEq] at hfixed
    exact hfixed.2.2.2.2.2.2

end Sys2Proof.Machine
end

section
/-! SUPPORT. A following (R70, R149, O28). -/

namespace Sys2Proof.Machine

/-! ### Runs -/

/-- No operation of allocator and controller starts a run. -/
theorem stillPassed (n : Nat) : Passed n fun r => r.run = false where
  held _ _ h := h
  grant _ _ _ h _ := h
  ended _ _ _ _ hr := by rw [hr.eq]
  unbind _ _ _ := rfl
  ask _ _ _ _ h _ := h
  binding _ _ _ h := h
  damage _ _ _ h := h

/-- A route that a following resolves, or one without a run. -/
def Route.Followed (r : Route) : Prop := (r.state ≠ .vacant ∧ r.state ≠ .suspended) ∨ r.run = false

theorem followedPassed (n : Nat) : Passed n Route.Followed where
  held _ _ h := h
  grant _ _ _ h _ := h.imp (fun _ => ⟨nofun, nofun⟩) id
  ended _ _ _ _ hr := .inr (by rw [hr.eq])
  unbind _ _ _ := .inr rfl
  ask _ _ _ _ h _ := h.imp (fun _ => ⟨nofun, nofun⟩) id
  binding _ _ _ h := h
  damage _ _ _ h := h

theorem Passed.followController {n : Nat} {R : Route → Prop} (h : Passed n R) {s : State} (hs : OnRoute n R s) :
    OnRoute n R (followController s) := by
  unfold Machine.followController
  extract_lets aired a b c d
  have hb : OnRoute n R b := h.unbindBound (removeAll .follow _ hs)
  have hd : OnRoute n R d := rereadBottom (h.setHeld false (s := State.modAnn b _) hb)
  clear_value d
  split
  · exact announceProgram hd
  · exact hd

section Turn

variable {x : State × List Nat} {m n : Nat}

theorem followRoute_other (hmn : m ≠ n) : (followRoute x n).1.route m = x.1.route m := by
  unfold followRoute
  split
  · rfl
  · rfl
  · rw [resolveRoute_other _ hmn]
    dsimp only
    exact toPending_other hmn x.1

theorem followRoute_length : (followRoute x n).1.routes.length = x.1.routes.length := by
  unfold followRoute
  split
  · rfl
  · rfl
  · rw [resolveRoute_length]
    exact toPending_length n x.1

/-- R98: a route that is neither VACANT nor SUSPENDED has no run after its turn. -/
theorem followRoute_still (h : (x.1.route n).Followed) : ((followRoute x n).1.route n).run = false := by
  by_cases hlen : n < x.1.routes.length
  · unfold followRoute
    split
    · rename_i hv
      exact h.resolve_left fun hs => hs.1 hv
    · rename_i hs
      exact h.resolve_left fun hv => hv.2 hs
    · exact (resolveRoute_resolved (toPending n x.1, x.2) (n := n)
        (hlen.trans_eq (toPending_length n x.1).symm)).run
  · have hout : (followRoute x n).1.route n = .reset n :=
      List.getD_eq_default _ _ ((followRoute_length (x := x)).trans_le (Nat.le_of_not_lt hlen))
    rw [hout]
    rfl

end Turn

theorem followRoutes_still {s before : State} {n : Nat} (hn : n < 18) (h : (s.route n).Followed) :
    ((followRoutes before s).route n).run = false := by
  unfold followRoutes
  extract_lets x
  have hx : (x.1.route n).run = false := by
    obtain ⟨c, -, hsame, hfold⟩ := foldl_reaches (f := followRoute) (π := fun y => y.1.route n)
      (fun y m hm => followRoute_other (Ne.symm hm)) (fun _ => True) (fun _ _ _ => trivial) (List.range 18)
      (List.mem_range.mpr hn) List.nodup_range (s, []) trivial
    have hturn := followRoute_still (x := c) (n := n) (hsame ▸ h)
    rw [← hfold] at hturn
    exact hturn
  exact (stillPassed n).closeStep before x.2 hx

/-! ### The controller -/

/-- No entry is live. -/
def State.Unannounced (s : State) : Prop := ∀ x ∈ s.ann.live, x = none

theorem State.Unannounced.of_sansNote {s t : State} (h : s.Unannounced)
    (he : t.ann.live.map (Option.map LiveEntry.sansNote) = s.ann.live.map (Option.map LiveEntry.sansNote)) :
    t.Unannounced := fun x hx => by
  have hmem : x.map LiveEntry.sansNote ∈ t.ann.live.map (Option.map LiveEntry.sansNote) := List.mem_map_of_mem hx
  rw [he] at hmem
  obtain ⟨y, hy, hyx⟩ := List.mem_map.mp hmem
  rw [h y hy] at hyx
  cases x with
  | none => rfl
  | some e => cases hyx

theorem candidate_of_unannounced {s : State} (h : s.Unannounced) : candidate s = none := by
  have hnil : s.ann.live.reduceOption = [] := by
    refine List.eq_nil_iff_forall_not_mem.mpr fun e he => ?_
    cases h _ (List.reduceOption_mem_iff.mp he)
  unfold candidate
  split
  · unfold bestLive
    rw [hnil]
    exact List.findSome?_eq_none_iff.mpr fun _ _ => rfl
  · rfl

theorem noteRefusal_stack (cluster cls : Nat) (what : NotedRefusal) (b : NoticeBody) (s : State) :
    (noteRefusal cluster cls what b s).ann.stack = s.ann.stack := by
  unfold noteRefusal
  split
  · split
    · rfl
    · unfold State.raise
      rw [State.raiseAt_ann]
      rfl
  · rfl

theorem matchTop_stack (s : State) : (matchTop s).ann.stack = s.ann.stack := by
  unfold matchTop
  split
  · split
    · dsimp only
      split
      · exact matchTo_stack _ _ s
      · rw [noteRefusal_stack, matchTo_stack]
    · rfl
  · exact ((airOnly _ _ _).matchProgram ⟨rfl, rfl, rfl⟩).1

theorem evaluateRun_stack {s : State} (h : candidate s = none) : (evaluateRun s).ann.stack = s.ann.stack := by
  unfold evaluateRun
  rw [h]
  exact matchTop_stack s

theorem settle_unannounced {s : State} (hrun : s.ann.level = .run) (h : s.Unannounced) :
    (settle s).Unannounced ∧ (settle s).ann.stack = s.ann.stack := by
  obtain he | he := settle_eq_of_run hrun
  · rw [he]
    exact ⟨h, rfl⟩
  · rw [he]
    exact ⟨h.of_sansNote ((liveNoted s.ann.level _).evaluateRun ⟨rfl, rfl⟩).2,
      evaluateRun_stack (candidate_of_unannounced h)⟩

theorem followController_stack (s : State) : (followController s).ann.stack.length ≤ 1 := by
  unfold followController
  extract_lets aired a b c d
  have hb : b.ann.stack.length ≤ 1 := shortStack.unbindRoutes _ (removeEvery_stack_length .follow s)
  have hd : d.ann.stack.length ≤ 1 := by
    rw [rereadBottom_stack_length]
    have hc : (State.modAnn b fun a =>
        { a with
          live := a.live.map fun _ => none
          onAir := b.listening
          switchMark := a.switchMark || b.listening.isSome }).ann.stack.length ≤ 1 := hb
    exact shortStack.setHeld false hc
  clear_value d
  split
  · exact shortStack.announceProgram hd
  · exact hd

theorem followController_unannounced (s : State) : (followController s).Unannounced := by
  unfold followController
  extract_lets aired a b c d
  obtain ⟨e, he⟩ : ∃ e, State.modAnn b (fun a =>
      { a with
        live := a.live.map fun _ => none
        onAir := b.listening
        switchMark := a.switchMark || b.listening.isSome }) = e := ⟨_, rfl⟩
  have hempty : e.Unannounced := fun x hx => by
    rw [← he] at hx
    obtain ⟨-, -, hx⟩ := List.mem_map.mp hx
    exact hx.symm
  have h := liveNoted e.ann.level (e.ann.live.map (Option.map LiveEntry.sansNote))
  have hc : c = setHeld false e := by rw [← he]
  have hd : d.ann.level = e.ann.level ∧ d.ann.live.map (Option.map LiveEntry.sansNote) =
      e.ann.live.map (Option.map LiveEntry.sansNote) := by
    have hhd := h.rereadBottom (h.setHeld false (s := e) ⟨rfl, rfl⟩)
    rw [← hc] at hhd
    exact hhd
  clear_value d
  split
  · exact hempty.of_sansNote (h.announceProgram hd).2
  · exact hempty.of_sansNote hd.2

/-! ### What comes behind the exchange -/

/-- Controller and routes at a following. -/
@[irreducible] def followTail (s : State) : State := (rereadBottom (followRoutes s (followController s))).dueEval

section Tail

variable (s : State)

theorem followTail_front : SameFront s (followTail s) := by
  unfold followTail
  exact (frontEngine s).followed s (.refl s)

theorem followTail_trackers : SameTrackers s (followTail s) := by
  have h := trackersRestacked s.leadTracker s.scoutTracker
  have hk := h.dueEval (h.rereadBottom (h.followRoutes s (h.followController (s := s) ⟨rfl, rfl⟩)))
  unfold followTail
  exact ⟨hk.1, hk.2⟩

theorem followTail_noticed {b : NoticeBody} (h : s.Noticed b) : (followTail s).Noticed b := by
  unfold followTail
  exact (noticeEngine fun n => n.body = b).followed s h

theorem followTail_stack : (followTail s).ann.stack.length ≤ 1 := by
  unfold followTail
  rw [State.dueEval_stack, rereadBottom_stack_length]
  exact shortStack.followRoutes s (followController_stack s)

theorem followTail_unannounced : (followTail s).Unannounced := by
  have h := liveNoted (followController s).ann.level
    ((followController s).ann.live.map (Option.map LiveEntry.sansNote))
  have hk := h.rereadBottom (h.followRoutes s (s := followController s) ⟨rfl, rfl⟩)
  unfold followTail
  exact (followController_unannounced s).of_sansNote hk.2

theorem followTail_still {n : Nat} (hn : n < 18) (h : (s.route n).Followed) : ((followTail s).route n).run = false := by
  have hc := (followedPassed n).followController (s := s) h
  have hr := Passed.rereadBottom (R := fun r => r.run = false) (n := n) (followRoutes_still (before := s) hn hc)
  unfold followTail
  exact hr

theorem followTail_level (h : s.ann.level = .run) : (followTail s).ann.level = .run := by
  unfold followTail
  exact runKept.followed s h

end Tail

end Sys2Proof.Machine
end

section
/-! SUPPORT. FOLLOW (R69, R70; O28). -/

namespace Sys2Proof.Machine

/-- What a FOLLOW that is served leaves. -/
structure State.Follows (s t : State) : Prop where
  lead : (t.link (otherLink s.leadLink)).role = .lead
  scout : (t.link s.leadLink).role = .scout
  core : SameCore s t
  trackers : t.leadTracker = s.scoutTracker ∧ t.scoutTracker = s.leadTracker
  merge : t.merge = { s.merge with waiting := [], held := [], releasePoint := none }
  roles : t.roles = { s.roles with arm := none, dwell := 0, advised := false }
  live : t.Unannounced
  stack : t.ann.stack.length ≤ 1
  still : ∀ n < 18, (s.route n).state ≠ .vacant → (s.route n).state ≠ .suspended → (t.route n).run = false
  noticed : t.Noticed (.role (t.link .a).role (t.link .b).role .follow (some .following) s.lastQ)
  level : t.ann.level = .run

/-- The exchange of roles and trackers, the merge stage emptied. -/
def exchanged (s : State) : State :=
  clearMerge (exchangeTrackers
    (clearMarks (setRole (otherLink (otherLink s.leadLink)) .scout (setRole (otherLink s.leadLink) .lead s))))

theorem follow_eq (why : RoleReason) (s : State) :
    follow why s = followTail (roleNotice why (some .following) (exchanged s)) := by
  unfold followTail
  rfl

theorem exchanged_rest (s : State) :
    (exchanged s).leadTracker = s.scoutTracker ∧ (exchanged s).scoutTracker = s.leadTracker ∧
      (exchanged s).roles = { s.roles with arm := none, dwell := 0, advised := false } ∧
      (exchanged s).routes = s.routes ∧ (exchanged s).ann = s.ann := by
  unfold exchanged
  rw [clearMerge_eq]
  simp [clearMarks, exchangeTrackers]

theorem exchanged_merge (s : State) :
    (exchanged s).merge = { s.merge with waiting := [], held := [], releasePoint := none } := by
  unfold exchanged
  rw [clearMerge_merge]
  simp [clearMarks, exchangeTrackers]

theorem exchanged_role (s : State) : ((exchanged s).link (otherLink s.leadLink)).role = .lead ∧
    ((exchanged s).link s.leadLink).role = .scout := by
  unfold exchanged
  rw [clearMerge_role, clearMerge_role, otherLink_otherLink]
  cases s.leadLink <;> exact ⟨rfl, rfl⟩

/-- R70: a following, with the evaluation it causes. -/
theorem settle_follow_follows {s : State} (hrun : s.ann.level = .run) : s.Follows (settle (follow .follow s)) := by
  obtain ⟨hlt, hst, hroles, hroutes, hann⟩ := exchanged_rest s
  obtain ⟨hlead, hscout⟩ := exchanged_role s
  have hmerge := exchanged_merge s
  have hcore : SameCore s (settle (follow .follow s)) :=
    (coreEngine s).settle ((coreEvents s).follow .follow (.refl s))
  rw [follow_eq] at hcore ⊢
  generalize exchanged s = v at hlt hst hroles hroutes hann hlead hscout hmerge hcore ⊢
  have hnotice := roleNotice_noticed .follow (some .following) v
  have hq : v.lastQ = s.lastQ := by
    unfold State.lastQ
    rw [hmerge]
  rw [hq] at hnotice
  obtain ⟨w, hw⟩ : ∃ w, roleNotice .follow (some .following) v = w := ⟨_, rfl⟩
  have hwlink : ∀ k, w.link k = v.link k := fun k => by
    rw [← hw]
    exact State.link_raiseAt _ _ _ _
  have hwann : w.ann = s.ann := by
    rw [← hw, ← hann]
    exact State.raiseAt_ann _ _ _
  have hwroutes : w.routes = s.routes := by
    rw [← hw, ← hroutes]
    exact State.raiseAt_routes _ _ _
  have hwl : w.leadTracker = s.scoutTracker := by
    rw [← hw, ← hlt]
    exact State.raiseAt_leadTracker _ _ _
  have hws : w.scoutTracker = s.leadTracker := by
    rw [← hw, ← hst]
    exact State.raiseAt_scoutTracker _ _ _
  have hwm : w.merge = v.merge := by
    rw [← hw]
    exact State.raiseAt_merge _ _ _
  have hwr : w.roles = v.roles := by
    rw [← hw]
    exact State.raiseAt_roles _ _ _
  rw [hw] at hnotice hcore ⊢
  have hlevel : (followTail w).ann.level = .run := followTail_level w (by rw [hwann]; exact hrun)
  obtain ⟨hlive, hstack⟩ := settle_unannounced hlevel (followTail_unannounced w)
  have hf := followTail_front w
  have ht := followTail_trackers w
  have hfs := settle_ports (followTail w)
  have hts := settle_trackers (followTail w)
  have hlink : ∀ k, (settle (followTail w)).link k = v.link k := fun k => by rw [hfs.link, hf.link, hwlink]
  refine ⟨by rw [hlink, hlead], by rw [hlink, hscout], hcore, ⟨?_, ?_⟩, ?_, ?_, hlive, ?_, fun n hn hv hs => ?_, ?_,
    runKept.settle hlevel⟩
  · rw [hts.lead, ht.lead, hwl]
  · rw [hts.scout, ht.scout, hws]
  · rw [hfs.merge, hf.merge, hwm, hmerge]
  · rw [hfs.roles, hf.roles, hwr, hroles]
  · rw [hstack]
    exact followTail_stack w
  · have hr : w.route n = s.route n := congrArg (fun rs : List Route => rs.getD n (.reset n)) hwroutes
    exact (stillPassed n).settle_run hlevel (followTail_still w hn (.inl (hr.symm ▸ ⟨hv, hs⟩)))
  · rw [hlink, hlink]
    exact (noticeEngine _).settle (followTail_noticed w hnotice)

section Serve

variable {s : State} {tag : Tag} {force : Bool} (hq : s.quiescent)
  (hsv : s.Serves { tag := tag, op := .follow force })
include hsv

theorem exec_follow : exec (.follow tag force) s =
    .next (serveFollow force { tag := tag, op := .follow force } s) := serve_of_serves hsv

omit hsv in
theorem followCandidate_dropSelection (force : Bool) (s : State) :
    followCandidate force (dropSelection s) = followCandidate force s := rfl

include hq in
theorem exec_follow_watch (hw : s.ann.level = .watch) : exec (.follow tag force) s = .next
    (answer { tag := tag, op := .follow force } (lastOf s .level) [followCell s] (s.cleared s.mgmt.cursor)) := by
  rw [exec_follow hsv]
  unfold serveFollow
  dsimp only
  have hw' : (dropSelection s).ann.level = .watch := hw
  rw [if_pos hw', replyAfter_of_quiescent (t := dropSelection s) hq]
  rfl

include hq in
theorem exec_follow_none (hr : s.ann.level = .run) (hc : followCandidate force s = none) :
    exec (.follow tag force) s = .next
      (answer { tag := tag, op := .follow force } (lastOf s .noCandidate) [followCell s]
        (s.cleared s.mgmt.cursor)) := by
  rw [exec_follow hsv]
  unfold serveFollow
  dsimp only
  have hr' : (dropSelection s).ann.level = .run := hr
  rw [hr', if_neg (by decide), followCandidate_dropSelection, hc, if_neg (by decide),
    replyAfter_of_quiescent (t := dropSelection s) hq]
  rfl

theorem exec_follow_served (hr : s.ann.level = .run) (hc : (followCandidate force s).isSome = true) :
    exec (.follow tag force) s = .next
      (answer { tag := tag, op := .follow force } (lastOf s .ok)
        [followCell (settle (follow .follow (dropSelection s)))] (settle (follow .follow (dropSelection s)))) := by
  rw [exec_follow hsv]
  unfold serveFollow
  dsimp only
  have hr' : (dropSelection s).ann.level = .run := hr
  rw [hr', if_neg (by decide), followCandidate_dropSelection, if_pos hc]
  rfl

end Serve

/-- Settles O28: FOLLOW, refused and served. -/
theorem followRequest : Obligations.FollowRequest := by
  intro s tag force hq ho hsv req c l
  refine ⟨exec_follow_watch hq hsv, exec_follow_none hq hsv, fun hr hc => ?_⟩
  have hexec := exec_follow_served hsv hr hc
  have h := settle_follow_follows (s := dropSelection s) hr
  generalize settle (follow .follow (dropSelection s)) = u at hexec h
  have hll : otherLink l = s.leadLink := otherLink_otherLink _
  refine ⟨_, hexec, h.lead, by rw [hll]; exact h.scout, h.core.link l, h.core.link _, h.trackers.1, h.trackers.2,
    h.merge, h.roles.trans (clearMarks_roles (s := s) hq.1), fun i => ?_, h.stack, h.still, h.noticed, rfl⟩
  change u.ann.live.getD i none = none
  rw [List.getD_eq_getElem?_getD]
  cases hi : u.ann.live[i]? with
  | none => rfl
  | some x => exact h.live x (List.mem_of_getElem? hi)

end Sys2Proof.Machine
end

section
/-! SUPPORT. What matching and evaluation leave of the controller's sources and of the routes' held and listening
flags (R141, R142). -/

namespace Sys2Proof.Machine

/-! ### The controller's record through the allocator -/

theorem endRun_ann (n : Nat) (s : State) : (endRun n s).ann = s.ann := by
  rw [endRun_rest]

theorem countRefusal_ann (asks : List Nat) (n : Nat) (s : State) : (countRefusal asks n s).ann = s.ann := by
  unfold countRefusal
  split
  · rfl
  · rfl

theorem allocTurn_ann (asks : List Nat) (imm : Option Nat) (m : Nat) (s : State) :
    (allocTurn asks imm s m).ann = s.ann := by
  by_cases hidle : (s.route m).state ≠ .starved ∨ (s.route m).bound = none
  · rw [allocTurn_idle hidle]
  · rw [not_or, not_not] at hidle
    obtain ⟨hstate, hbound⟩ := hidle
    obtain ⟨lane, hbound⟩ := Option.ne_none_iff_exists'.mp hbound
    by_cases hroom : pageNeed lane.geometry ≤ s.freePages.length
    · rw [allocTurn_grants asks imm hstate hbound hroom]
      rfl
    · rw [allocTurn_refuses asks imm hstate hbound (Nat.lt_of_not_le hroom)]
      split
      · exact countRefusal_ann asks m s
      · rw [endRun_ann, countRefusal_ann]

theorem allocPass_ann (asks : List Nat) (imm : Option Nat) (s : State) : (allocPass asks imm s).ann = s.ann := by
  unfold allocPass
  exact foldl_keeps (P := fun t : State => t.ann = s.ann) (fun b m hb => (allocTurn_ann asks imm m b).trans hb) _ s rfl

/-- R76: a step changes nothing of the controller but that an evaluation falls due. -/
theorem closeStep_ann (before : State) (asks : List Nat) (imm : Option Nat) (s : State) :
    (closeStep before asks imm s).ann = { s.ann with evalDue := (closeStep before asks imm s).ann.evalDue } := by
  unfold closeStep
  extract_lets returned t
  have ht : t.ann = s.ann := by
    unfold t
    split
    · exact allocPass_ann asks imm s
    · rfl
  clear_value t
  split
  · exact congrArg (fun a : Announcer => { a with evalDue := true }) ht
  · rw [ht]

theorem unbindRoutes_ann (ns : List Nat) (s : State) : (unbindRoutes ns s).ann = s.ann :=
  foldl_keeps (f := fun t m => t.modRoute m Route.unbind) (P := fun t : State => t.ann = s.ann) (fun _ _ hb => hb) ns s
    rfl

theorem releaseCarriers_ann (ns : List Nat) (s : State) :
    (releaseCarriers ns s).ann = { s.ann with evalDue := (releaseCarriers ns s).ann.evalDue } := by
  have h := closeStep_ann s [] none (unbindRoutes ns s)
  rw [unbindRoutes_ann] at h
  exact h

/-! ### Flags of the routes -/

/-- The held and listening flags. -/
def Route.ears (r : Route) : Bool × Bool := (r.held, r.listening)

theorem allottedEars (c : Bool × Bool) : Allotted fun r => r.ears = c where
  grant _ _ _ h _ := h
  ended _ _ h _ hr := by rw [hr.eq]; exact h

/-- Sources and flags stand; the switch mark is set at most. -/
structure SameEars (s t : State) : Prop where
  onAir : t.ann.onAir = s.ann.onAir
  mark : s.ann.switchMark = true → t.ann.switchMark = true
  ears : ∀ k, (t.route k).ears = (s.route k).ears

namespace SameEars

variable {s t u : State}

theorem refl (s : State) : SameEars s s := ⟨rfl, id, fun _ => rfl⟩

theorem trans (h : SameEars s t) (h' : SameEars t u) : SameEars s u :=
  ⟨h'.onAir.trans h.onAir, fun hm => h'.mark (h.mark hm), fun k => (h'.ears k).trans (h.ears k)⟩

theorem listening (h : SameEars s t) : t.listening = s.listening :=
  State.listening_congr fun k => congrArg Prod.snd (h.ears k)

theorem of_modRoute (n : Nat) {f : Route → Route} (hf : ∀ r, (f r).ears = r.ears) : SameEars s (s.modRoute n f) :=
  ⟨rfl, id, fun k => OnRoute.modRoute (R := fun r => r.ears = (s.route k).ears) (n := k) n f rfl fun _ => hf _⟩

theorem of_raiseAt (s : State) (fn : Option Fn) (b : NoticeBody) : SameEars s (s.raiseAt fn b) := by
  refine ⟨by rw [State.raiseAt_ann], by rw [State.raiseAt_ann]; exact id, fun k => ?_⟩
  unfold State.route
  rw [State.raiseAt_routes]

theorem of_closeStep (before : State) (asks : List Nat) (imm : Option Nat) (s : State) :
    SameEars s (closeStep before asks imm s) := by
  have ha := closeStep_ann before asks imm s
  have hair := congrArg Announcer.onAir ha
  refine ⟨hair, fun hm => ?_, fun k => ?_⟩
  · have hmark := congrArg Announcer.switchMark ha
    exact Eq.trans hmark hm
  · exact (allottedEars (s.route k).ears).closeWith (n := k) before asks imm (fun _ _ h => h) rfl

theorem of_unbindRoutes (ns : List Nat) (s : State) : SameEars s (unbindRoutes ns s) :=
  foldl_keeps (f := fun t m => t.modRoute m Route.unbind) (P := SameEars s)
    (fun _ m hb => hb.trans (of_modRoute m fun _ => rfl)) ns s (.refl s)

theorem of_releaseCarriers (ns : List Nat) (s : State) : SameEars s (releaseCarriers ns s) :=
  (of_unbindRoutes ns s).trans (of_closeStep s [] none _)

theorem of_modAnn (f : Announcer → Announcer) (h1 : (f s.ann).onAir = s.ann.onAir)
    (h2 : s.ann.switchMark = true → (f s.ann).switchMark = true) : SameEars s (s.modAnn f) := ⟨h1, h2, fun _ => rfl⟩

/-! ### Matching -/

theorem of_keepCarrier (n cls : Nat) (s : State) : SameEars s (keepCarrier n cls s) := by
  unfold keepCarrier
  extract_lets changed t u others
  have ht : SameEars s t := of_modRoute n fun _ => rfl
  clear_value t
  have hu : SameEars s u := by
    unfold u
    split
    · exact ht.trans (of_modAnn _ rfl fun _ => rfl)
    · exact ht
  clear_value u
  split
  · exact hu
  · exact hu.trans (of_releaseCarriers _ u)

theorem of_bindCarrier (n : Nat) (lane : Lane) (cls : Nat) (s : State) : SameEars s (bindCarrier n lane cls s) := by
  unfold bindCarrier
  extract_lets u
  have hask : SameEars s (askCarrier n lane cls s) := (of_unbindRoutes [n] s).trans (of_modRoute n fun _ => rfl)
  have hu : SameEars s u := hask.trans (of_closeStep s [n] (some n) _)
  clear_value u
  split
  · split
    · exact hu.trans (of_modRoute n fun _ => rfl)
    · exact hu
  · exact hu

theorem of_matchTo (lane cls : Nat) (s : State) : SameEars s (matchTo lane cls s) := by
  unfold matchTo
  split
  · exact of_keepCarrier _ _ s
  · split
    · exact of_bindCarrier _ _ _ s
    · exact .refl s
  · exact .refl s

theorem of_noteRefusal (cluster cls : Nat) (what : NotedRefusal) (b : NoticeBody) (s : State) :
    SameEars s (noteRefusal cluster cls what b s) := by
  unfold noteRefusal
  split
  · split
    · exact .refl s
    · rename_i i _ _ _
      have hm : SameEars s (modLive i (fun x => x.map fun e => { e with noted := what }) s) := of_modAnn _ rfl id
      exact hm.trans (of_raiseAt _ _ _)
  · exact .refl s

theorem of_tryPush (e : LiveEntry) (s : State) : SameEars s (tryPush e s) := by
  unfold tryPush
  split
  · have hs : SameEars s (s.modSticky fun k => { k with stackFull := true }) := ⟨rfl, id, fun _ => rfl⟩
    exact hs.trans (of_noteRefusal _ _ _ _ _)
  · extract_lets refusal t entry u v
    have ht : SameEars s t := of_matchTo _ _ s
    have hu : SameEars s u := ht.trans (of_modAnn _ rfl id)
    have hv : SameEars s v := by
      unfold v
      split
      · exact hu.trans (of_modAnn _ rfl id)
      · exact hu
    clear_value v
    split
    · exact ht.trans (of_noteRefusal _ _ _ _ t)
    · exact hv.trans (of_raiseAt _ _ _)

/-- With PROGRAM on air the matching to it changes no source. -/
theorem of_matchProgram (h : s.ann.onAir = s.listening) : SameEars s (matchProgram s) := by
  unfold matchProgram
  split
  · exact .refl s
  · extract_lets old t u
    have ht : SameEars s t := of_releaseCarriers _ s
    have hu : u = t := if_pos (by rw [ht.onAir, h, ht.listening])
    have hold : u.ann.onAir = old := by
      rw [hu, ht.onAir]
    rw [if_pos hold, hu]
    exact ht

theorem of_matchTop (h : s.ann.onAir = s.listening) : SameEars s (matchTop s) := by
  unfold matchTop
  split
  · split
    · extract_lets refusal t
      have ht : SameEars s t := of_matchTo _ _ s
      clear_value t
      split
      · exact ht
      · exact ht.trans (of_noteRefusal _ _ _ _ t)
    · exact .refl s
  · exact of_matchProgram h

theorem of_evaluateRun (h : s.ann.onAir = s.listening) : SameEars s (evaluateRun s) := by
  unfold evaluateRun
  extract_lets t
  have ht : SameEars s t := by
    unfold t
    split
    · exact of_tryPush _ s
    · exact .refl s
  clear_value t
  have hair : t.ann.onAir = t.listening := by rw [ht.onAir, h, ht.listening]
  exact (ht.trans (of_matchTop hair)).trans (of_modAnn _ rfl id)

end SameEars

/-! ### Carriers released -/

/-- An announcement route that has been released. -/
structure Route.Released (r : Route) : Prop where
  state : r.state = .vacant
  binding : r.binding = none
  pages : r.pages = []

theorem allottedReleased : Allotted Route.Released :=
  Allotted.of_state fun r h hs => by
    rw [h.state] at hs
    cases hs

theorem unbindRoutes_other {ns : List Nat} {n : Nat} (hn : n ∉ ns) (s : State) :
    (unbindRoutes ns s).route n = s.route n :=
  foldl_skips (f := fun t m => t.modRoute m Route.unbind) (π := fun t => t.route n)
    (fun b _ hm => State.route_modRoute_other (s := b) _ hm) ns hn s

theorem unbindRoutes_released {ns : List Nat} {n : Nat} (hn : n ∈ ns) (s : State) (hlen : n < s.routes.length) :
    ((unbindRoutes ns s).route n).Released := by
  unfold unbindRoutes
  induction ns generalizing s with
  | nil => cases hn
  | cons m rest ih =>
    by_cases hrest : n ∈ rest
    · exact ih hrest _ (hlen.trans_eq (List.length_modify _ _ _).symm)
    · have hm : n = m := (List.mem_cons.mp hn).resolve_right hrest
      subst hm
      have h := unbindRoutes_other hrest (s.modRoute n Route.unbind)
      unfold unbindRoutes at h
      rw [List.foldl_cons, h, State.route_modRoute_same _ _ _ hlen]
      exact ⟨rfl, rfl, rfl⟩

theorem releaseCarriers_released {ns : List Nat} {n : Nat} (hn : n ∈ ns) (s : State) (hlen : n < s.routes.length) :
    ((releaseCarriers ns s).route n).Released :=
  allottedReleased.closeStep (n := n) s [] (unbindRoutes_released hn s hlen)

/-- A carrier that is not among those released keeps its binding. -/
theorem releaseCarriers_binding {ns : List Nat} {n : Nat} (hn : n ∉ ns) (s : State) :
    ((releaseCarriers ns s).route n).binding = (s.route n).binding := by
  have h : Allotted fun r : Route => r.binding = (s.route n).binding :=
    { grant := fun _ _ _ h _ => h
      ended := fun _ _ h _ hr => by rw [hr.eq]; exact h }
  exact h.closeStep (n := n) s [] (congrArg Route.binding (unbindRoutes_other hn s))

theorem mem_boundCarriers {s : State} {n : Nat} : n ∈ s.boundCarriers ↔ n ∈ [16, 17] ∧ (s.route n).binding ≠ none := by
  unfold State.boundCarriers
  rw [List.mem_filter, Option.isSome_iff_ne_none]

/-- The held flag of the listening route. -/
theorem setHeld_listening {s : State} {m : Nat} (hm : s.listening = some m) (b : Bool) (hlen : m < s.routes.length) :
    ((setHeld b s).route m).held = b := by
  unfold setHeld
  rw [hm]
  dsimp only
  rw [State.route_modRoute_same _ _ _ hlen]

theorem setHeld_ann (b : Bool) (s : State) : (setHeld b s).ann = s.ann := by
  unfold setHeld
  split
  · rfl
  · rfl

theorem setHeld_listens (b : Bool) (s : State) : (setHeld b s).listening = s.listening := by
  refine State.listening_congr fun k => ?_
  unfold setHeld
  split
  · exact OnRoute.modRoute (R := fun r => r.listening = (s.route k).listening) _ _ rfl fun _ => rfl
  · rfl

end Sys2Proof.Machine
end

section
/-! SUPPORT. The live table read by key (R135), and the candidate of an evaluation (R140). -/

namespace Sys2Proof.Machine

/-! ### The entry of a key -/

/-- The first place of a range at which f has a value. -/
theorem findSome?_range_iff {β : Type} {f : Nat → Option β} {n : Nat} {b : β} :
    (List.range n).findSome? f = some b ↔ ∃ i < n, f i = some b ∧ ∀ j < i, f j = none := by
  induction n with
  | zero => simp
  | succ n ih =>
    rw [List.range_succ, List.findSome?_append, List.findSome?_singleton, Option.or_eq_some_iff, ih]
    constructor
    · rintro (⟨i, hi, hb, hfirst⟩ | ⟨hnone, hb⟩)
      · exact ⟨i, by omega, hb, hfirst⟩
      · exact ⟨n, by omega, hb, fun j hj => List.findSome?_eq_none_iff.mp hnone j (List.mem_range.mpr hj)⟩
    · rintro ⟨i, hi, hb, hfirst⟩
      obtain hlt | rfl := Nat.lt_or_eq_of_le (Nat.le_of_lt_succ hi)
      · exact .inl ⟨i, hlt, hb, hfirst⟩
      · exact .inr ⟨List.findSome?_eq_none_iff.mpr fun j hj => hfirst j (List.mem_range.mp hj), hb⟩

/-- The entry at a place, when it has the key. -/
def LiveEntry.ofKey (cluster cls : Nat) (i : Nat) (e : LiveEntry) : Option (Nat × LiveEntry) :=
  if e.cluster = cluster ∧ e.cls = cls then some (i, e) else none

theorem LiveEntry.bind_ofKey_eq_some {cluster cls i k : Nat} {x : Option LiveEntry} {e : LiveEntry} :
    x.bind (LiveEntry.ofKey cluster cls i) = some (k, e) ↔ i = k ∧ x = some e ∧ e.cluster = cluster ∧ e.cls = cls := by
  unfold LiveEntry.ofKey
  cases x with
  | none => simp
  | some y =>
    simp only [Option.bind_some, Option.ite_none_right_eq_some, Option.some.injEq, Prod.mk.injEq]
    constructor
    · rintro ⟨hk, rfl, rfl⟩
      exact ⟨rfl, rfl, hk⟩
    · rintro ⟨rfl, rfl, hk⟩
      exact ⟨hk, rfl, rfl⟩

theorem LiveEntry.bind_ofKey_eq_none {cluster cls i : Nat} {x : Option LiveEntry} :
    x.bind (LiveEntry.ofKey cluster cls i) = none ↔ ∀ e, x = some e → ¬ (e.cluster = cluster ∧ e.cls = cls) := by
  unfold LiveEntry.ofKey
  cases x with
  | none => simp
  | some y => simp

theorem findLive_eq_some_iff {s : State} {cluster cls i : Nat} {e : LiveEntry} :
    findLive s cluster cls = some (i, e) ↔
      i < 16 ∧ (s.ann.live.getD i none = some e ∧ e.cluster = cluster ∧ e.cls = cls) ∧
        ∀ j < i, ∀ x, s.ann.live.getD j none = some x → ¬ (x.cluster = cluster ∧ x.cls = cls) := by
  have hdef : findLive s cluster cls =
      (List.range 16).findSome? fun i => (s.ann.live.getD i none).bind (LiveEntry.ofKey cluster cls i) := rfl
  rw [hdef, findSome?_range_iff]
  simp only [LiveEntry.bind_ofKey_eq_some, LiveEntry.bind_ofKey_eq_none]
  constructor
  · rintro ⟨k, hk, ⟨rfl, he⟩, hfirst⟩
    exact ⟨hk, he, hfirst⟩
  · rintro ⟨hi, he, hfirst⟩
    exact ⟨i, hi, ⟨rfl, he⟩, hfirst⟩

theorem findLive_congr {s t : State} (h : t.ann.live = s.ann.live) (cluster cls : Nat) :
    findLive t cluster cls = findLive s cluster cls := by
  unfold findLive
  rw [h]

theorem getD_modify_same {α : Type} (l : List α) (i : Nat) (f : α → α) (d : α) (hd : f d = d) :
    (l.modify i f).getD i d = f (l.getD i d) := by
  rw [List.getD_eq_getElem?_getD, List.getD_eq_getElem?_getD, List.getElem?_modify]
  cases l[i]? with
  | none => exact hd.symm
  | some x => simp

theorem getD_modify_other {α : Type} (l : List α) {i j : Nat} (h : i ≠ j) (f : α → α) (d : α) :
    (l.modify i f).getD j d = l.getD j d := by
  rw [List.getD_eq_getElem?_getD, List.getD_eq_getElem?_getD, List.getElem?_modify]
  cases l[j]? with
  | none => rfl
  | some x => simp [h]

/-- The table but for the noted refusals, place by place. -/
theorem getD_sansNote {l l' : List (Option LiveEntry)}
    (h : l'.map (Option.map LiveEntry.sansNote) = l.map (Option.map LiveEntry.sansNote)) (i : Nat) :
    (l'.getD i none).map LiveEntry.sansNote = (l.getD i none).map LiveEntry.sansNote := by
  have hi := congrArg (fun k : List (Option LiveEntry) => k.getD i none) h
  simpa [List.getD_eq_getElem?_getD, ← Option.getD_map] using hi

/-- What is noted on the live entries does not matter for the entry of a key. -/
theorem findLive_sansNote {s t : State}
    (h : t.ann.live.map (Option.map LiveEntry.sansNote) = s.ann.live.map (Option.map LiveEntry.sansNote))
    {cluster cls i : Nat} {e : LiveEntry} (he : findLive t cluster cls = some (i, e)) :
    ∃ e', findLive s cluster cls = some (i, e') ∧ e'.sansNote = e.sansNote := by
  obtain ⟨hi, ⟨hat, hcluster, hcls⟩, hfirst⟩ := findLive_eq_some_iff.mp he
  have hplace := getD_sansNote h
  have hsame := hplace i
  rw [hat] at hsame
  obtain ⟨e', he', hnote⟩ := Option.map_eq_some_iff.mp hsame.symm
  have hkeys : ∀ {x y : LiveEntry}, x.sansNote = y.sansNote → x.cluster = y.cluster ∧ x.cls = y.cls := fun hxy =>
    ⟨(congrArg LiveEntry.cluster hxy : _), (congrArg LiveEntry.cls hxy : _)⟩
  refine ⟨e', findLive_eq_some_iff.mpr ⟨hi, ⟨he', ?_, ?_⟩, fun j hj x hx hkey => ?_⟩, hnote⟩
  · rw [(hkeys hnote).1, hcluster]
  · rw [(hkeys hnote).2, hcls]
  · have hj' := hplace j
    rw [hx] at hj'
    obtain ⟨y, hy, hyx⟩ := Option.map_eq_some_iff.mp hj'
    exact hfirst j hj y hy ⟨(hkeys hyx).1.trans hkey.1, (hkeys hyx).2.trans hkey.2⟩

/-- Of a live table with distinct keys, each entry is the one of its key. -/
theorem State.LiveKeysApart.findLive {s : State} (h : s.LiveKeysApart) {e : LiveEntry} (he : some e ∈ s.ann.live) :
    ∃ i, findLive s e.cluster e.cls = some (i, e) := by
  obtain ⟨hlen, hkeys⟩ := State.liveKeysApart_iff.mp h
  have hmem : e ∈ s.ann.live.reduceOption := List.reduceOption_mem_iff.mpr he
  cases hfind : Machine.findLive s e.cluster e.cls with
  | none => exact absurd (List.mem_map_of_mem hmem) (findLive_none hlen hfind)
  | some x =>
    obtain ⟨i, y⟩ := x
    obtain ⟨hi, ⟨hat, hcluster, hcls⟩, -⟩ := findLive_eq_some_iff.mp hfind
    have hy : y ∈ s.ann.live.reduceOption := by
      rw [List.getD_eq_getElem?_getD, Option.getD_eq_iff] at hat
      obtain hat | ⟨-, hat⟩ := hat
      · exact List.reduceOption_mem_iff.mpr (List.mem_of_getElem? hat)
      · cases hat
    have hsame := List.inj_on_of_nodup_map hkeys hy hmem (by simp [LiveEntry.key, hcluster, hcls])
    exact ⟨i, by rw [hsame]⟩

/-! ### The best of the live entries -/

theorem bestLive_eq_some {p : LiveEntry → Bool} {s : State} {e : LiveEntry} (h : bestLive p s = some e) :
    (some e ∈ s.ann.live ∧ p e = true) ∧ ∀ x, some x ∈ s.ann.live → p x = true → e.cls ≤ x.cls := by
  obtain ⟨c, hc, hfind, hfirst⟩ := findSome?_range_iff.mp h
  have hfit := List.find?_some hfind
  rw [Bool.and_eq_true, decide_eq_true_eq] at hfit
  obtain ⟨rfl, hp⟩ := hfit
  refine ⟨⟨List.reduceOption_mem_iff.mp (List.mem_of_find?_eq_some hfind), hp⟩, fun x hx hpx => ?_⟩
  by_contra hlt
  have hnone := List.find?_eq_none.mp (hfirst x.cls (Nat.lt_of_not_le hlt)) x (List.reduceOption_mem_iff.mpr hx)
  simp [hpx] at hnone

theorem bestLive_eq_none {p : LiveEntry → Bool} {s : State} (h : bestLive p s = none) {x : LiveEntry}
    (hx : some x ∈ s.ann.live) (hcls : x.cls < 8) : p x = false := by
  have hnone := List.find?_eq_none.mp (List.findSome?_eq_none_iff.mp h x.cls (List.mem_range.mpr hcls)) x
    (List.reduceOption_mem_iff.mpr hx)
  simpa using hnone

/-- R140: the conditions on a candidate. -/
structure LiveEntry.Fits (s : State) (bottom top : StackEntry) (e : LiveEntry) : Prop where
  cluster : e.cluster = bottom.cluster
  known : bottom.cluster ≠ 0
  cls : inClasses s.mgmt.settings.announce e.cls = true
  undismissed : e.dismissed = false
  lane : (s.lane e.lane).isSome = true
  outranks : e.cls < top.priority

section Candidate

variable {s : State} {bottom top : StackEntry} (hbottom : s.ann.stack.head? = some bottom)
  (htop : s.ann.stack.getLast? = some top)
include hbottom htop

theorem candidate_eq_some {e : LiveEntry} (h : candidate s = some e) :
    (some e ∈ s.ann.live ∧ e.Fits s bottom top) ∧
      ∀ x, some x ∈ s.ann.live → x.Fits s bottom top → e.cls ≤ x.cls := by
  unfold candidate at h
  rw [hbottom, htop] at h
  obtain ⟨⟨hmem, hp⟩, hbest⟩ := bestLive_eq_some h
  simp only [Bool.and_eq_true, decide_eq_true_eq, Bool.not_eq_true'] at hp hbest
  obtain ⟨⟨⟨⟨⟨hcluster, hknown⟩, hcls⟩, hdis⟩, hlane⟩, hrank⟩ := hp
  exact ⟨⟨hmem, hcluster, hknown, hcls, hdis, hlane, hrank⟩,
    fun x hx hf => hbest x hx ⟨⟨⟨⟨⟨hf.cluster, hf.known⟩, hf.cls⟩, hf.undismissed⟩, hf.lane⟩, hf.outranks⟩⟩

theorem candidate_eq_none (h : candidate s = none) {x : LiveEntry} (hx : some x ∈ s.ann.live) (hcls : x.cls < 8) :
    ¬ x.Fits s bottom top := fun hf => by
  unfold candidate at h
  rw [hbottom, htop] at h
  have hp := bestLive_eq_none h hx hcls
  simp [hf.cluster, hf.known, hf.cls, hf.undismissed, hf.lane, hf.outranks] at hp

end Candidate

theorem candidate_undismissed {s : State} {e : LiveEntry} (h : candidate s = some e) :
    some e ∈ s.ann.live ∧ e.dismissed = false := by
  cases hbottom : s.ann.stack.head? with
  | none =>
    unfold candidate at h
    rw [hbottom] at h
    cases h
  | some bottom =>
    cases htop : s.ann.stack.getLast? with
    | none =>
      unfold candidate at h
      rw [hbottom, htop] at h
      cases h
    | some top =>
      obtain ⟨⟨hmem, hfits⟩, -⟩ := candidate_eq_some hbottom htop h
      exact ⟨hmem, hfits.undismissed⟩

/-! ### The stack after an evaluation -/

/-- R140: the stack entry of a live entry that is pushed. -/
def LiveEntry.pushed (e : LiveEntry) (start : Option Fn) : StackEntry :=
  { cls := some e.cls, cluster := e.cluster, lane := some e.lane, start := start }

theorem tryPush_stack (e : LiveEntry) (s : State) : (tryPush e s).ann.stack = s.ann.stack ∨
    ∃ start, (tryPush e s).ann.stack = s.ann.stack ++ [e.pushed start] := by
  unfold tryPush
  split
  · exact .inl (noteRefusal_stack _ _ _ _ _)
  · extract_lets refusal t entry u v
    have ht : t.ann.stack = s.ann.stack := matchTo_stack _ _ s
    have hv : v.ann.stack = t.ann.stack ++ [entry] := by
      unfold v
      split
      · rfl
      · rfl
    clear_value v
    split
    · exact .inl ((noteRefusal_stack _ _ _ _ _).trans ht)
    · refine .inr ⟨t.lastFn, ?_⟩
      unfold announce State.raise
      rw [State.raiseAt_ann, hv, ht]
      rfl

theorem evaluateRun_pushes (s : State) : (evaluateRun s).ann.stack = s.ann.stack ∨
    ∃ e start, candidate s = some e ∧ (evaluateRun s).ann.stack = s.ann.stack ++ [e.pushed start] := by
  unfold evaluateRun
  extract_lets t
  have hstack : ((matchTop t).modAnn fun a => { a with evalDue := false }).ann.stack = t.ann.stack := matchTop_stack t
  rw [hstack]
  unfold t
  cases hc : candidate s with
  | none => exact .inl rfl
  | some e => exact (tryPush_stack e s).imp id fun ⟨start, h⟩ => ⟨e, start, rfl, h⟩

end Sys2Proof.Machine
end

section
/-! SUPPORT. The return to the program (R146) and CANCEL (R147; O49). -/

namespace Sys2Proof.Machine

/-! ### The return to the program -/

theorem announce_ann (event : AnnounceEvent) (e : StackEntry) (route : Option Nat) (why : Option RemoveReason)
    (s : State) : (announce event e route why s).ann = s.ann := State.raiseAt_ann _ _ _

theorem announceProgram_ann (s : State) : (announceProgram s).ann = s.ann := by
  unfold announceProgram
  split
  · exact announce_ann _ _ _ _ _
  · exact State.raiseAt_ann _ _ _

theorem State.route_announceProgram (s : State) (n : Nat) : (announceProgram s).route n = s.route n := by
  unfold announceProgram
  split
  · exact congrArg (fun rs : List Route => rs.getD n (.reset n)) (State.raiseAt_routes s _ _)
  · exact congrArg (fun rs : List Route => rs.getD n (.reset n)) (State.raiseAt_routes s _ _)

theorem closeStep_length (before : State) (asks : List Nat) (imm : Option Nat) (s : State) :
    (closeStep before asks imm s).routes.length = s.routes.length := by
  have hpass : (allocPass asks imm s).routes.length = s.routes.length := by
    unfold allocPass
    exact foldl_keeps (P := fun t : State => t.routes.length = s.routes.length)
      (fun b m hb => (allocTurn_length asks imm m b).trans hb) _ s rfl
  unfold closeStep
  extract_lets returned t
  have ht : t.routes.length = s.routes.length := by
    unfold t
    split
    · exact hpass
    · rfl
  clear_value t
  split
  · exact ht
  · exact ht

theorem releaseCarriers_length (ns : List Nat) (s : State) :
    (releaseCarriers ns s).routes.length = s.routes.length := by
  unfold releaseCarriers
  rw [closeStep_length]
  exact foldl_keeps (f := fun t m => t.modRoute m Route.unbind) (P := fun t : State => t.routes.length = s.routes.length)
    (fun b m hb => (List.length_modify _ _ _).trans hb) ns s rfl

/-- The announcement routes released and the listening route's held flag clear. -/
def listenAgain (s : State) : State := setHeld false (releaseCarriers s.boundCarriers s)

theorem listenAgain_listening (s : State) : (listenAgain s).listening = s.listening :=
  (setHeld_listens _ _).trans (SameEars.of_releaseCarriers _ s).listening

theorem listenAgain_ann (s : State) :
    (listenAgain s).ann = { s.ann with evalDue := (listenAgain s).ann.evalDue } := by
  unfold listenAgain
  rw [setHeld_ann]
  exact releaseCarriers_ann _ s

theorem listenAgain_held {s : State} {m : Nat} (hm : s.listening = some m) (hlen : m < s.routes.length) :
    ((listenAgain s).route m).held = false := by
  unfold listenAgain
  have hl := (SameEars.of_releaseCarriers s.boundCarriers s).listening.trans hm
  refine setHeld_listening hl false (hlen.trans_eq ?_)
  exact (releaseCarriers_length _ s).symm

theorem returnToProgram_eq (s : State) : returnToProgram s =
    announceProgram ((listenAgain s).modAnn fun a => { a with onAir := s.listening, switchMark := true }) := by
  have hl := listenAgain_listening s
  unfold returnToProgram
  change announceProgram ((listenAgain s).modAnn fun a => { a with onAir := (listenAgain s).listening, switchMark := true })
    = _
  rw [hl]

theorem returnToProgram_route (s : State) (n : Nat) : (returnToProgram s).route n = (listenAgain s).route n := by
  rw [returnToProgram_eq, State.route_announceProgram]
  rfl

/-- R146: what the return to the program leaves of the controller. -/
theorem returnToProgram_ann (s : State) : (returnToProgram s).ann =
    { s.ann with onAir := s.listening, switchMark := true, evalDue := (returnToProgram s).ann.evalDue } := by
  rw [returnToProgram_eq, announceProgram_ann, State.modAnn_ann, listenAgain_ann]

theorem returnToProgram_listening (s : State) : (returnToProgram s).listening = s.listening := by
  rw [← listenAgain_listening s]
  exact State.listening_congr fun n => by rw [returnToProgram_route]

theorem returnToProgram_noticed {s : State} {m : Nat} {b : StackEntry} (hm : s.listening = some m)
    (hb : s.ann.stack.head? = some b) : (returnToProgram s).Noticed
      (.announce .onAir (some (b.cls.getD 8)) (some b.cluster) b.lane (some m) s.ann.stack.length none) := by
  rw [returnToProgram_eq]
  obtain ⟨u, hu⟩ : ∃ u, (listenAgain s).modAnn (fun a => { a with onAir := s.listening, switchMark := true }) = u :=
    ⟨_, rfl⟩
  have hstack : u.ann.stack = s.ann.stack := by
    rw [← hu, State.modAnn_ann, listenAgain_ann]
  have hlisten : u.listening = some m := by
    rw [← hu, ← hm, ← listenAgain_listening s]
    rfl
  rw [hu]
  unfold announceProgram
  rw [hlisten, hstack, hb, ← hstack]
  exact State.noticed_raiseAt _ _ _

theorem returnToProgram_released {s : State} {n : Nat} (hn : n ∈ s.boundCarriers) (hlen : n < s.routes.length) :
    ((returnToProgram s).route n).Released := by
  rw [returnToProgram_route]
  have hr : ((releaseCarriers s.boundCarriers s).route n).Released := releaseCarriers_released hn s hlen
  unfold listenAgain setHeld
  split
  · exact OnRoute.modRoute (R := Route.Released) _ _ hr fun _ => ⟨hr.state, hr.binding, hr.pages⟩
  · exact hr

/-! ### The top removed -/

theorem SameEars.of_removeAt (why : RemoveReason) (s : State) (i : Nat) : SameEars s (removeAt why s i) := by
  unfold removeAt
  split
  · exact .refl s
  · rename_i e _
    have hpop : SameEars s (s.modAnn fun a => { a with stack := a.stack.eraseIdx i }).dueEval :=
      ⟨rfl, id, fun _ => rfl⟩
    exact hpop.trans (of_raiseAt _ _ _)

theorem SameEars.of_removeAll (why : RemoveReason) (ps : List Nat) (s : State) :
    SameEars s (ps.foldl (removeAt why) s) :=
  foldl_keeps (P := SameEars s) (fun b i hb => hb.trans (of_removeAt why b i)) ps s (.refl s)

/-- R145: a removal that leaves the bottom entry alone returns to the program. -/
theorem removeWhere_returns {why : RemoveReason} {p : StackEntry → Bool} {s : State}
    (hps : positionsFromTop p s.ann.stack ≠ []) (hlen : (stackWithout p s.ann.stack).length ≤ 1) :
    removeWhere why p s = returnToProgram ((positionsFromTop p s.ann.stack).foldl (removeAt why) s) := by
  unfold removeWhere
  extract_lets ps t
  have ht : t.ann.stack.length ≤ 1 := by
    rw [← removeAll_positions_stack why s p] at hlen
    exact hlen
  rw [if_pos ⟨hps, ht⟩]

/-- R137: no announcement below the top has the top's class. -/
theorem State.StackRises.without_top {s : State} (h : s.StackRises) {st : List StackEntry} {e : StackEntry} {c : Nat}
    (hst : s.ann.stack = st ++ [e]) (hc : e.cls = some c) : ∀ b ∈ st, b.cls ≠ some c := by
  have hrise := h.rising
  rw [hst, List.pairwise_append] at hrise
  intro b hb hbc
  have hlt := hrise.2.2 b hb e (.head _)
  simp [StackEntry.priority, hbc, hc] at hlt

theorem stackWithout_key {st : List StackEntry} {e : StackEntry} {c : Nat} (hne : st ≠ []) (hc : e.cls = some c)
    (h : ∀ b ∈ st, b.cls ≠ some c) : stackWithout (hasKey e.cluster c) (st ++ [e]) = st := by
  cases st with
  | nil => exact absurd rfl hne
  | cons b rest =>
    rw [List.cons_append, stackWithout_cons, List.filter_append]
    have hrest : rest.filter (fun x => !hasKey e.cluster c x) = rest := by
      refine List.filter_eq_self.mpr fun x hx => ?_
      simp [hasKey, h x (.tail _ hx)]
    rw [hrest]
    simp [hasKey, hc]

/-! ### The dismissed entry -/

theorem dismiss_ann (cluster cls : Nat) (s : State) :
    dismiss cluster cls s = { s with ann := { s.ann with live := (dismiss cluster cls s).ann.live } } := by
  unfold dismiss
  split
  · rfl
  · rfl

theorem findLive_dismiss {cluster cls : Nat} {s : State} {i : Nat} {x : LiveEntry}
    (h : findLive (dismiss cluster cls s) cluster cls = some (i, x)) : x.dismissed = true := by
  cases hfind : findLive s cluster cls with
  | none =>
    unfold dismiss at h
    rw [hfind] at h
    cases hfind.symm.trans h
  | some y =>
    obtain ⟨j, y⟩ := y
    have hd : dismiss cluster cls s = modLive j (fun x => x.map fun e => { e with dismissed := true }) s := by
      unfold dismiss
      rw [hfind]
    rw [hd] at h
    obtain ⟨-, ⟨hat, hkey⟩, hfirst⟩ := findLive_eq_some_iff.mp h
    obtain ⟨-, ⟨hat', hkey'⟩, hfirst'⟩ := findLive_eq_some_iff.mp hfind
    have hlive : ∀ k, j ≠ k → (s.ann.live.modify j fun z => z.map fun e => { e with dismissed := true }).getD k none =
        s.ann.live.getD k none := fun k hk => getD_modify_other _ hk _ _
    have hsame : (s.ann.live.modify j fun z => z.map fun e => { e with dismissed := true }).getD j none =
        some { y with dismissed := true } := by
      rw [getD_modify_same _ _ _ _ rfl, hat']
      rfl
    obtain hij | rfl | hij := Nat.lt_trichotomy i j
    · exact absurd hkey (hfirst' i hij x ((hlive i hij.ne').symm.trans hat))
    · rw [← Option.some.inj (hsame.symm.trans hat)]
    · exact (hfirst j hij _ hsame hkey').elim

theorem dismiss_keysApart {cluster cls : Nat} {s : State} (h : s.LiveKeysApart) :
    (dismiss cluster cls s).LiveKeysApart := by
  unfold dismiss
  split
  · exact liveRestacked.modLive _ _ h fun x => by cases x <;> exact .inr rfl
  · exact h

end Sys2Proof.Machine
end

section
/-! SUPPORT. CANCEL (R147; O49). -/

namespace Sys2Proof.Machine

theorem LiveEntry.dismissed_of_sansNote {x y : LiveEntry} (h : x.sansNote = y.sansNote) :
    x.dismissed = y.dismissed := by
  have hd := congrArg LiveEntry.dismissed h
  exact hd

theorem settle_pushes {s : State} (hrun : s.ann.level = .run) : (settle s).ann.stack = s.ann.stack ∨
    ∃ e start, candidate s = some e ∧ (settle s).ann.stack = s.ann.stack ++ [e.pushed start] := by
  obtain he | he := settle_eq_of_run hrun
  · rw [he]
    exact .inl rfl
  · rw [he]
    exact evaluateRun_pushes s

theorem settle_live {s : State} (hrun : s.ann.level = .run) :
    (settle s).ann.live.map (Option.map LiveEntry.sansNote) = s.ann.live.map (Option.map LiveEntry.sansNote) := by
  obtain he | he := settle_eq_of_run hrun
  · rw [he]
  · rw [he]
    exact ((liveNoted _ _).evaluateRun ⟨rfl, rfl⟩).2

theorem settle_ears {s : State} (hrun : s.ann.level = .run) (hair : s.ann.onAir = s.listening) :
    SameEars s (settle s) := by
  obtain he | he := settle_eq_of_run hrun
  · rw [he]
    exact .refl s
  · rw [he]
    exact SameEars.of_evaluateRun hair

/-- The act of a CANCEL of an announcement. -/
@[irreducible] def cancelKey (cluster cls : Nat) (s : State) : State :=
  removeWhere .cancelled (hasKey cluster cls) (dismiss cluster cls s)

section Key

variable (cluster cls : Nat) (s : State)

theorem cancelKey_front : SameFront s (cancelKey cluster cls s) := by
  have hd : SameFront s (dismiss cluster cls s) := by
    rw [dismiss_ann]
    exact ⟨⟨rfl, rfl, rfl, rfl, rfl, rfl, rfl⟩, rfl, rfl⟩
  unfold cancelKey
  exact (frontEngine s).removeWhere _ _ hd

theorem cancelKey_trackers : SameTrackers s (cancelKey cluster cls s) := by
  have h := trackersRestacked s.leadTracker s.scoutTracker
  have hd : (dismiss cluster cls s).leadTracker = s.leadTracker ∧ (dismiss cluster cls s).scoutTracker = s.scoutTracker := by
    rw [dismiss_ann]
    exact ⟨rfl, rfl⟩
  have hw := h.removeWhere .cancelled (hasKey cluster cls) hd
  unfold cancelKey
  exact ⟨hw.1, hw.2⟩

theorem cancelKey_live : (cancelKey cluster cls s).ann.level = s.ann.level ∧
    (cancelKey cluster cls s).ann.live.map (Option.map LiveEntry.sansNote) =
      (dismiss cluster cls s).ann.live.map (Option.map LiveEntry.sansNote) := by
  have hlevel : (dismiss cluster cls s).ann.level = s.ann.level := by rw [dismiss_ann]
  unfold cancelKey
  exact (liveNoted _ _).removeWhere _ _ ⟨hlevel, rfl⟩

theorem cancelKey_dismissed {i : Nat} {x : LiveEntry} (h : findLive (cancelKey cluster cls s) cluster cls = some (i, x)) :
    x.dismissed = true := by
  obtain ⟨e, he, hx⟩ := findLive_sansNote (cancelKey_live cluster cls s).2 h
  have hdis : e.dismissed = x.dismissed := LiveEntry.dismissed_of_sansNote hx
  rw [← hdis]
  exact findLive_dismiss he

theorem cancelKey_keysApart (h : s.LiveKeysApart) : (cancelKey cluster cls s).LiveKeysApart := by
  unfold cancelKey
  exact liveRestacked.removeWhere _ _ (dismiss_keysApart h)

theorem cancelKey_stack : (cancelKey cluster cls s).ann.stack = stackWithout (hasKey cluster cls) s.ann.stack := by
  unfold cancelKey
  rw [removeWhere_stack, dismiss_ann]

end Key

/-- What a CANCEL of the top announcement e, of class c, leaves. -/
structure State.Cancels (s t : State) (e : StackEntry) (c : Nat) : Prop where
  below : t.ann.stack.take (s.ann.stack.length - 1) = s.ann.stack.dropLast
  dismissed : ∀ i x, findLive t e.cluster c = some (i, x) → x.dismissed = true
  noticed : t.Noticed (.announce .remove (some c) (some e.cluster) e.lane (e.lane.bind s.carrierOf)
    (s.ann.stack.length - 1) (some .cancelled))
  gone : s.LiveKeysApart → ∀ b ∈ t.ann.stack.tail, ¬ (b.cls = some c ∧ b.cluster = e.cluster)
  program : ∀ m b, s.ann.stack = [b, e] → s.listening = some m →
    t.ann.onAir = some m ∧ t.ann.switchMark = true ∧ (t.route m).held = false ∧
    t.Noticed (.announce .onAir (some 8) (some b.cluster) b.lane (some m) 1 none)
  links : t.linkA = s.linkA ∧ t.linkB = s.linkB ∧ t.merge = s.merge ∧ t.leadTracker = s.leadTracker

section Cancel

variable {s : State} {st : List StackEntry} {e : StackEntry} {c : Nat} (hrise : s.StackRises)
  (hrun : s.ann.level = .run) (hst : s.ann.stack = st ++ [e]) (hc : e.cls = some c)
include hrise hst hc

/-- R137: an announcement stands on the PROGRAM entry. -/
theorem State.StackRises.ne_bottom : st ≠ [] := by
  rintro rfl
  have h := hrise.bottom e (by rw [hst]; rfl)
  rw [hc] at h
  cases h

theorem stackWithout_top : stackWithout (hasKey e.cluster c) s.ann.stack = st := by
  rw [hst]
  exact stackWithout_key (hrise.ne_bottom hst hc) hc (hrise.without_top hst hc)

theorem positionsFromTop_top : positionsFromTop (hasKey e.cluster c) s.ann.stack ≠ [] := by
  rw [Ne, positionsFromTop_eq_nil_iff, hst, List.drop_one, List.tail_append_of_ne_nil (hrise.ne_bottom hst hc)]
  intro h
  have := h e (List.mem_append_right _ (.head _))
  simp [hasKey, hc] at this

theorem cancelKey_noticed : (cancelKey e.cluster c s).Noticed (.announce .remove (some c) (some e.cluster) e.lane
    (e.lane.bind s.carrierOf) (s.ann.stack.length - 1) (some .cancelled)) := by
  have hann := dismiss_ann e.cluster c s
  have hstack : (dismiss e.cluster c s).ann.stack = st ++ [e] := by rw [hann, ← hst]
  have hroute : (dismiss e.cluster c s).routeOf e = e.lane.bind s.carrierOf := by
    rw [hann]
    rfl
  have h := removeWhere_noticed .cancelled (dismiss e.cluster c s) (hasKey e.cluster c) (hrise.ne_bottom hst hc)
    hstack (by simp [hasKey, hc])
  rw [hroute, hstack, ← hst, hc] at h
  unfold cancelKey
  exact h

/-- R146: over the bottom entry alone. -/
theorem cancelKey_program {m : Nat} {b : StackEntry} (hb : st = [b]) (hm : s.listening = some m) :
    ((cancelKey e.cluster c s).ann.onAir = some m ∧ (cancelKey e.cluster c s).ann.switchMark = true) ∧
      ((cancelKey e.cluster c s).listening = some m ∧ ((cancelKey e.cluster c s).route m).held = false) ∧
      (cancelKey e.cluster c s).Noticed (.announce .onAir (some 8) (some b.cluster) b.lane (some m) 1 none) := by
  have hann := dismiss_ann e.cluster c s
  have hwithout := stackWithout_top hrise hst hc
  have hpos := positionsFromTop_top hrise hst hc
  have hstack : (dismiss e.cluster c s).ann.stack = s.ann.stack := by rw [hann]
  have hroutes : (dismiss e.cluster c s).routes = s.routes := by rw [hann]
  rw [← hstack] at hwithout hpos
  unfold cancelKey
  rw [removeWhere_returns hpos (by rw [hwithout, hb]; exact le_rfl)]
  have hstack' := removeAll_positions_stack .cancelled (dismiss e.cluster c s) (hasKey e.cluster c)
  have hears := SameEars.of_removeAll .cancelled (positionsFromTop (hasKey e.cluster c)
    (dismiss e.cluster c s).ann.stack) (dismiss e.cluster c s)
  generalize (positionsFromTop (hasKey e.cluster c) (dismiss e.cluster c s).ann.stack).foldl
    (removeAt .cancelled) (dismiss e.cluster c s) = r at hstack' hears ⊢
  rw [hwithout, hb] at hstack'
  have hlisten : r.listening = some m := by
    rw [hears.listening, ← hm]
    exact State.listening_congr fun k => congrArg (fun rs : List Route => (rs.getD k (.reset k)).listening) hroutes
  have hbottom : b.cls = none := hrise.bottom b (by rw [hst, hb]; rfl)
  have hnotice := returnToProgram_noticed hlisten (b := b) (by rw [hstack']; rfl)
  rw [hstack', hbottom] at hnotice
  refine ⟨⟨?_, ?_⟩, ⟨(returnToProgram_listening r).trans hlisten, ?_⟩, hnotice⟩
  · rw [returnToProgram_ann, hlisten]
  · rw [returnToProgram_ann]
  · rw [returnToProgram_route]
    refine listenAgain_held hlisten (Nat.lt_of_not_le fun hle => ?_)
    have hl := List.find?_some hlisten
    have hout : r.route m = .reset m := List.getD_eq_default _ _ hle
    rw [hout] at hl
    exact absurd hl (by simp [Route.reset])

include hrun

theorem settle_cancels : s.Cancels (settle (cancelKey e.cluster c s)) e c := by
  have hw : (cancelKey e.cluster c s).ann.stack = st := (cancelKey_stack _ _ s).trans (stackWithout_top hrise hst hc)
  have hlevel : (cancelKey e.cluster c s).ann.level = .run := (cancelKey_live e.cluster c s).1.trans hrun
  have hlive := settle_live hlevel
  have hpush := settle_pushes hlevel
  have hf := cancelKey_front e.cluster c s
  have ht := cancelKey_trackers e.cluster c s
  have hfs := settle_ports (cancelKey e.cluster c s)
  have hlen : s.ann.stack.length - 1 = st.length := by rw [hst, List.length_append]; rfl
  refine ⟨?below, fun i x hx => ?dismissed, (noticeEngine _).settle (cancelKey_noticed hrise hst hc), fun hapart => ?gone,
    fun m b hb hm => ?program, ?links⟩
  case below =>
    rw [hlen, hst, List.dropLast_concat]
    obtain h | ⟨x, start, -, h⟩ := hpush
    · rw [h, hw, List.take_length]
    · rw [h, hw, List.take_left']
      rfl
  case dismissed =>
    obtain ⟨y, hy, hyx⟩ := findLive_sansNote hlive hx
    have hdis : y.dismissed = x.dismissed := LiveEntry.dismissed_of_sansNote hyx
    rw [← hdis]
    exact cancelKey_dismissed _ _ _ hy
  case gone =>
    have hst' := hrise.without_top hst hc
    obtain h | ⟨x, start, hx, h⟩ := hpush
    · rw [h, hw]
      exact fun b hb hkey => hst' b (List.mem_of_mem_tail hb) hkey.1
    · rw [h, hw, List.tail_append_of_ne_nil (hrise.ne_bottom hst hc)]
      intro b hb hkey
      obtain hb | hb := List.mem_append.mp hb
      · exact hst' b (List.mem_of_mem_tail hb) hkey.1
      · rw [List.mem_singleton] at hb
        subst hb
        obtain ⟨hmem, hdis⟩ := candidate_undismissed hx
        obtain ⟨i, hi⟩ := (cancelKey_keysApart e.cluster c s hapart).findLive hmem
        have hcls : x.cls = c := Option.some.inj hkey.1
        have hcluster : x.cluster = e.cluster := hkey.2
        rw [hcls, hcluster] at hi
        rw [cancelKey_dismissed _ _ _ hi] at hdis
        cases hdis
  case program =>
    have hb' : st = [b] := List.append_inj_left' (hst.symm.trans hb) rfl
    obtain ⟨⟨hair, hmark⟩, ⟨hlisten, hheld⟩, hnotice⟩ := cancelKey_program hrise hst hc hb' hm
    have hears := settle_ears hlevel (hair.trans hlisten.symm)
    exact ⟨hears.onAir.trans hair, hears.mark hmark, (congrArg Prod.fst (hears.ears m)).trans hheld,
      (noticeEngine _).settle hnotice⟩
  case links =>
    exact ⟨hfs.linkA.trans hf.linkA, hfs.linkB.trans hf.linkB, hfs.merge.trans hf.merge,
      (settle_trackers _).lead.trans ht.lead⟩

end Cancel

section Serve

variable {s : State} {tag : Tag} (hsv : s.Serves { tag := tag, op := .cancel })
include hsv

theorem exec_cancel : exec (.cancel tag) s = .next (serveCancel { tag := tag, op := .cancel } s) := serve_of_serves hsv

theorem exec_cancel_refused (hq : s.quiescent) (h : ∀ e, s.ann.stack.getLast? = some e → e.cls = none) :
    exec (.cancel tag) s = .next
      (answer { tag := tag, op := .cancel } (lastOf s .nothingToCancel) [cancelCell s] (s.cleared s.mgmt.cursor)) := by
  have htop : topAnnouncement (dropSelection s) = none := by
    unfold topAnnouncement
    refine Option.bind_eq_none_iff.mpr fun e he => ?_
    rw [h e he]
    rfl
  rw [exec_cancel hsv]
  unfold serveCancel
  dsimp only
  rw [htop]
  dsimp only
  rw [replyAfter_of_quiescent (t := dropSelection s) hq]
  rfl

theorem exec_cancel_served {e : StackEntry} {c : Nat} (he : s.ann.stack.getLast? = some e) (hc : e.cls = some c) :
    ∃ cells, exec (.cancel tag) s = .next (answer { tag := tag, op := .cancel } (lastOf s .ok) cells
      (settle (cancelKey e.cluster c (dropSelection s)))) := by
  have htop : topAnnouncement (dropSelection s) = some (e.cluster, c) := by
    unfold topAnnouncement
    have he' : (dropSelection s).ann.stack.getLast? = some e := he
    rw [he', Option.bind_some, hc]
    rfl
  refine ⟨[cancelCell (settle (cancelKey e.cluster c (dropSelection s)))], ?_⟩
  rw [exec_cancel hsv]
  unfold serveCancel
  dsimp only
  rw [htop]
  unfold cancelKey
  rfl

end Serve

/-- Settles O49: CANCEL, and the return to the program. -/
theorem cancelRequest : Obligations.CancelRequest := by
  refine ⟨fun s m b hlen hm hb => ?program, fun s tag hq hsv => ⟨exec_cancel_refused hsv hq, ?served⟩⟩
  case program =>
    intro t
    have hann := returnToProgram_ann s
    rw [hm] at hann
    refine ⟨hann, ?_, returnToProgram_noticed hm hb, fun n hn hbound => ?_⟩
    · unfold t
      rw [returnToProgram_route]
      exact listenAgain_held hm (by have := listening_lt hm; omega)
    · have hlt : n < s.routes.length := by
        simp only [List.mem_cons, List.not_mem_nil, or_false] at hn
        omega
      have h := returnToProgram_released (mem_boundCarriers.mpr ⟨hn, hbound⟩) hlt
      exact ⟨h.state, h.binding, h.pages⟩
  case served =>
    intro e c hrise hrun he hc
    obtain ⟨cells, hexec⟩ := exec_cancel_served hsv he hc
    obtain ⟨st, hst⟩ := List.getLast?_eq_some_iff.mp he
    have h : (dropSelection s).Cancels _ e c :=
      settle_cancels (s := dropSelection s) ⟨hrise.1, hrise.2, hrise.3, hrise.4⟩ hrun hst hc
    generalize settle (cancelKey e.cluster c (dropSelection s)) = u at hexec h
    obtain ⟨hbelow, hdis, hnotice, hgone, hprogram, hlinks⟩ := h
    exact ⟨_, hexec, rfl, hbelow, hdis, hnotice, fun ha => hgone ⟨ha.1, ha.2⟩, hprogram, hlinks⟩

end Sys2Proof.Machine
end

section
/-! SUPPORT. LIVE records and the sweep of the live table (R31, R135, R136; O47). -/

namespace Sys2Proof.Machine

/-! ### The tracker after the records of a frame -/

section Trackers

variable {k : TrackerId} {f : Frame} {s t : State} (h : t.tracker k = s.tracker k)
include h

theorem takeVerdict_tracker_congr (c : Collection) :
    (takeVerdict k f c t).tracker k = (takeVerdict k f c s).tracker k := by
  unfold takeVerdict
  rw [h]
  split
  · rw [State.tracker_modTracker, State.tracker_modTracker, h]
  · split
    · rw [installMap_tracker, installMap_tracker, h]
    · rw [State.tracker_modTracker, State.tracker_modTracker, h]
  · rw [rejectMap_tracker, rejectMap_tracker, h]

theorem fileRecord_tracker_congr (i : Option Nat) (r : List Byte) :
    (fileRecord k f i r t).tracker k = (fileRecord k f i r s).tracker k := by
  unfold fileRecord
  rw [h]
  dsimp only
  split
  · split
    · exact h
    · rw [rejectMap_tracker, rejectMap_tracker, h]
  · exact takeVerdict_tracker_congr h _

theorem offerRecord_tracker_congr (i : Option Nat) (r : List Byte) :
    (offerRecord k f i r t).tracker k = (offerRecord k f i r s).tracker k := by
  unfold offerRecord
  rw [h]
  split
  · exact fileRecord_tracker_congr h i r
  · exact h

/-- R30, R31: what a record position leaves in the tracker does not depend on who takes the LIVE records. -/
theorem takeRecord_tracker_congr {live live' : State → LiveRecord → State}
    (hl : ∀ b x, (live b x).tracker k = b.tracker k) (hl' : ∀ b x, (live' b x).tracker k = b.tracker k)
    (p : Option (List Byte)) : (takeRecord k f live t p).tracker k = (takeRecord k f live' s p).tracker k := by
  unfold takeRecord
  split
  · exact h
  · split
    · split
      · exact h
      · rw [hl, hl', h]
      · exact offerRecord_tracker_congr h _ _
      · exact offerRecord_tracker_congr h _ _
    · exact h

end Trackers

theorem takeRecords_tracker_congr {k : TrackerId} {live live' : State → LiveRecord → State}
    (hl : ∀ b x, (live b x).tracker k = b.tracker k) (hl' : ∀ b x, (live' b x).tracker k = b.tracker k) (f : Frame)
    (s : State) : (takeRecords k f live s).tracker k = (takeRecords k f live' s).tracker k := by
  have hps : ∀ (ps : List (Option (List Byte))) (s t : State), t.tracker k = s.tracker k →
      (ps.foldl (takeRecord k f live) t).tracker k = (ps.foldl (takeRecord k f live') s).tracker k := by
    intro ps
    induction ps with
    | nil => exact fun _ _ h => h
    | cons p rest ih => exact fun s t h => ih _ _ (takeRecord_tracker_congr h hl hl' p)
  exact hps f.records s s rfl

theorem liveRecord_tracker (after : Option MuxMap) (r : Fn) (s : State) (x : LiveRecord) :
    (liveRecord after r s x).tracker .lead = s.tracker .lead :=
  ((trackersRestacked s.leadTracker s.scoutTracker).liveRecord after r x ⟨rfl, rfl⟩).1

/-- R31: the LIVE records are judged by the map that the whole release leaves. -/
theorem leadRecords_leadMap (f : Frame) (s : State) :
    (takeRecords .lead f ignoreLive s).leadMap = (leadRecords f s).leadMap :=
  congrArg Tracker.map
    (takeRecords_tracker_congr (k := .lead) (live := ignoreLive)
      (live' := liveRecord (takeRecords .lead f ignoreLive s).leadMap f.fn)
      (fun _ _ => rfl) (liveRecord_tracker _ _) f s)

/-! ### What a removal leaves of live table and evaluation -/

/-- The live table stands. -/
theorem liveStays (live : List (Option LiveEntry)) : Stacked fun s => s.ann.live = live where
  rest _ _ hs _ _ h _ _ := h ▸ hs
  route _ _ _ hs _ := hs
  packets _ _ hs _ := hs
  deliver s i _ n g hs _ _ := by rw [placeGroup_eq]; exact hs
  air _ _ hs _ h2 _ := h2.trans hs
  stack _ _ hs h1 _ := h1.trans hs

theorem removeWhere_live (why : RemoveReason) (p : StackEntry → Bool) (s : State) :
    (removeWhere why p s).ann.live = s.ann.live := (liveStays _).removeWhere why p rfl

theorem removeAt_due (why : RemoveReason) (i : Nat) {s : State} (h : s.ann.evalDue = true) :
    (removeAt why s i).ann.evalDue = true := by
  unfold removeAt
  split
  · exact h
  · rw [announce_ann]
    rfl

theorem closeStep_due (before : State) (asks : List Nat) (imm : Option Nat) {s : State} (h : s.ann.evalDue = true) :
    (closeStep before asks imm s).ann.evalDue = true := by
  unfold closeStep
  extract_lets returned t
  have ht : t.ann = s.ann := by
    unfold t
    split
    · exact allocPass_ann asks imm s
    · rfl
  clear_value t
  split
  · rfl
  · rw [ht]
    exact h

theorem returnToProgram_due {s : State} (h : s.ann.evalDue = true) : (returnToProgram s).ann.evalDue = true := by
  rw [returnToProgram_eq, announceProgram_ann]
  have hu : (unbindRoutes s.boundCarriers s).ann.evalDue = true := by
    rw [unbindRoutes_ann]
    exact h
  have hr := closeStep_due s [] none hu
  show (listenAgain s).ann.evalDue = true
  unfold listenAgain
  rw [setHeld_ann]
  exact hr

theorem removeWhere_due (why : RemoveReason) (p : StackEntry → Bool) {s : State} (h : s.ann.evalDue = true) :
    (removeWhere why p s).ann.evalDue = true := by
  unfold removeWhere
  extract_lets ps t
  have ht : t.ann.evalDue = true :=
    foldl_keeps (P := fun u : State => u.ann.evalDue = true) (fun _ i hb => removeAt_due why i hb) ps s h
  clear_value t
  split
  · exact returnToProgram_due ht
  · exact ht

theorem stackWithout_tail {p : StackEntry → Bool} {st : List StackEntry} {b : StackEntry}
    (h : b ∈ (stackWithout p st).tail) : p b = false := by
  cases st with
  | nil => cases h
  | cons x rest =>
    rw [stackWithout_cons, List.tail_cons] at h
    simpa using (List.mem_filter.mp h).2

/-! ### One entry of the live table -/

/-- The live table with entry x at place i. -/
def State.putLive (i : Nat) (x : Option LiveEntry) (s : State) : State :=
  { s with ann := { s.ann with live := s.ann.live.set i x } }

theorem modLive_const (i : Nat) (x : Option LiveEntry) (s : State) : modLive i (fun _ => x) s = s.putLive i x := by
  unfold modLive State.putLive
  rw [List.set_eq_modify]
  rfl

theorem modLive_map {i : Nat} {e : LiveEntry} {s : State} (h : s.ann.live.getD i none = some e)
    (f : LiveEntry → LiveEntry) : modLive i (fun x => x.map f) s = s.putLive i (some (f e)) := by
  have hi : s.ann.live[i]? = some (some e) := by
    rw [List.getD_eq_getElem?_getD, Option.getD_eq_iff] at h
    exact h.resolve_right fun h => nomatch h.2
  have hset : s.ann.live.modify i (fun x => x.map f) = s.ann.live.set i (some (f e)) := by
    rw [List.modify_eq_set_getElem?, hi]
    rfl
  unfold State.putLive
  rw [← hset]
  rfl

theorem hasKey_iff {cluster cls : Nat} {b : StackEntry} :
    hasKey cluster cls b = true ↔ b.cls = some cls ∧ b.cluster = cluster := by
  simp [hasKey]

/-- R135: the entries of a key in the stack, on their new lane. -/
def StackEntry.moved (cluster cls lane : Nat) (b : StackEntry) : StackEntry :=
  if hasKey cluster cls b then { b with lane := some lane } else b

theorem refreshLive_same {s : State} {i : Nat} {e : LiveEntry} (h : s.ann.live.getD i none = some e)
    (after : Option MuxMap) (r : Fn) : refreshLive after i e e.lane r s = s.putLive i (some { e with lastSeen := r }) := by
  unfold refreshLive
  rw [if_pos rfl]
  exact modLive_map h _

/-- R135: an ACTIVE record that takes its entry to another lane. -/
def State.retune (i : Nat) (e : LiveEntry) (lane : Nat) (r : Fn) (s : State) : State :=
  ((s.putLive i (some { e with lastSeen := r, lane := lane, noted := .none })).modAnn fun a =>
    { a with stack := a.stack.map (StackEntry.moved e.cluster e.cls lane) }).dueEval

theorem refreshLive_other {s : State} {i : Nat} {e : LiveEntry} (h : s.ann.live.getD i none = some e)
    (after : Option MuxMap) {lane : Nat} (hne : lane ≠ e.lane) (r : Fn) :
    refreshLive after i e lane r s =
      if (after.bind (·.lane lane)).isSome then s.retune i e lane r
      else removeWhere .laneGone (hasKey e.cluster e.cls) (s.retune i e lane r) := by
  unfold refreshLive State.retune
  rw [if_neg hne, modLive_map h]
  rfl

/-! ### A LIVE record -/

section Record

variable {after : Option MuxMap} {r : Fn} {s : State} {x : LiveRecord}

theorem liveRecord_ignored (h : x.cluster = 0 ∨ x.lane = 0 ∨ (x.code ≠ 1 ∧ x.code ≠ 2)) :
    liveRecord after r s x = s := by
  unfold liveRecord
  obtain h | h | ⟨h1, h2⟩ := h
  · rw [if_pos (.inl h)]
  · rw [if_pos (.inr h)]
  · rw [if_neg h1, if_neg h2, ite_self]

variable (hcluster : x.cluster ≠ 0) (hlane : x.lane ≠ 0)
include hcluster hlane

theorem liveRecord_active_known (hcode : x.code = 1) {i : Nat} {e : LiveEntry}
    (h : findLive s x.cluster x.cls = some (i, e)) : liveRecord after r s x = refreshLive after i e x.lane r s := by
  unfold liveRecord
  rw [if_neg (not_or.mpr ⟨hcluster, hlane⟩), if_pos hcode, h]

theorem liveRecord_active_entered (hcode : x.code = 1) (h : findLive s x.cluster x.cls = none) {i : Nat}
    (hfree : freeLive s = some i) : liveRecord after r s x = (s.putLive i (some
      { cluster := x.cluster, cls := x.cls, lane := x.lane, lastSeen := r
        dismissed := false, quiet := false, noted := .none })).dueEval := by
  unfold liveRecord
  rw [if_neg (not_or.mpr ⟨hcluster, hlane⟩), if_pos hcode, h, hfree]
  dsimp only
  rw [modLive_const]

theorem liveRecord_active_dropped (hcode : x.code = 1) (h : findLive s x.cluster x.cls = none)
    (hfree : freeLive s = none) : liveRecord after r s x = s := by
  unfold liveRecord
  rw [if_neg (not_or.mpr ⟨hcluster, hlane⟩), if_pos hcode, h, hfree]

theorem liveRecord_ended_known (hcode : x.code = 2) {i : Nat} {e : LiveEntry}
    (h : findLive s x.cluster x.cls = some (i, e)) : liveRecord after r s x =
      removeWhere .ended (hasKey e.cluster e.cls) (s.putLive i none).dueEval := by
  unfold liveRecord
  rw [if_neg (not_or.mpr ⟨hcluster, hlane⟩), if_neg (by rw [hcode]; decide), if_pos hcode, h]
  dsimp only
  unfold dropLive
  rw [modLive_const]

theorem liveRecord_ended_unknown (hcode : x.code = 2) (h : findLive s x.cluster x.cls = none) :
    liveRecord after r s x = s := by
  unfold liveRecord
  rw [if_neg (not_or.mpr ⟨hcluster, hlane⟩), if_neg (by rw [hcode]; decide), if_pos hcode, h]

end Record

theorem freeLive_eq_some {s : State} {i : Nat} (hi : i < 16) (hnone : s.ann.live.getD i none = none)
    (hfirst : ∀ j < i, s.ann.live.getD j none ≠ none) : freeLive s = some i := by
  unfold freeLive
  rw [List.find?_range_eq_some]
  refine ⟨by rw [hnone]; rfl, List.mem_range.mpr hi, fun j hj => ?_⟩
  rw [Bool.not_eq_true', Option.isNone_eq_false_iff, Option.isSome_iff_ne_none]
  exact hfirst j hj

theorem freeLive_eq_none {s : State} (h : ∀ i < 16, s.ann.live.getD i none ≠ none) : freeLive s = none := by
  unfold freeLive
  refine List.find?_eq_none.mpr fun i hi => ?_
  rw [Option.isNone_iff_eq_none]
  exact h i (List.mem_range.mp hi)

/-! ### The sweep -/

theorem getD_map_map {l : List (Option LiveEntry)} (f : Option LiveEntry → Option LiveEntry) (hf : f none = none)
    (i : Nat) : (l.map f).getD i none = f (l.getD i none) := by
  rw [List.getD_eq_getElem?_getD, List.getD_eq_getElem?_getD, List.getElem?_map]
  cases l[i]? with
  | none => exact hf.symm
  | some x => rfl

theorem fnDist_self (r : Fn) : fnDist r r = 0 := by
  unfold fnDist
  rw [BitVec.sub_self]
  rfl

section Sweep

variable {s : State} {r : Fn} {i : Nat} {e : LiveEntry} (h : s.ann.live.getD i none = some e)
include h

/-- R136: after no release point every entry has just been seen. -/
theorem liveSweep_fresh : (liveSweep r true s).ann.live.getD i none = some { e with lastSeen := r } := by
  unfold liveSweep
  extract_lets t limit old gone
  have ht : t.ann.live.getD i none = some { e with lastSeen := r } := by
    have hmap := getD_map_map (l := s.ann.live) (fun x => x.map fun e => { e with lastSeen := r }) rfl i
    rw [h] at hmap
    exact hmap
  have hgone : gone = [] := by
    refine List.filter_eq_nil_iff.mpr fun y hy => ?_
    obtain ⟨z, -, hz⟩ := List.mem_map.mp (List.reduceOption_mem_iff.mp hy)
    obtain ⟨w, -, hw⟩ := Option.map_eq_some_iff.mp hz
    rw [← hw]
    simp [old, fnDist_self]
  rw [if_pos hgone]
  exact ht

theorem liveSweep_aged : (liveSweep r false s).ann.live.getD i none =
    if s.mgmt.settings.liveRefresh < fnDist e.lastSeen r then none else some e := by
  unfold liveSweep
  extract_lets t limit old gone
  have hkept : (some e).filter (fun x => !old x) =
      if s.mgmt.settings.liveRefresh < fnDist e.lastSeen r then none else some e := by
    rw [Option.filter_some]
    by_cases hold : s.mgmt.settings.liveRefresh < fnDist e.lastSeen r
    · have hd : old e := hold
      rw [if_pos hold, if_neg (by simp [hd])]
    · have hd : ¬ old e := hold
      rw [if_neg hold, if_pos (by simp [hd])]
  rw [← hkept]
  split
  · rename_i hgone
    have hmem : e ∈ s.ann.live.reduceOption := by
      rw [List.getD_eq_getElem?_getD, Option.getD_eq_iff] at h
      exact List.reduceOption_mem_iff.mpr (List.mem_of_getElem? (h.resolve_right fun h => nomatch h.2))
    have hold : ¬ old e := by simpa using List.filter_eq_nil_iff.mp hgone e hmem
    rw [Option.filter_some, if_pos (by simp [hold])]
    exact h
  · rw [removeWhere_live]
    have hmap := getD_map_map (l := s.ann.live) (fun x => x.filter fun e => !old e) rfl i
    rw [h] at hmap
    exact hmap

end Sweep

/-- Settles O47: LIVE records, and the sweep of the live table. -/
theorem liveTable : Obligations.LiveTable := by
  refine ⟨fun s f => ?map, fun after s r x => ?record, fun s r i e h => ⟨liveSweep_fresh h, liveSweep_aged h⟩⟩
  case map => rw [← leadRecords_leadMap, ← leadRecords]
  case record =>
    intro t put
    refine ⟨liveRecord_ignored, fun hcl hln hcode => ⟨fun i e he hsame => ?refresh, fun i e he hne => ?move,
      fun i hnone hi _ hfree hfirst => ?enter, fun hnone hfull => ?full⟩, fun hcl hln hcode =>
      ⟨liveRecord_ended_unknown hcl hln hcode, fun i e he => ?ended⟩⟩
    case refresh =>
      obtain ⟨-, ⟨hat, -⟩, -⟩ := findLive_eq_some_iff.mp he
      exact (liveRecord_active_known hcl hln hcode he).trans (hsame ▸ refreshLive_same hat after r)
    case move =>
      obtain ⟨-, ⟨hat, hcluster, hcls⟩, -⟩ := findLive_eq_some_iff.mp he
      have ht : t = _ := (liveRecord_active_known hcl hln hcode he).trans
        (refreshLive_other hat after (Ne.symm hne) r)
      have hstack : (s.retune i e x.lane r).ann.stack = s.ann.stack.map (StackEntry.moved e.cluster e.cls x.lane) := rfl
      refine ⟨?_, ?_, fun ⟨m, hm, hlane⟩ => ?_, fun hgone b hb hkey => ?_⟩
      · rw [ht]
        split
        · rfl
        · exact removeWhere_live _ _ _
      · rw [ht]
        split
        · rfl
        · exact removeWhere_due _ _ rfl
      · have hsome : (after.bind (·.lane x.lane)).isSome = true := by rw [hm]; exact hlane
        rw [ht, if_pos hsome, hstack]
        refine List.map_congr_left fun b _ => ?_
        unfold StackEntry.moved
        rw [hcluster, hcls]
        exact if_congr hasKey_iff rfl rfl
      · have hnone : ¬ (after.bind (·.lane x.lane)).isSome = true := by
          cases after with
          | none => exact Bool.false_ne_true
          | some m =>
            rw [Option.bind_some, hgone m rfl]
            exact Bool.false_ne_true
        rw [ht, if_neg hnone, removeWhere_stack] at hb
        have hno := stackWithout_tail hb
        rw [hasKey_iff.mpr ⟨hcls ▸ hkey.1, hcluster ▸ hkey.2⟩] at hno
        cases hno
    case enter => exact liveRecord_active_entered hcl hln hcode hnone (freeLive_eq_some hi hfree hfirst)
    case full => exact liveRecord_active_dropped hcl hln hcode hnone (freeLive_eq_none hfull)
    case ended =>
      have ht : t = _ := liveRecord_ended_known hcl hln hcode he
      refine ⟨?_, fun b hb hkey => ?_⟩
      · rw [ht, removeWhere_live]
        rfl
      · rw [ht, removeWhere_stack] at hb
        have hno := stackWithout_tail hb
        rw [hasKey_iff.mpr hkey] at hno
        cases hno

end Sys2Proof.Machine
end

section
/-! SUPPORT. Pushes, the matching of announcement routes and the on-air switch (R140 to R143; O48). -/

namespace Sys2Proof.Machine

/-! ### A push tried -/

theorem State.putLive_self {s : State} {i : Nat} {e : LiveEntry} (h : s.ann.live.getD i none = some e) :
    s.ann.live.set i (some e) = s.ann.live := by
  rw [List.getD_eq_getElem?_getD, Option.getD_eq_iff] at h
  obtain ⟨hi, he⟩ := List.getElem?_eq_some_iff.mp (h.resolve_right fun h => nomatch h.2)
  rw [← he, List.set_getElem_self]

section Push

variable {s : State} {e : LiveEntry} {i : Nat} (h : findLive s e.cluster e.cls = some (i, e))
include h

/-- R140: a refusal is noted, and noticed when it differs from the one noted last. -/
theorem noteRefusal_notes (what : NotedRefusal) (b : NoticeBody) :
    (noteRefusal e.cluster e.cls what b s).ann.live = s.ann.live.set i (some { e with noted := what }) ∧
      (e.noted ≠ what → (noteRefusal e.cluster e.cls what b s).Noticed b) := by
  obtain ⟨-, ⟨hat, -⟩, -⟩ := findLive_eq_some_iff.mp h
  unfold noteRefusal
  rw [h]
  dsimp only
  by_cases hsame : e.noted = what
  · rw [if_pos hsame]
    refine ⟨?_, absurd hsame⟩
    subst hsame
    exact (State.putLive_self hat).symm
  · rw [if_neg hsame, modLive_map hat]
    refine ⟨?_, fun _ => State.noticed_raiseAt _ _ _⟩
    unfold State.raise
    rw [State.raiseAt_ann]
    rfl

theorem tryPush_full (hfull : 4 ≤ s.ann.stack.length) :
    ((tryPush e s).ann.stack = s.ann.stack ∧
      (tryPush e s).ann.live = s.ann.live.set i (some { e with noted := .stackFull }) ∧
      (e.noted ≠ .stackFull → (tryPush e s).Noticed (.stackFull e.cluster e.cls e.lane))) ∧
    (tryPush e s).mgmt.sticky.stackFull = true := by
  unfold tryPush
  rw [if_pos hfull]
  obtain ⟨u, hu⟩ : ∃ u, s.modSticky (fun k => { k with stackFull := true }) = u := ⟨_, rfl⟩
  have hann : u.ann = s.ann := by
    rw [← hu]
    rfl
  have hmark : u.mgmt.sticky.stackFull = true := by
    rw [← hu]
    rfl
  have hfind : findLive u e.cluster e.cls = some (i, e) :=
    (findLive_congr (by rw [hann]) _ _).trans h
  rw [hu, noteRefusal_stack, ← hann]
  refine ⟨⟨rfl, noteRefusal_notes hfind _ _⟩, ?_⟩
  unfold noteRefusal
  rw [hfind]
  dsimp only
  split
  · exact hmark
  · obtain ⟨-, -, -, -, -, hfull, -⟩ := State.raiseAt_within
      (modLive i (fun x => x.map fun e => { e with noted := .stackFull }) u) u.lastFn
      (.stackFull e.cluster e.cls e.lane)
    exact hfull hmark

variable (hroom : s.ann.stack.length < 4)
include hroom

theorem tryPush_noRoom (hnone : (matchTo e.lane e.cls s).carrierOf e.lane = none) :
    (tryPush e s).ann.stack = s.ann.stack ∧
      (tryPush e s).ann.live = s.ann.live.set i (some { e with noted := .noRoom }) ∧
      (e.noted ≠ .noRoom → (tryPush e s).Noticed (noRoomNotice e.cluster e.cls e.lane s)) := by
  have hfind : findLive (matchTo e.lane e.cls s) e.cluster e.cls = some (i, e) :=
    (findLive_congr (matchTo_live _ _ s) _ _).trans h
  unfold tryPush
  rw [if_neg hroom.not_ge]
  dsimp only
  rw [hnone]
  dsimp only
  rw [noteRefusal_stack, matchTo_stack, ← matchTo_live e.lane e.cls s]
  exact ⟨rfl, noteRefusal_notes hfind _ _⟩

theorem tryPush_pushed {n : Nat} (hsome : (matchTo e.lane e.cls s).carrierOf e.lane = some n) :
    (tryPush e s).ann.stack = s.ann.stack ++ [e.pushed s.lastFn] ∧
      (tryPush e s).ann.live = s.ann.live.set i (some { e with noted := .none }) ∧
      (tryPush e s).Noticed (.announce .push (some e.cls) (some e.cluster) (some e.lane) (some n)
        (s.ann.stack.length + 1) none) := by
  have hlast : (matchTo e.lane e.cls s).lastFn = s.lastFn := by
    have hm := ((portsEngine s).matchTo e.lane e.cls (.refl s)).merge
    unfold State.lastFn
    rw [hm]
  have hstack := matchTo_stack e.lane e.cls s
  have hlive := matchTo_live e.lane e.cls s
  have hfind : findLive (matchTo e.lane e.cls s) e.cluster e.cls = some (i, e) := (findLive_congr hlive _ _).trans h
  unfold tryPush
  rw [if_neg hroom.not_ge]
  dsimp only
  rw [hsome]
  dsimp only
  generalize matchTo e.lane e.cls s = u at hlast hstack hlive hfind ⊢
  rw [← hlast, ← hstack, ← hlive]
  obtain ⟨v, hv⟩ : ∃ v, (u.modAnn fun a => { a with stack := a.stack ++ [e.pushed u.lastFn] }) = v := ⟨_, rfl⟩
  have hvstack : v.ann.stack = u.ann.stack ++ [e.pushed u.lastFn] := by
    rw [← hv]
    rfl
  have hvlive : v.ann.live = u.ann.live := by
    rw [← hv]
    rfl
  have hvfind : findLive v e.cluster e.cls = some (i, e) := (findLive_congr hvlive _ _).trans hfind
  obtain ⟨-, ⟨hat, -⟩, -⟩ := findLive_eq_some_iff.mp hvfind
  have hentry : (u.modAnn fun a => { a with stack := a.stack ++
      [{ cls := some e.cls, cluster := e.cluster, lane := some e.lane, start := u.lastFn }] }) = v := hv
  rw [hentry, hvfind]
  dsimp only
  rw [modLive_map hat, announce_ann, ← hvstack]
  refine ⟨rfl, by rw [← hvlive]; rfl, ?_⟩
  have hlen : (v.putLive i (some { e with noted := .none })).ann.stack.length = u.ann.stack.length + 1 := by
    have := congrArg List.length hvstack
    rw [List.length_append] at this
    exact this
  rw [← hlen]
  exact State.noticed_raiseAt _ _ _

end Push

/-! ### Matching -/

theorem carrierOf_eq_some {s : State} {lane n : Nat} (h : s.carrierOf lane = some n) :
    n ∈ [16, 17] ∧ ∃ b, (s.route n).binding = some b ∧ b.lane = lane := by
  refine ⟨List.mem_of_find?_eq_some h, ?_⟩
  have hb := List.find?_some h
  simpa [Option.any_eq_true] using hb

/-- Of two announcement routes both bound, one is not on air. -/
theorem carrierFor_spec (s : State) : ∃ n ∈ [16, 17], carrierFor s = some n ∧
    (((s.route n).binding ≠ none ∧ s.ann.onAir ≠ some n) ∨
      (¬ (s.route n).binding ≠ none ∧ (∀ m ∈ [16, 17], (s.route m).binding ≠ none → s.ann.onAir = some m) ∧
        ∀ m ∈ [16, 17], m < n → (s.route m).binding ≠ none)) := by
  unfold carrierFor
  cases hfirst : [16, 17].find? fun n => (s.route n).binding.isSome && s.ann.onAir ≠ some n with
  | some n =>
    have hn := List.find?_some hfirst
    rw [Bool.and_eq_true, decide_eq_true_eq, Option.isSome_iff_ne_none] at hn
    exact ⟨n, List.mem_of_find?_eq_some hfirst, rfl, .inl hn⟩
  | none =>
    have hair : ∀ m ∈ [16, 17], (s.route m).binding ≠ none → s.ann.onAir = some m := by
      intro m hm hbound
      have hno := List.find?_eq_none.mp hfirst m hm
      rw [Bool.and_eq_true, decide_eq_true_eq, Option.isSome_iff_ne_none, not_and, not_not] at hno
      exact hno hbound
    by_cases h16 : (s.route 16).binding = none
    · refine ⟨16, by simp, by simp [h16], .inr ⟨not_not_intro h16, hair, fun m hm hlt => ?_⟩⟩
      simp only [List.mem_cons, List.not_mem_nil, or_false] at hm
      omega
    · have h17 : (s.route 17).binding = none := by
        by_contra h17
        have := (hair 16 (by simp) h16).symm.trans (hair 17 (by simp) h17)
        simp at this
      refine ⟨17, by simp, by simp [h16, h17], .inr ⟨not_not_intro h17, hair, fun m hm hlt => ?_⟩⟩
      simp only [List.mem_cons, List.not_mem_nil, or_false] at hm
      obtain rfl : m = 16 := by omega
      exact h16

/-! ### The carrier kept -/

/-- The carrier of a lane with its new class, the switch mark set when that is to be heard. -/
def State.reclass (n cls : Nat) (mark : Bool) (s : State) : State :=
  let t := s.modRoute n fun r => { r with binding := r.binding.map fun b => { b with cls := cls } }
  if mark then t.modAnn fun a => { a with switchMark := true } else t

/-- The bound routes that neither carry the lane nor are on air. -/
def State.idleCarriers (n : Nat) (s : State) : List Nat :=
  s.boundCarriers.filter fun m => m ≠ n && s.ann.onAir ≠ some m

theorem mem_idleCarriers {s : State} {m n : Nat} :
    m ∈ s.idleCarriers n ↔ (m ∈ [16, 17] ∧ (s.route m).binding ≠ none) ∧ m ≠ n ∧ s.ann.onAir ≠ some m := by
  unfold State.idleCarriers
  rw [List.mem_filter, mem_boundCarriers, Bool.and_eq_true, decide_eq_true_eq, decide_eq_true_eq]

/-- The idle carriers released. -/
def State.releaseIdle (n : Nat) (s : State) : State :=
  if s.idleCarriers n = [] then s else releaseCarriers (s.idleCarriers n) s

theorem keepCarrier_eq (n cls : Nat) (s : State) : keepCarrier n cls s =
    (s.reclass n cls ((s.route n).binding.any (·.cls ≠ cls) && s.ann.onAir = some n)).releaseIdle n := rfl

section Reclass

variable (s : State) (n cls : Nat) (mark : Bool)

theorem reclass_other {m : Nat} (hmn : m ≠ n) : (s.reclass n cls mark).route m = s.route m := by
  unfold State.reclass
  cases mark with
  | false => exact State.route_modRoute_other _ _ hmn.symm
  | true => exact State.route_modRoute_other _ _ hmn.symm

theorem reclass_same (hn : n < s.routes.length) : ((s.reclass n cls mark).route n).binding =
    (s.route n).binding.map fun b => { b with cls := cls } := by
  have h := congrArg Route.binding (State.route_modRoute_same s n
    (fun r => { r with binding := r.binding.map fun b => { b with cls := cls } }) hn)
  unfold State.reclass
  cases mark with
  | false => exact h
  | true => exact h

theorem reclass_length : (s.reclass n cls mark).routes.length = s.routes.length := by
  unfold State.reclass
  cases mark with
  | false => exact List.length_modify _ _ _
  | true => exact List.length_modify _ _ _

theorem reclass_onAir : (s.reclass n cls mark).ann.onAir = s.ann.onAir := by
  unfold State.reclass
  cases mark with
  | false => rfl
  | true => rfl

theorem reclass_mark : (s.reclass n cls mark).ann.switchMark = true ↔ s.ann.switchMark = true ∨ mark = true := by
  unfold State.reclass
  cases mark with
  | false => simp
  | true => simp

end Reclass

section Idle

variable {s : State} {m n : Nat}

theorem releaseIdle_mark : (s.releaseIdle n).ann.switchMark = s.ann.switchMark := by
  unfold State.releaseIdle
  split
  · rfl
  · have h := congrArg Announcer.switchMark (releaseCarriers_ann (s.idleCarriers n) s)
    exact h

theorem releaseIdle_binding (h : m ∉ s.idleCarriers n) :
    ((s.releaseIdle n).route m).binding = (s.route m).binding := by
  unfold State.releaseIdle
  split
  · rfl
  · exact releaseCarriers_binding h s

theorem releaseIdle_released (h : m ∈ s.idleCarriers n) (hm : m < s.routes.length) :
    ((s.releaseIdle n).route m).Released := by
  unfold State.releaseIdle
  rw [if_neg (List.ne_nil_of_mem h)]
  exact releaseCarriers_released h s hm

end Idle

/-- R141: the route that carries the lane takes the class; of the others the one on air alone stays bound. -/
theorem matchTo_kept {s : State} {lane n : Nat} (cls : Nat) (hlen : s.routes.length = 18)
    (h : s.carrierOf lane = some n) :
    ((matchTo lane cls s).route n).binding = some { lane := lane, cls := cls } ∧
      ((matchTo lane cls s).ann.switchMark = true ↔ s.ann.switchMark = true ∨
        (s.ann.onAir = some n ∧ (s.route n).binding ≠ some { lane := lane, cls := cls })) ∧
      ∀ m ∈ [16, 17], m ≠ n →
        ((s.route m).binding ≠ none → s.ann.onAir ≠ some m → ((matchTo lane cls s).route m).Released) ∧
        (s.ann.onAir = some m → ((matchTo lane cls s).route m).binding = (s.route m).binding) := by
  obtain ⟨hn, ⟨lane', old⟩, hb, hlane⟩ := carrierOf_eq_some h
  change lane' = lane at hlane
  subst hlane
  have hmatch : matchTo lane' cls s = keepCarrier n cls s := by
    unfold matchTo
    rw [h]
  rw [hmatch, keepCarrier_eq, hb]
  have hlt : ∀ m ∈ [16, 17], m < s.routes.length := fun m hm => by
    simp only [List.mem_cons, List.not_mem_nil, or_false] at hm
    omega
  have hlen' := reclass_length s n cls
  have hair := reclass_onAir s n cls
  refine ⟨?_, ?_, fun m hm hmn => ⟨fun hbound hoff => ?_, fun hon => ?_⟩⟩
  · rw [releaseIdle_binding fun hmem => (mem_idleCarriers.mp hmem).2.1 rfl, reclass_same _ _ _ _ (hlt n hn), hb]
    rfl
  · rw [releaseIdle_mark, reclass_mark]
    simp [and_comm]
  · refine releaseIdle_released (mem_idleCarriers.mpr ⟨⟨hm, ?_⟩, hmn, ?_⟩) ?_
    · rw [reclass_other _ _ _ _ hmn]
      exact hbound
    · rw [hair]
      exact hoff
    · rw [hlen']
      exact hlt m hm
  · rw [releaseIdle_binding fun hmem => ?_, reclass_other _ _ _ _ hmn]
    have hoff := (mem_idleCarriers.mp hmem).2.2
    rw [hair] at hoff
    exact hoff hon

/-! ### A carrier bound -/

/-- R75: a pass with the turn of route n in its middle. -/
theorem allocPass_split (asks : List Nat) (imm : Option Nat) (s : State) {n : Nat} (hn : n < 18) :
    ∃ rest : List Nat, n ∉ rest ∧ allocPass asks imm s =
      rest.foldl (allocTurn asks imm) (allocTurn asks imm ((List.range n).foldl (allocTurn asks imm) s) n) := by
  obtain ⟨k, hk⟩ := Nat.exists_eq_add_of_lt hn
  refine ⟨(List.range k).map fun x => n + (x + 1), fun hmem => ?_, ?_⟩
  · obtain ⟨x, -, hx⟩ := List.mem_map.mp hmem
    omega
  · have hrange : List.range 18 = List.range n ++ n :: (List.range k).map fun x => n + (x + 1) := by
      rw [hk, Nat.add_assoc, List.range_add, List.range_succ_eq_map, List.map_cons, List.map_map]
      rfl
    unfold allocPass
    rw [hrange, List.foldl_append, List.foldl_cons]

/-- R75: the route's own record after a pass is what its turn leaves. -/
theorem allocPass_own (asks : List Nat) (imm : Option Nat) (s : State) {n : Nat} (hn : n < 18) :
    (allocPass asks imm s).route n =
      (allocTurn asks imm ((List.range n).foldl (allocTurn asks imm) s) n).route n := by
  obtain ⟨rest, hrest, hpass⟩ := allocPass_split asks imm s hn
  rw [hpass]
  exact foldl_skips (π := fun t => t.route n) (fun b _ hm => allocTurn_other hm b) rest hrest _

theorem allocBefore_own (asks : List Nat) (imm : Option Nat) (s : State) (n : Nat) :
    ((List.range n).foldl (allocTurn asks imm) s).route n = s.route n :=
  foldl_skips (π := fun t => t.route n) (fun b _ hm => allocTurn_other hm b) _ List.not_mem_range_self s

theorem allocBefore_length (asks : List Nat) (imm : Option Nat) (s : State) (ms : List Nat) :
    (ms.foldl (allocTurn asks imm) s).routes.length = s.routes.length :=
  foldl_keeps (P := fun t : State => t.routes.length = s.routes.length)
    (fun b m hb => (allocTurn_length asks imm m b).trans hb) _ s rfl

theorem closeStep_asks {before : State} {n : Nat} {asks : List Nat} (imm : Option Nat) (s : State) :
    (closeStep before (n :: asks) imm s).routes = (allocPass (n :: asks) imm s).routes := by
  unfold closeStep
  extract_lets returned t
  have ht : t = allocPass (n :: asks) imm s := if_pos (by simp)
  rw [← ht]
  clear_value t
  split
  · rfl
  · rfl

section Bind

variable {s : State} {n : Nat} (lane : Lane) (cls : Nat) (hn : n < s.routes.length) (h18 : n < 18)
include hn

theorem askCarrier_same : (askCarrier n lane cls s).route n =
    { (s.route n).unbind with
      binding := some { lane := lane.id, cls := cls }, state := .starved, bound := some lane } := by
  unfold askCarrier
  rw [State.route_modRoute_same _ _ _ (hn.trans_eq (List.length_modify _ _ _).symm)]
  show _ = { ((s.route n).unbind) with
      binding := some { lane := lane.id, cls := cls }, state := .starved, bound := some lane }
  have hu : (unbindRoutes [n] s).route n = (s.route n).unbind := State.route_modRoute_same s n Route.unbind hn
  rw [hu]

omit hn in
theorem askCarrier_length : (askCarrier n lane cls s).routes.length = s.routes.length :=
  (List.length_modify _ _ _).trans (List.length_modify _ _ _)

include h18

/-- R75, R141: the turn of a carrier that asks at once. -/
theorem askCarrier_granted (hroom : pageNeed lane.geometry ≤ freeAtTurn n (askCarrier n lane cls s)) :
    ∃ pages : List Nat, pages.length = pageNeed lane.geometry ∧
      (closeStep s [n] (some n) (askCarrier n lane cls s)).route n =
        ((askCarrier n lane cls s).route n).grant pages lane.geometry := by
  have hask := askCarrier_same lane cls hn
  have hlen := askCarrier_length (n := n) (s := s) lane cls
  generalize askCarrier n lane cls s = u at hroom hask hlen ⊢
  have hroute : (closeStep s [n] (some n) u).route n = (allocPass [n] (some n) u).route n :=
    congrArg (fun rs : List Route => rs.getD n (.reset n)) (closeStep_asks (some n) u)
  have hbefore := allocBefore_own [n] (some n) u n
  have hblen := allocBefore_length [n] (some n) u (List.range n)
  unfold freeAtTurn at hroom
  rw [hroute, allocPass_own _ _ _ h18]
  generalize (List.range n).foldl (allocTurn [n] (some n)) u = v at hroom hbefore hblen ⊢
  refine ⟨v.freePages.take (pageNeed lane.geometry), ?_, ?_⟩
  · rw [List.length_take, Nat.min_eq_left hroom]
  · rw [allocTurn_grants [n] (some n) (lane := lane) (by rw [hbefore, hask]) (by rw [hbefore, hask]) hroom,
      State.route_modRoute_same _ _ _ (by omega), hbefore]

theorem askCarrier_refused (hroom : freeAtTurn n (askCarrier n lane cls s) < pageNeed lane.geometry) :
    ((closeStep s [n] (some n) (askCarrier n lane cls s)).route n).Released := by
  have hask := askCarrier_same lane cls hn
  have hlen := askCarrier_length (n := n) (s := s) lane cls
  generalize askCarrier n lane cls s = u at hroom hask hlen ⊢
  have hroute : (closeStep s [n] (some n) u).route n = (allocPass [n] (some n) u).route n :=
    congrArg (fun rs : List Route => rs.getD n (.reset n)) (closeStep_asks (some n) u)
  have hbefore := allocBefore_own [n] (some n) u n
  have hblen := allocBefore_length [n] (some n) u (List.range n)
  unfold freeAtTurn at hroom
  rw [hroute, allocPass_own _ _ _ h18]
  generalize (List.range n).foldl (allocTurn [n] (some n)) u = v at hroom hbefore hblen ⊢
  rw [allocTurn_refuses [n] (some n) (lane := lane) (by rw [hbefore, hask]) (by rw [hbefore, hask]) hroom, if_pos rfl,
    State.route_modRoute_same _ _ _ (by rw [countRefusal_routes]; omega)]
  exact ⟨rfl, rfl, rfl⟩

end Bind

end Sys2Proof.Machine
end

section
/-! SUPPORT. The carrier that an announcement asks for, and the on-air switch (O48). -/

namespace Sys2Proof.Machine

/-! ### A carrier asked for -/

theorem allottedDamage (c : Nat) : Allotted fun r => r.damage = c where
  grant _ _ _ h _ := h
  ended _ _ h _ hr := by rw [hr.eq]; exact h

theorem SameEars.of_askCarrier (n : Nat) (lane : Lane) (cls : Nat) (s : State) : SameEars s (askCarrier n lane cls s) := by
  unfold askCarrier
  exact (of_unbindRoutes [n] s).trans (of_modRoute n fun _ => rfl)

section Bind

variable {s : State} {n : Nat} (lane : Lane) (cls : Nat)

/-- A host route's listening flag and damage limit through the step of a carrier that asks. -/
theorem askCarrier_host (hn : n ∈ [16, 17]) {m : Nat} (hm : m < 16) :
    ((closeStep s [n] (some n) (askCarrier n lane cls s)).route m).damage = (s.route m).damage := by
  have hne : m ≠ n := by
    simp only [List.mem_cons, List.not_mem_nil, or_false] at hn
    omega
  refine (allottedDamage (s.route m).damage).closeWith (n := m) s [n] (some n) (fun _ _ hr => hr) ?_
  unfold OnRoute askCarrier
  rw [State.route_modRoute_other _ _ hne.symm, unbindRoutes_other (by simpa using hne)]

variable (hn : n ∈ [16, 17]) (hlen : s.routes.length = 18)
include hn hlen

/-- R141, R75: the carrier is granted its whole need at once, with the damage limit of the listening route. -/
theorem bindCarrier_granted (hroom : pageNeed lane.geometry ≤ freeAtTurn n (askCarrier n lane cls s)) :
    ((bindCarrier n lane cls s).route n).binding = some { lane := lane.id, cls := cls } ∧
      ((bindCarrier n lane cls s).route n).state = .filling ∧
      ((bindCarrier n lane cls s).route n).pages.length = pageNeed lane.geometry ∧
      ((bindCarrier n lane cls s).route n).bound = some lane ∧
      ((bindCarrier n lane cls s).route n).run = false ∧
      ∀ m, s.listening = some m → ((bindCarrier n lane cls s).route n).damage = (s.route m).damage := by
  have hlt : n < 18 := by
    simp only [List.mem_cons, List.not_mem_nil, or_false] at hn
    omega
  have hask := askCarrier_same lane cls (hlt.trans_eq hlen.symm)
  obtain ⟨pages, hpages, hroute⟩ := askCarrier_granted lane cls (hlt.trans_eq hlen.symm) hlt hroom
  rw [hask] at hroute
  have hhost := fun m hm => askCarrier_host (s := s) lane cls hn (m := m) hm
  have hlisten : (closeStep s [n] (some n) (askCarrier n lane cls s)).listening = s.listening :=
    ((SameEars.of_askCarrier n lane cls s).trans (SameEars.of_closeStep s [n] (some n) _)).listening
  have hlen' : (closeStep s [n] (some n) (askCarrier n lane cls s)).routes.length = 18 := by
    rw [closeStep_length, askCarrier_length, hlen]
  unfold bindCarrier
  generalize closeStep s [n] (some n) (askCarrier n lane cls s) = u at hroute hhost hlisten hlen' ⊢
  dsimp only
  rw [if_pos (by rw [hroute]; rfl), hlisten]
  cases hm : s.listening with
  | none =>
    dsimp only
    rw [hroute]
    exact ⟨rfl, rfl, hpages, rfl, rfl, nofun⟩
  | some m =>
    dsimp only
    rw [State.route_modRoute_same _ _ _ (hlt.trans_eq hlen'.symm), hroute]
    exact ⟨rfl, rfl, hpages, rfl, rfl, fun k hk => Option.some.inj hk ▸ hhost m (listening_lt hm)⟩

theorem bindCarrier_refused (hroom : freeAtTurn n (askCarrier n lane cls s) < pageNeed lane.geometry) :
    ((bindCarrier n lane cls s).route n).Released := by
  have hlt : n < 18 := by
    simp only [List.mem_cons, List.not_mem_nil, or_false] at hn
    omega
  have hr := askCarrier_refused lane cls (hlt.trans_eq hlen.symm) hlt hroom
  unfold bindCarrier
  generalize closeStep s [n] (some n) (askCarrier n lane cls s) = u at hr ⊢
  dsimp only
  rw [hr.binding]
  exact hr

end Bind

theorem State.lane_id {s : State} {id : Nat} {l : Lane} (h : s.lane id = some l) : l.id = id := by
  unfold State.lane at h
  obtain ⟨m, -, hm⟩ := Option.bind_eq_some_iff.mp h
  unfold MuxMap.lane at hm
  have hid := List.find?_some hm
  exact of_decide_eq_true hid

/-! ### The on-air switch -/

/-- R143: the top announcement's route has run and formed a unit, and is not on air. -/
structure Switches (s : State) (formed : List Formed) (e : StackEntry) (n : Nat) : Prop where
  top : s.ann.stack.getLast? = some e
  cls : e.cls ≠ none
  route : s.routeOf e = some n
  off : s.ann.onAir ≠ some n
  run : (s.route n).run = true
  formed : formed.any (·.route = n) = true

theorem decideOnAir_switches {s : State} {formed : List Formed} {e : StackEntry} {n : Nat}
    (h : Switches s formed e n) : decideOnAir formed s = switchTo n e s := by
  obtain ⟨c, hc⟩ := Option.ne_none_iff_exists'.mp h.cls
  unfold decideOnAir
  rw [h.top]
  dsimp only
  rw [hc, h.route]
  exact if_pos ⟨h.off, h.run, h.formed⟩

theorem decideOnAir_stays {s : State} {formed : List Formed} (h : ∀ e n, ¬ Switches s formed e n) :
    decideOnAir formed s = s := by
  unfold decideOnAir
  split
  · rename_i e htop
    split
    · rename_i c n hc hn
      exact if_neg fun hs => h e n ⟨htop, by rw [hc]; exact Option.some_ne_none c, hn, hs.1, hs.2.1, hs.2.2⟩
    · rfl
  · rfl

/-- The new source with the listening route held. -/
def State.hold (n : Nat) (s : State) : State := setHeld true (setSource (some n) s)

/-- The announcement route that was on air released. -/
def State.retire (old : Option Nat) (s : State) : State :=
  match old with
  | some m => if 16 ≤ m then releaseCarriers [m] s else s
  | none => s

theorem switchTo_eq (n : Nat) (e : StackEntry) (s : State) :
    switchTo n e s = announce .onAir e (some n) none ((s.hold n).retire s.ann.onAir) := rfl

section Switch

variable (s : State) (n : Nat)

theorem retire_ann (old : Option Nat) :
    (s.retire old).ann = { s.ann with evalDue := (s.retire old).ann.evalDue } := by
  unfold State.retire
  split
  · split
    · exact releaseCarriers_ann _ s
    · rfl
  · rfl

theorem retire_held (old : Option Nat) {m : Nat} (hm : (s.route m).held = true) :
    ((s.retire old).route m).held = true := by
  unfold State.retire
  split
  · split
    · rename_i k _
      have h := congrArg Prod.fst ((SameEars.of_releaseCarriers [k] s).ears m)
      exact Eq.trans h hm
    · exact hm
  · exact hm

theorem retire_released {k : Nat} (hk : k ∈ [16, 17]) (hlen : s.routes.length = 18) :
    ((s.retire (some k)).route k).Released := by
  simp only [List.mem_cons, List.not_mem_nil, or_false] at hk
  unfold State.retire
  dsimp only
  rw [if_pos (by omega)]
  exact releaseCarriers_released (.head _) s (by omega)

variable {s n}

theorem hold_ann (h : s.ann.onAir ≠ some n) :
    (s.hold n).ann = { s.ann with onAir := some n, switchMark := true } := by
  unfold State.hold
  rw [setHeld_ann]
  unfold setSource
  rw [if_neg h]
  rfl

theorem setSource_routes (source : Option Nat) (s : State) : (setSource source s).routes = s.routes := by
  unfold setSource
  split
  · rfl
  · rfl

theorem hold_length (n : Nat) (s : State) : (s.hold n).routes.length = s.routes.length := by
  unfold State.hold
  rw [← setSource_routes (some n) s]
  unfold setHeld
  split
  · exact List.length_modify _ _ _
  · rfl

theorem hold_held {m : Nat} (hm : s.listening = some m) (hlen : m < s.routes.length) :
    ((s.hold n).route m).held = true := by
  have hroutes := setSource_routes (some n) s
  refine setHeld_listening ?_ true (by rw [hroutes]; exact hlen)
  rw [← hm]
  exact State.listening_congr fun k => congrArg (fun rs : List Route => (rs.getD k (.reset k)).listening) hroutes

end Switch

/-- Settles O48: the candidate, its push, the matching of its route, and the on-air switch. -/
theorem candidateIsHighest : Obligations.CandidateIsHighest := by
  refine ⟨fun s e i h => ?push, fun s lane cls hlen => ?match', fun s formed hlen => ?switch,
    fun s bottom top hbottom htop hcls => ?best⟩
  case push =>
    intro t matched need refused
    have hneed : need = ((s.lane e.lane).map fun l => pageNeed l.geometry).getD 0 := by
      unfold need
      cases s.lane e.lane with
      | none => rfl
      | some l => rfl
    refine ⟨tryPush_full h, fun hroom hnone => ?_, fun n hroom hsome => tryPush_pushed h hroom hsome⟩
    rw [hneed]
    exact tryPush_noRoom h hroom hnone
  case match' =>
    intro t isBound
    refine ⟨fun n hn => ?kept, fun l hnone hl => ?bound⟩
    case kept =>
      obtain ⟨hbind, hmark, hothers⟩ := matchTo_kept cls hlen hn
      refine ⟨hbind, hmark, fun m hm hmn => ⟨fun hb hoff => ?_, (hothers m hm hmn).2⟩⟩
      have hr := (hothers m hm hmn).1 hb hoff
      exact ⟨hr.state, hr.binding, hr.pages⟩
    case bound =>
      obtain ⟨n, hn, hfor, hwhich⟩ := carrierFor_spec s
      have ht : t = bindCarrier n l cls s := by
        unfold t matchTo
        rw [hnone, hl]
        dsimp only
        rw [hfor]
      have hroom : refusedRoom lane cls s = freeAtTurn n (askCarrier n l cls s) := by
        unfold refusedRoom
        rw [hl, hfor]
      refine ⟨n, hn, hwhich, hroom, fun hgrant => ?_, fun hrefuse => ?_⟩
      · rw [ht, ← State.lane_id hl]
        exact bindCarrier_granted l cls hn hlen (hroom ▸ hgrant)
      · have hr := bindCarrier_refused l cls hn hlen (hroom ▸ hrefuse)
        rw [ht]
        exact ⟨hr.binding, hr.state, hr.pages⟩
  case switch =>
    intro t switches
    have hiff : ∀ e n, switches e n ↔ Switches s formed e n := fun e n => by
      have hformed : (∃ x ∈ formed, x.route = n) ↔ formed.any (·.route = n) = true := by simp
      constructor
      · rintro ⟨h1, h2, h3, h4, h5, h6⟩
        exact ⟨h1, h2, h3, h4, h5, hformed.mp h6⟩
      · rintro ⟨h1, h2, h3, h4, h5, h6⟩
        exact ⟨h1, h2, h3, h4, h5, hformed.mpr h6⟩
    refine ⟨fun hno => decideOnAir_stays fun e n h => hno ⟨e, n, (hiff e n).mpr h⟩, fun e n h => ?_⟩
    have hs := (hiff e n).mp h
    have ht : t = announce .onAir e (some n) none ((s.hold n).retire s.ann.onAir) :=
      (decideOnAir_switches hs).trans (switchTo_eq n e s)
    have hann := retire_ann (s.hold n) s.ann.onAir
    rw [hold_ann hs.off] at hann
    have hroute : ∀ k, t.route k = ((s.hold n).retire s.ann.onAir).route k := fun k => by
      rw [ht]
      exact congrArg (fun rs : List Route => rs.getD k (.reset k)) (State.raiseAt_routes _ _ _)
    refine ⟨?_, fun m hm => ?_, fun k hk hon => ?_, ?_⟩
    · rw [ht, announce_ann]
      exact hann
    · rw [hroute]
      exact retire_held _ _ (hold_held hm (by have := listening_lt hm; omega))
    · have hr := retire_released (s.hold n) hk ((hold_length n s).trans hlen)
      rw [hroute, hon]
      exact ⟨hr.state, hr.binding, hr.pages⟩
    · obtain ⟨c, hc⟩ := Option.ne_none_iff_exists'.mp hs.cls
      have hlen' : ((s.hold n).retire s.ann.onAir).ann.stack.length = s.ann.stack.length := by rw [hann]
      have hcls : e.cls = some (e.cls.getD 8) := by rw [hc]; rfl
      rw [ht, hcls, ← hlen']
      exact State.noticed_raiseAt _ _ _
  case best =>
    intro fits
    have hiff : ∀ e, fits e ↔ some e ∈ s.ann.live ∧ e.Fits s bottom top := fun e => by
      constructor
      · rintro ⟨h1, h2, h3, h4, h5, ⟨l, h6⟩, h7⟩
        exact ⟨h1, h2, h3, h4, h5, by rw [h6]; rfl, h7⟩
      · rintro ⟨h1, h2, h3, h4, h5, h6, h7⟩
        exact ⟨h1, h2, h3, h4, h5, Option.isSome_iff_exists.mp h6, h7⟩
    refine ⟨fun e he => ?_, fun hnone x hx => ?_⟩
    · obtain ⟨hfits, hbest⟩ := candidate_eq_some hbottom htop he
      exact ⟨(hiff e).mpr hfits, fun x hx => hbest x ((hiff x).mp hx).1 ((hiff x).mp hx).2⟩
    · obtain ⟨hmem, hfits⟩ := (hiff x).mp hx
      exact candidate_eq_none hbottom htop hnone hmem (hcls _ hmem x rfl) hfits

end Sys2Proof.Machine
end

section
/-! SUPPORT. What an accepted write of a host route leaves of the routes (R108 to R111). -/

namespace Sys2Proof.Machine

/-! ### The fields taken -/

/-- The part with the written fields entered. -/
def entered (n : Nat) (f : RouteFields) (s : State) : State := takeListening n f (s.modRoute n (Route.written f))

section Entered

variable {n : Nat} (f : RouteFields) (s : State)

theorem takeListening_same (n : Nat) (s : State) : (takeListening n f s).route n = s.route n := by
  unfold takeListening
  split
  · rw [State.route, State.route, List.getD_eq_getElem?_getD, List.getD_eq_getElem?_getD, List.getElem?_mapIdx]
    cases s.routes[n]? with
    | none => rfl
    | some r => simp
  · rfl

theorem entered_length (n : Nat) : (entered n f s).routes.length = s.routes.length :=
  (takeListening_length n f _).trans (List.length_modify _ _ _)

theorem entered_same (hn : n < s.routes.length) : (entered n f s).route n = (s.route n).written f :=
  (takeListening_same f n _).trans (State.route_modRoute_same _ _ _ hn)

/-- R110: another route keeps all but its listening flag. -/
theorem entered_other {m : Nat} (hmn : m ≠ n) : (entered n f s).route m =
    { s.route m with listening := (s.route m).listening && !(f.listening && f.program ≠ 0) } := by
  have hm : (s.modRoute n (Route.written f)).route m = s.route m := State.route_modRoute_other _ _ hmn.symm
  unfold entered takeListening
  split
  · rename_i hl
    have htrue : (f.listening && decide (f.program ≠ 0)) = true := by
      rw [hl.1, decide_eq_true hl.2]
      rfl
    rw [htrue, ← hm]
    unfold State.route
    rw [List.getD_eq_getElem?_getD, List.getD_eq_getElem?_getD, List.getElem?_mapIdx]
    cases (s.modRoute n (Route.written f)).routes[m]? with
    | none => simp [Route.reset]
    | some r => simp [hmn]
  · rename_i hl
    rw [hm]
    have hfalse : (f.listening && decide (f.program ≠ 0)) = false :=
      Bool.eq_false_iff.mpr fun h => hl (by rwa [Bool.and_eq_true, decide_eq_true_eq] at h)
    rw [hfalse, Bool.not_false, Bool.and_true]

theorem entered_ann (n : Nat) : (entered n f s).ann = s.ann := takeListening_ann n f _

theorem entered_leadTracker (n : Nat) : (entered n f s).leadTracker = s.leadTracker := by
  unfold entered takeListening
  split
  · rfl
  · rfl

theorem entered_front (n : Nat) : SameFront s (entered n f s) := by
  unfold entered takeListening
  split
  · exact ⟨⟨rfl, rfl, rfl, rfl, rfl, rfl, rfl⟩, rfl, rfl⟩
  · exact ⟨⟨rfl, rfl, rfl, rfl, rfl, rfl, rfl⟩, rfl, rfl⟩

end Entered

/-- What a write leaves in a record, at any time after. -/
structure Route.Entered (f : RouteFields) (r : Route) : Prop where
  program : r.program = f.program
  component : r.component = writtenComponent f
  channel : r.channel = some (writtenChannel f)
  listening : r.listening = (f.listening && decide (f.program ≠ 0))
  pin : r.pin = (f.pin && decide (f.program ≠ 0))
  damage : r.damage = min 720 f.damage.toNat
  addrs : r.addrs = addressList f

theorem Route.Entered.congr {f : RouteFields} {r r' : Route} (h : r.Entered f) (hf : r'.fixed = r.fixed)
    (hd : r'.damage = r.damage) : r'.Entered f := by
  simp only [Route.fixed, Prod.mk.injEq] at hf
  obtain ⟨h1, h2, h3, h4, h5, h6, -⟩ := hf
  exact ⟨h1.trans h.1, h2.trans h.2, h3.trans h.3, h4.trans h.4, h5.trans h.5, hd.trans h.6, h6.trans h.7⟩

theorem enteredSettled {n : Nat} (hn : n < 16) (f : RouteFields) : Settled n (Route.Entered f) where
  held _ _ h := h.congr rfl rfl
  grant _ _ _ h _ := h.congr rfl rfl
  ended _ _ h _ hr := by rw [hr.eq]; exact h.congr rfl rfl
  unbind hn' := absurd hn' hn.not_ge
  ask hn' := absurd hn' hn.not_ge
  binding hn' := absurd hn' hn.not_ge
  damage hn' := absurd hn' hn.not_ge
  resumed _ _ _ h _ hr := h.congr hr.fixed hr.damage

theorem queueSettled {n : Nat} (hn : n < 16) (q : List Item) : Settled n fun r => r.queue = q where
  held _ _ h := h
  grant _ _ _ h _ := h
  ended _ _ h _ hr := by rw [hr.eq]; exact h
  unbind hn' := absurd hn' hn.not_ge
  ask hn' := absurd hn' hn.not_ge
  binding hn' := absurd hn' hn.not_ge
  damage hn' := absurd hn' hn.not_ge
  resumed _ _ _ h _ hr := by
    have hf := hr.fixed
    simp only [Route.fixed, Prod.mk.injEq] at hf
    obtain ⟨-, -, -, -, -, -, hq⟩ := hf
    exact hq.trans h

/-- A host route that does not wait for pages keeps state, reason and run in RUN. -/
theorem steadyPassed {n : Nat} (hn : n < 16) (r₀ : Route) (hstate : r₀.state ≠ .starved) :
    Passed n fun r => r.state = r₀.state ∧ r.reason = r₀.reason ∧ r.run = r₀.run where
  held _ _ h := h
  grant _ _ _ h hs := absurd (h.1.symm.trans hs) hstate
  ended _ _ h hs _ := absurd (h.1.symm.trans hs) hstate
  unbind hn' := absurd hn' hn.not_ge
  ask hn' := absurd hn' hn.not_ge
  binding hn' := absurd hn' hn.not_ge
  damage hn' := absurd hn' hn.not_ge

theorem lostPassed {n : Nat} (hn : n < 16) : Passed n Route.Lost where
  held _ _ h := ⟨h.1, h.2, h.3, h.4⟩
  grant _ _ _ h hs := by rw [h.state] at hs; cases hs
  ended _ _ h hs _ := by rw [h.state] at hs; cases hs
  unbind hn' := absurd hn' hn.not_ge
  ask hn' := absurd hn' hn.not_ge
  binding hn' := absurd hn' hn.not_ge
  damage hn' := absurd hn' hn.not_ge

/-! ### The consequence of a write -/

/-- The queue of a route whose channel changes is cut. -/
def recut (n : Nat) (f : RouteFields) (r : Route) (s : State) : State :=
  if r.channel ≠ some (writtenChannel f) then cutQueue n s else s

section Consequence

variable {n : Nat} {f : RouteFields} {r : Route} {s : State}

theorem routeConsequence_vacates (h : f.program = 0) : routeConsequence n f r s = (vacateRoute n s, []) := by
  unfold routeConsequence
  exact if_pos h

theorem routeConsequence_named (h : f.program ≠ 0) : routeConsequence n f r s =
    if r.state = .suspended then
      if s.ann.level = .watch ∧ f.pin ∧ r.reason = some .level then resolveRoute (recut n f r s, []) n
      else (recut n f r s, [])
    else if s.ann.level = .watch ∧ !f.pin then (suspendRoute .level n (recut n f r s), [])
    else if resolvesAgain f r then resolveRoute (recut n f r s, []) n
    else (recut n f r s, []) := by
  unfold routeConsequence
  exact if_neg h

/-- R109, R111: what may become of the route after its fields have been taken. -/
theorem routeConsequence_cases (n : Nat) (f : RouteFields) (r : Route) (s : State) :
    (f.program = 0 ∧ (routeConsequence n f r s).1 = vacateRoute n s) ∨ (f.program ≠ 0 ∧
      ((routeConsequence n f r s).1 = recut n f r s ∨
        (routeConsequence n f r s).1 = (resolveRoute (recut n f r s, []) n).1 ∨
        (routeConsequence n f r s).1 = suspendRoute .level n (recut n f r s))) := by
  by_cases h : f.program = 0
  · exact .inl ⟨h, by rw [routeConsequence_vacates h]⟩
  · refine .inr ⟨h, ?_⟩
    rw [routeConsequence_named h]
    generalize recut n f r s = u
    split
    · split
      · exact .inr (.inl rfl)
      · exact .inl rfl
    split
    · dsimp only
      exact .inr (.inr rfl)
    split
    · exact .inr (.inl rfl)
    · exact .inl rfl

theorem recut_other {m : Nat} (hmn : m ≠ n) : (recut n f r s).route m = s.route m := by
  unfold recut
  split
  · exact cutQueue_other hmn s
  · rfl

theorem recut_length (n : Nat) (f : RouteFields) (r : Route) (s : State) :
    (recut n f r s).routes.length = s.routes.length := by
  unfold recut
  split
  · exact cutQueue_length n s
  · rfl

theorem recut_same (hn : n < s.routes.length) : (recut n f r s).route n =
    { s.route n with queue :=
        if r.channel ≠ some (writtenChannel f) then (s.route n).queue.filter Item.begun else (s.route n).queue } := by
  unfold recut
  by_cases hc : r.channel ≠ some (writtenChannel f)
  · rw [if_pos hc, if_pos hc, cutQueue_same hn]
  · rw [if_neg hc, if_neg hc]

theorem routeConsequence_other {m : Nat} (hmn : m ≠ n) : (routeConsequence n f r s).1.route m = s.route m := by
  obtain ⟨-, h⟩ | ⟨-, h | h | h⟩ := routeConsequence_cases n f r s
  · rw [h, vacateRoute_other hmn]
  · rw [h, recut_other hmn]
  · rw [h, resolveRoute_other _ hmn]
    exact recut_other hmn
  · rw [h, suspendRoute_other hmn, recut_other hmn]

theorem vacateRoute_fields (hn : n < s.routes.length) :
    ((vacateRoute n s).route n).component = (s.route n).component ∧
      ((vacateRoute n s).route n).channel = (s.route n).channel ∧
      ((vacateRoute n s).route n).damage = (s.route n).damage ∧
      ((vacateRoute n s).route n).addrs = (s.route n).addrs := by
  unfold vacateRoute
  rw [endRun_record, cutQueue_same (by rw [State.modRoute_routes, List.length_modify]; exact hn),
    State.route_modRoute_same _ _ _ hn]
  exact ⟨rfl, rfl, rfl, rfl⟩

end Consequence

/-- R108: the fields, whatever the consequence. -/
theorem routeConsequence_entered {n : Nat} {f : RouteFields} {s : State} (hn : n < s.routes.length) :
    ((routeConsequence n f (s.route n) (entered n f s)).1.route n).Entered f := by
  have hrec := entered_same f s hn
  have hlen : n < (entered n f s).routes.length := hn.trans_eq (entered_length f s n).symm
  have hentered : ((entered n f s).route n).Entered f := by
    rw [hrec]
    exact ⟨rfl, rfl, rfl, rfl, rfl, rfl, rfl⟩
  have hrecut : ((recut n f (s.route n) (entered n f s)).route n).Entered f := by
    rw [recut_same hlen]
    exact ⟨hentered.1, hentered.2, hentered.3, hentered.4, hentered.5, hentered.6, hentered.7⟩
  have hlen' : n < (recut n f (s.route n) (entered n f s)).routes.length := by rw [recut_length]; exact hlen
  obtain ⟨h0, h⟩ | ⟨-, h | h | h⟩ := routeConsequence_cases n f (s.route n) (entered n f s)
  · have hv := vacateRoute_vacated hlen
    obtain ⟨h1, h2, h3, h4⟩ := vacateRoute_fields hlen
    rw [h]
    refine ⟨hv.program.trans h0.symm, h1.trans hentered.component, h2.trans hentered.channel, ?_, ?_,
      h3.trans hentered.damage, h4.trans hentered.addrs⟩
    · rw [hv.listening, h0]
      simp
    · rw [hv.pin, h0]
      simp
  · rw [h]
    exact hrecut
  · rw [h]
    have hr := resolveRoute_resolved (recut n f (s.route n) (entered n f s), []) (n := n) hlen'
    exact hrecut.congr hr.fixed hr.damage
  · rw [h, suspendRoute_same _ hlen']
    exact ⟨hrecut.1, hrecut.2, hrecut.3, hrecut.4, hrecut.5, hrecut.6, hrecut.7⟩

/-- R106, R109: the queue of a route that loses program or channel is cut. -/
theorem routeConsequence_cut {n : Nat} {f : RouteFields} {s : State} (hn : n < s.routes.length)
    (hcut : f.program = 0 ∨ (s.route n).channel ≠ some (writtenChannel f)) :
    ((routeConsequence n f (s.route n) (entered n f s)).1.route n).queue = (s.route n).queue.filter Item.begun := by
  have hrec := entered_same f s hn
  have hlen : n < (entered n f s).routes.length := hn.trans_eq (entered_length f s n).symm
  have hlen' : n < (recut n f (s.route n) (entered n f s)).routes.length := by rw [recut_length]; exact hlen
  obtain ⟨h0, h⟩ | ⟨h0, h⟩ := routeConsequence_cases n f (s.route n) (entered n f s)
  · rw [h, (vacateRoute_vacated hlen).queue, hrec]
    rfl
  · have hrecut : ((recut n f (s.route n) (entered n f s)).route n).queue = (s.route n).queue.filter Item.begun := by
      rw [recut_same hlen, hrec]
      exact if_pos (hcut.resolve_left h0)
    obtain h | h | h := h
    · rw [h, hrecut]
    · have hr := (resolveRoute_resolved (recut n f (s.route n) (entered n f s), []) (n := n) hlen').fixed
      simp only [Route.fixed, Prod.mk.injEq] at hr
      obtain ⟨-, -, -, -, -, -, hq⟩ := hr
      rw [h, hq, hrecut]
    · rw [h, suspendRoute_same _ hlen', hrecut]
      simp [List.filter_filter]

/-- R95: with no lead map a resolved route is PENDING. -/
theorem resolveRoute_lost {x : State × List Nat} {n : Nat} (hn : n < x.1.routes.length)
    (hmap : x.1.leadTracker.map = none) : ((resolveRoute x n).1.route n).Lost := by
  obtain ⟨u, hu⟩ : ∃ u, endRun n (x.1.modRoute n fun r => { r with reason := none }) = u := ⟨_, rfl⟩
  have hlt : u.leadTracker.map = none := by
    rw [← hu, endRun_rest]
    exact hmap
  have hlen : n < u.routes.length := by
    rw [← hu, endRun_length, State.modRoute_routes, List.length_modify]
    exact hn
  have hx : resolveRoute x n = (toPending n u, x.2) := by
    unfold resolveRoute
    rw [hu]
    dsimp only
    rw [lookupLane_unmapped hlt]
  rw [hx, toPending_same hlen]
  exact ⟨rfl, rfl, rfl, rfl⟩

end Sys2Proof.Machine
end

section
/-! SUPPORT. A WRITE of a host route (R108 to R111; O41). -/

namespace Sys2Proof.Machine

/-! ### The step and its end -/

/-- The part after the step of an accepted write. -/
def writtenStep (n : Nat) (f : RouteFields) (s : State) : State :=
  let x := routeConsequence n f (s.route n) (entered n f s)
  closeStep s x.2 none x.1

theorem applyRoute_eq (n : Nat) (f : RouteFields) (s : State) :
    applyRoute n f s = tellController s.listening (writtenStep n f s) := rfl

theorem applyRoute_front (n : Nat) (f : RouteFields) (s : State) : SameFront s (applyRoute n f s) := by
  have h := frontEngine s
  rw [applyRoute_eq]
  exact h.tellController _ (h.closeStep _ _ _ (h.routeConsequence n f _ (entered_front f s n)))

theorem applyRoute_trackers (n : Nat) (f : RouteFields) (s : State) : SameTrackers s (applyRoute n f s) :=
  have h := (trackersRestacked s.leadTracker s.scoutTracker).applyRoute n f ⟨rfl, rfl⟩
  ⟨h.1, h.2⟩

section Routes

variable {n m : Nat} {f : RouteFields} {s : State} {R : Route → Prop}

theorem passed_applyRoute (h : Passed m R)
    (hx : R ((routeConsequence n f (s.route n) (entered n f s)).1.route m)) : OnRoute m R (applyRoute n f s) := by
  rw [applyRoute_eq]
  exact h.tellController _ (h.closeStep s _ hx)

theorem applyRoute_run (hrun : s.ann.level = .run) : (applyRoute n f s).ann.level = .run := by
  have hw : (entered n f s).ann.level = .run := by rw [entered_ann, hrun]
  rw [applyRoute_eq]
  exact runKept.tellController _ (runKept.closeStep _ _ _ (runKept.routeConsequence n f _ hw))

end Routes

/-! ### The level in WATCH -/

theorem cutQueue_ann (n : Nat) (s : State) : (cutQueue n s).ann = s.ann := rfl

theorem vacateRoute_ann (n : Nat) (s : State) : (vacateRoute n s).ann = s.ann := by
  unfold vacateRoute
  rw [endRun_ann]
  rfl

theorem suspendRoute_ann (why : SuspendReason) (n : Nat) (s : State) : (suspendRoute why n s).ann = s.ann := by
  unfold suspendRoute
  extract_lets t
  have ht : t.ann = s.ann := endRun_ann n _
  clear_value t
  split
  · exact ht
  · exact ht

theorem resolveRoute_ann (x : State × List Nat) (n : Nat) : (resolveRoute x n).1.ann = x.1.ann := by
  unfold resolveRoute
  extract_lets t
  have ht : t.ann = x.1.ann := endRun_ann n _
  clear_value t
  split
  · unfold toPending
    dsimp only
    rw [endRun_ann]
    exact ht
  split
  · exact ht
  · exact ht

theorem recut_ann (n : Nat) (f : RouteFields) (r : Route) (s : State) : (recut n f r s).ann = s.ann := by
  unfold recut
  split
  · rfl
  · rfl

theorem routeConsequence_ann (n : Nat) (f : RouteFields) (r : Route) (s : State) :
    (routeConsequence n f r s).1.ann = s.ann := by
  obtain ⟨-, h⟩ | ⟨-, h | h | h⟩ := routeConsequence_cases n f r s
  · rw [h, vacateRoute_ann]
  · rw [h, recut_ann]
  · rw [h, resolveRoute_ann]
    exact recut_ann n f r s
  · rw [h, suspendRoute_ann, recut_ann]

/-- A change of listening route keeps what any change of stack and of routes keeps. -/
theorem Stacked.tellController {P : State → Prop} (h : Stacked P)
    (hroutes : ∀ s rs, P s → P { s with routes := rs }) (before : Option Nat) {s : State} (hs : P s) :
    P (tellController before s) := by
  unfold Machine.tellController
  split
  · exact h.refreshBottom hs
  · unfold Machine.listeningChanged
    extract_lets old ps a b c d e
    have hb : P b := h.releaseCarriers _ (h.removeAll .cleared ps hs)
    have hc : P c := hroutes b _ hb
    have hd : P d := by
      unfold d
      split
      · exact h.stack _ _ hc rfl rfl
      · exact h.stack _ _ hc rfl rfl
    have he : P e := by
      unfold e
      split
      · exact hd
      · exact h.announceProgram hd
    exact h.dueEval he

theorem applyRoute_level (n : Nat) (f : RouteFields) (s : State) : (applyRoute n f s).ann.level = s.ann.level := by
  have h := liveNoted s.ann.level (s.ann.live.map (Option.map LiveEntry.sansNote))
  have hx : (routeConsequence n f (s.route n) (entered n f s)).1.ann = s.ann := by
    rw [routeConsequence_ann, entered_ann]
  rw [applyRoute_eq]
  exact (h.tellController (fun _ _ hs => hs) _ (h.closeStep _ _ _ ⟨by rw [hx], by rw [hx]⟩)).1

/-- R151: with no wake class no live entry wakes the part. -/
theorem wakeCandidate_of_no_class {s : State} (h : s.mgmt.settings.wake = 0) : wakeCandidate s = none := by
  unfold wakeCandidate
  split
  · unfold bestLive
    refine List.findSome?_eq_none_iff.mpr fun c _ => List.find?_eq_none.mpr fun e _ => ?_
    have hno : inClasses s.mgmt.settings.wake e.cls = false := by
      rw [h]
      exact BitVec.getLsbD_zero
    simp [hno]
  · rfl

/-- In WATCH, with no wake class, an evaluation changes no route. -/
theorem OnRoute.settle_watch {m : Nat} {R : Route → Prop} {s : State} (hl : s.ann.level = .watch)
    (hw : s.mgmt.settings.wake = 0) (hs : OnRoute m R s) : OnRoute m R (settle s) := by
  by_cases hd : s.ann.evalDue = true
  · rw [settle_asleep hl (wakeCandidate_of_no_class hw) hd]
    exact hs
  · unfold settle
    rw [if_neg hd]
    exact hs

/-! ### The write, field by field -/

/-- What an accepted write of host route n leaves. -/
structure State.Rewritten (n : Nat) (f : RouteFields) (s t : State) : Prop where
  links : t.linkA = s.linkA ∧ t.linkB = s.linkB ∧ t.merge = s.merge ∧ t.leadTracker = s.leadTracker
  taken : (t.route n).Entered f
  others : ∀ m < 16, m ≠ n → (t.route m).program = (s.route m).program ∧
    (t.route m).channel = (s.route m).channel ∧ (t.route m).pin = (s.route m).pin ∧
    (t.route m).listening = ((s.route m).listening && !(f.listening && decide (f.program ≠ 0)))
  vacated : f.program = 0 → (t.route n).Vacated (s.route n).queue
  suspended : f.program ≠ 0 → (s.route n).state = .suspended → s.ann.level = .run →
    (t.route n).state = .suspended ∧ (t.route n).reason = (s.route n).reason
  lost : f.program ≠ 0 → (s.route n).state ≠ .suspended → s.ann.level = .run → s.leadTracker.map = none →
    resolvesAgain f (s.route n) = true → (t.route n).Lost
  steady : f.program ≠ 0 → resolvesAgain f (s.route n) = false → s.ann.level = .run →
    (s.route n).state ≠ .starved →
    (t.route n).state = (s.route n).state ∧ (t.route n).run = (s.route n).run ∧
      (t.route n).queue = (s.route n).queue
  cut : f.program = 0 ∨ (s.route n).channel ≠ some (writtenChannel f) →
    (t.route n).queue = (s.route n).queue.filter Item.begun
  stopped : f.program ≠ 0 → s.ann.level = .watch → s.mgmt.settings.wake = 0 → (s.route n).state ≠ .suspended →
    f.pin = false → (t.route n).Stopped .level
  resumed : f.program ≠ 0 → s.ann.level = .watch → (s.route n).state = .suspended →
    (s.route n).reason = some .level → f.pin = true → (t.route n).Resumed
  stays : f.program ≠ 0 → s.ann.level = .watch → s.mgmt.settings.wake = 0 → (s.route n).state = .suspended →
    f.pin = false ∨ (s.route n).reason = some .request →
    (t.route n).state = .suspended ∧ (t.route n).reason = (s.route n).reason

/-- A suspended route stays so until it is resolved. -/
theorem stoppedPassed {n : Nat} (hn : n < 16) (why : SuspendReason) : Passed n (Route.Stopped why) where
  held _ _ h := ⟨h.1, h.2, h.3, h.4⟩
  grant _ _ _ h hs := by rw [h.state] at hs; cases hs
  ended _ _ h hs _ := by rw [h.state] at hs; cases hs
  unbind hn' := absurd hn' hn.not_ge
  ask hn' := absurd hn' hn.not_ge
  binding hn' := absurd hn' hn.not_ge
  damage hn' := absurd hn' hn.not_ge

/-! ### The consequence, case by case -/

/-- The part after the consequence of a write, before the pass of its step. -/
@[irreducible] def consequence (n : Nat) (f : RouteFields) (s : State) : State :=
  (routeConsequence n f (s.route n) (entered n f s)).1

section Consequence

variable {n : Nat} {f : RouteFields} {s : State}

/-- The consequence leaves the route but for its fields. -/
theorem consequence_kept (hn : n < s.routes.length)
    (h : routeConsequence n f (s.route n) (entered n f s) = (recut n f (s.route n) (entered n f s), [])) :
    (consequence n f s).route n = { (s.route n).written f with
      queue := if (s.route n).channel ≠ some (writtenChannel f) then (s.route n).queue.filter Item.begun
        else (s.route n).queue } := by
  unfold consequence
  rw [h]
  dsimp only
  rw [recut_same (hn.trans_eq (entered_length f s n).symm), entered_same f s hn]
  rfl

theorem consequence_vacates (hn : n < s.routes.length) (h : f.program = 0) :
    ((consequence n f s).route n).Vacated (s.route n).queue := by
  have hv := vacateRoute_vacated (hn.trans_eq (entered_length f s n).symm)
  rw [entered_same f s hn] at hv
  unfold consequence
  rw [routeConsequence_vacates h]
  dsimp only
  exact hv

variable (h0 : f.program ≠ 0)
include h0

theorem consequence_suspended (hn : n < s.routes.length) (hs : (s.route n).state = .suspended)
    (h : ¬ (s.ann.level = .watch ∧ f.pin = true ∧ (s.route n).reason = some .level)) :
    (consequence n f s).route n = { (s.route n).written f with
      queue := if (s.route n).channel ≠ some (writtenChannel f) then (s.route n).queue.filter Item.begun
        else (s.route n).queue } := by
  refine consequence_kept hn ?_
  rw [routeConsequence_named h0, entered_ann, if_pos hs, if_neg h]

theorem consequence_unresolved (hn : n < s.routes.length) (hrun : s.ann.level = .run)
    (hag : resolvesAgain f (s.route n) = false) :
    (consequence n f s).route n = { (s.route n).written f with
      queue := if (s.route n).channel ≠ some (writtenChannel f) then (s.route n).queue.filter Item.begun
        else (s.route n).queue } := by
  refine consequence_kept hn ?_
  rw [routeConsequence_named h0, entered_ann, hrun, hag]
  simp

theorem consequence_stopped (hn : n < s.routes.length) (hw : s.ann.level = .watch)
    (hs : (s.route n).state ≠ .suspended) (hp : f.pin = false) :
    ((consequence n f s).route n).Stopped .level := by
  have hx : (consequence n f s) = suspendRoute .level n (recut n f (s.route n) (entered n f s)) := by
    unfold consequence
    rw [routeConsequence_named h0, entered_ann, if_neg hs, if_pos ⟨hw, by rw [hp]; rfl⟩]
  rw [hx]
  refine suspendRoute_stopped _ ?_
  rw [recut_length, entered_length]
  exact hn

theorem consequence_resumed (hn : n < s.routes.length) (hw : s.ann.level = .watch)
    (hs : (s.route n).state = .suspended) (hr : (s.route n).reason = some .level) (hp : f.pin = true) :
    ((consequence n f s).route n).Resumed := by
  have hlen : n < (recut n f (s.route n) (entered n f s)).routes.length := by
    rw [recut_length, entered_length]
    exact hn
  have hx : (consequence n f s) = (resolveRoute (recut n f (s.route n) (entered n f s), []) n).1 := by
    unfold consequence
    rw [routeConsequence_named h0, entered_ann, if_pos hs, if_pos ⟨hw, hp, hr⟩]
  rw [hx]
  exact (resolveRoute_resolved (recut n f (s.route n) (entered n f s), []) hlen).resumed

theorem consequence_lost (hn : n < s.routes.length) (hrun : s.ann.level = .run)
    (hs : (s.route n).state ≠ .suspended) (hmap : s.leadTracker.map = none)
    (hag : resolvesAgain f (s.route n) = true) : ((consequence n f s).route n).Lost := by
  have hlen : n < (recut n f (s.route n) (entered n f s)).routes.length := by
    rw [recut_length, entered_length]
    exact hn
  have hlt : (recut n f (s.route n) (entered n f s)).leadTracker = s.leadTracker := by
    rw [← entered_leadTracker f s n]
    unfold recut
    split
    · rfl
    · rfl
  have hx : (consequence n f s) = (resolveRoute (recut n f (s.route n) (entered n f s), []) n).1 := by
    unfold consequence
    rw [routeConsequence_named h0, entered_ann, if_neg hs,
      if_neg (by rw [hrun]; exact fun h => nomatch h.1), if_pos hag]
  rw [hx]
  exact resolveRoute_lost hlen (by rw [hlt, hmap])

end Consequence

/-! ### A property of a route through the write -/

section Through

variable {n m : Nat} {f : RouteFields} {s : State} {R : Route → Prop}

theorem settled_written (h : Settled m R) (hx : R ((consequence n f s).route m)) :
    R ((settle (applyRoute n f s)).route m) := by
  unfold consequence at hx
  exact h.settle (passed_applyRoute h.toPassed hx)

theorem passed_written_run (h : Passed m R) (hrun : s.ann.level = .run) (hx : R ((consequence n f s).route m)) :
    R ((settle (applyRoute n f s)).route m) := by
  unfold consequence at hx
  exact h.settle_run (applyRoute_run hrun) (passed_applyRoute h hx)

theorem passed_written_watch (h : Passed m R) (hw : s.ann.level = .watch) (hc : s.mgmt.settings.wake = 0)
    (hx : R ((consequence n f s).route m)) : R ((settle (applyRoute n f s)).route m) := by
  have hm := congrArg (fun m : Management => m.settings.wake)
    (Management.eq_of_asked (applyRoute_front n f s).asked)
  have hwake : (applyRoute n f s).mgmt.settings.wake = 0 := Eq.trans hm hc
  unfold consequence at hx
  exact (passed_applyRoute h hx).settle_watch ((applyRoute_level n f s).trans hw) hwake

end Through

section Write

variable {n : Nat} {f : RouteFields} {s : State} (hn : n < 16) (hlen : s.routes.length = 18)
include hn hlen

theorem settle_rewritten : s.Rewritten n f (settle (applyRoute n f s)) := by
  have hlt : n < s.routes.length := by omega
  have hf := applyRoute_front n f s
  have hsf := settle_ports (applyRoute n f s)
  refine ⟨?links, settled_written (enteredSettled hn f) ?taken, fun m hm hmn => ?others,
    fun h0 => settled_written (vacatedSettled hn _) (consequence_vacates hlt h0), fun h0 hs hrun => ?suspended,
    fun h0 hs hrun hmap hag => passed_written_run (lostPassed hn) hrun (consequence_lost h0 hlt hrun hs hmap hag),
    fun h0 hag hrun hst => ?steady, fun hcut => settled_written (queueSettled hn _) ?cut, 
    fun h0 hw hc hs hp => passed_written_watch (stoppedPassed hn _) hw hc (consequence_stopped h0 hlt hw hs hp),
    fun h0 hw hs hr hp => settled_written (resumedSettled hn) (consequence_resumed h0 hlt hw hs hr hp),
    fun h0 hw hc hs hp => ?stays⟩
  case links =>
    exact ⟨hsf.linkA.trans hf.linkA, hsf.linkB.trans hf.linkB, hsf.merge.trans hf.merge,
      (settle_trackers _).lead.trans (applyRoute_trackers n f s).lead⟩
  case taken =>
    unfold consequence
    exact routeConsequence_entered hlt
  case others =>
    have h := settled_written (fixedSettled hm ((entered n f s).route m)) (n := n) (f := f) (s := s) (by
      unfold consequence
      rw [routeConsequence_other hmn])
    rw [entered_other f s hmn] at h
    simp only [Route.fixed, Prod.mk.injEq] at h
    obtain ⟨hprogram, -, hchannel, hlistening, hpin, -, -⟩ := h
    exact ⟨hprogram, hchannel, hpin, hlistening⟩
  case suspended =>
    have hx := consequence_suspended h0 hlt hs (by rw [hrun]; exact fun h => nomatch h.1)
    have h := passed_written_run (steadyPassed hn (s.route n) (by rw [hs]; decide)) (f := f) hrun
      (by rw [hx]; exact ⟨rfl, rfl, rfl⟩)
    exact ⟨h.1.trans hs, h.2.1⟩
  case steady =>
    have hx := consequence_unresolved h0 hlt hrun hag
    have h := passed_written_run (steadyPassed hn (s.route n) hst) (f := f) hrun (by rw [hx]; exact ⟨rfl, rfl, rfl⟩)
    have hchannel : ¬ (s.route n).channel ≠ some (writtenChannel f) := by
      unfold resolvesAgain at hag
      simp only [Bool.or_eq_false_iff, decide_eq_false_iff_not] at hag
      exact hag.2
    have hq := settled_written (queueSettled hn (s.route n).queue) (f := f) (by rw [hx]; exact if_neg hchannel)
    exact ⟨h.1, h.2.2, hq⟩
  case cut =>
    unfold consequence
    exact routeConsequence_cut hlt hcut
  case stays =>
    have hx := consequence_suspended h0 hlt hs (by
      rintro ⟨-, hpin, hlev⟩
      obtain hp | hp := hp
      · rw [hp] at hpin
        cases hpin
      · rw [hp] at hlev
        cases hlev)
    have h := passed_written_watch (steadyPassed hn (s.route n) (by rw [hs]; decide)) (f := f) hw hc
      (by rw [hx]; exact ⟨rfl, rfl, rfl⟩)
    exact ⟨h.1.trans hs, h.2.1⟩

end Write

section Serve

variable {s : State} {tag : Tag} {n : Fin 16} {f : RouteFields}

/-- The part as a served ROUTE write finds it. -/
def routeTaken (n : Nat) (s : State) : State := s.cleared { table := .route, index := n }

theorem channelTaken_iff (n : Nat) (f : RouteFields) (s : State) : channelTaken n f s = true ↔
    f.program ≠ 0 ∧ ∃ m < 16, m ≠ n ∧ (s.route m).state ≠ .vacant ∧
      (s.route m).channel = some (writtenChannel f) := by
  unfold channelTaken
  simp [and_assoc]

variable (hsv : s.Serves { tag := tag, op := .writeRoute n f })
include hsv

theorem exec_writeRoute : exec (.writeRoute tag n f) s =
    .next (serveWriteRoute n.val f { tag := tag, op := .writeRoute n f } s) := serve_of_serves hsv

theorem exec_writeRoute_taken (hq : s.quiescent) (h : channelTaken n f s = true) :
    exec (.writeRoute tag n f) s = .next (answer { tag := tag, op := .writeRoute n f } (lastOf s .channelInUse)
      (routeEntry n (s.route n)) (routeTaken n s)) := by
  rw [exec_writeRoute hsv]
  unfold serveWriteRoute
  dsimp only
  have h' : channelTaken n f (setCursor .route n (dropSelection s)) = true := h
  have hcells : entryCells (routeTaken n s) .route n = routeEntry n (s.route n) := by
    unfold entryCells
    simp only [entryOf, Option.getD_some]
    rfl
  rw [if_pos h']
  refine congrArg _ ((replyAfter_of_quiescent (t := routeTaken n s) hq s _ _ _).trans ?_)
  rw [hcells]

theorem exec_writeRoute_served (h : ¬ channelTaken n f s = true) :
    ∃ cells, exec (.writeRoute tag n f) s = .next (answer { tag := tag, op := .writeRoute n f } (lastOf s .ok) cells
      (settle (applyRoute n f (routeTaken n s)))) := by
  rw [exec_writeRoute hsv]
  unfold serveWriteRoute
  dsimp only
  have h' : ¬ channelTaken n f (setCursor .route n (dropSelection s)) = true := h
  rw [if_neg h']
  exact ⟨_, rfl⟩

end Serve

theorem writtenChannel_eq (f : RouteFields) : writtenChannel f =
    if f.channel.toNat < 1 then 1 else if 30 < f.channel.toNat then 30 else f.channel.toNat := by
  unfold writtenChannel clamp
  split
  · omega
  · split
    · omega
    · omega

theorem writtenComponent_eq (f : RouteFields) :
    writtenComponent f = if 3 < f.component.toNat then 3 else f.component.toNat := by
  unfold writtenComponent
  split
  · omega
  · omega

theorem resolvesAgain_eq_true {f : RouteFields} {r : Route} : resolvesAgain f r = true ↔
    r.program ≠ f.program ∨ r.component ≠ writtenComponent f ∨ r.channel ≠ some (writtenChannel f) := by
  unfold resolvesAgain
  simp [or_assoc]

/-- Settles O41: a WRITE of a host route, refused and accepted. -/
theorem routeWrite : Obligations.RouteWrite := by
  intro s tag n f hq hlen hsv req channel component damage taken listens r
  have hchannel : channel = writtenChannel f := (writtenChannel_eq f).symm
  have hcomponent : component = writtenComponent f := (writtenComponent_eq f).symm
  have hdamage : damage = min 720 f.damage.toNat := by
    unfold damage
    split
    · omega
    · omega
  have htaken : taken ↔ channelTaken n f s = true := by
    rw [channelTaken_iff, ← hchannel]
  clear_value channel component damage
  subst hchannel hcomponent hdamage
  refine ⟨fun h => exec_writeRoute_taken hsv hq (htaken.mp h), fun h => ?_⟩
  obtain ⟨cells, hexec⟩ := exec_writeRoute_served hsv (mt htaken.mpr h)
  have hw : (routeTaken n s).Rewritten n f (settle (applyRoute n f (routeTaken n s))) := settle_rewritten n.isLt hlen
  have hf := (frontEngine (routeTaken n s)).settle (applyRoute_front n f (routeTaken n s))
  generalize settle (applyRoute n f (routeTaken n s)) = u at hexec hw hf
  have hm := Management.eq_of_asked hf.asked
  have hx := congrArg Trunk.replies (Trunk.eq_of_egress hf.egress)
  have hreplies : u.trunk.replies = s.trunk.replies := hx
  obtain ⟨⟨hA, hB, hmerge, htracker⟩, hentered, hothers, hvacated, hsuspended, hlost, hsteady, hcut, hstopped, hresumed,
    hstays⟩ := hw
  have hlistens : ∀ b : Bool, (b && !(f.listening && decide (f.program ≠ 0))) = true ↔ b = true ∧ ¬ listens := by
    intro b
    unfold listens
    rw [Bool.and_eq_true, Bool.not_eq_true', ← Bool.not_eq_true, Bool.and_eq_true, decide_eq_true_eq]
  have hsame : r.program = f.program → r.component = writtenComponent f → r.channel = some (writtenChannel f) →
      resolvesAgain f r = false := fun h1 h2 h3 => by
    rw [← Bool.not_eq_true, resolvesAgain_eq_true, not_or, not_or, not_not, not_not, not_not]
    exact ⟨h1, h2, h3⟩
  refine ⟨_, hexec, rfl, congrArg Management.cursor hm, congrArg Management.selection hm, ?requests, ?replies, hA, hB,
    hmerge, htracker, hentered.program, hentered.component, hentered.channel, hentered.damage, hentered.addrs,
    ?listening, ?pin, fun m hmlt hmn => ?others, fun h0 => ?vacated, hsuspended,
    fun h0 hs hrun hmap hag => ?lost, fun hp h0 hc hch hrun hst => hsteady h0 (hsame hp hc hch) hrun hst,
    hcut, fun h0 hwatch hclass => ⟨fun hs hp => ?stopped, fun hs hr hp => ?resumed, fun hs hp => ?stays⟩⟩
  case requests => rw [answer_requests, hm]; rfl
  case replies =>
    have hlen' := congrArg List.length hreplies
    exact (List.length_append).trans (congrArg (· + 1) hlen')
  case listening =>
    have h := hentered.listening
    exact (iff_of_eq (congrArg (· = true) h)).trans (by rw [Bool.and_eq_true, decide_eq_true_eq])
  case pin =>
    have h := hentered.pin
    exact (iff_of_eq (congrArg (· = true) h)).trans (by rw [Bool.and_eq_true, decide_eq_true_eq])
  case others =>
    obtain ⟨h1, h2, h3, h4⟩ := hothers m hmlt hmn
    exact ⟨h1, h2, h3, (iff_of_eq (congrArg (· = true) h4)).trans (hlistens _)⟩
  case vacated =>
    have h := hvacated h0
    exact ⟨h.state, h.pages, h.run⟩
  case lost =>
    have h := hlost h0 hs hrun hmap (resolvesAgain_eq_true.mpr hag)
    exact ⟨h.state, h.pages, h.run⟩
  case stopped =>
    have h := hstopped h0 hwatch hclass hs hp
    exact ⟨h.state, h.reason, h.pages, h.run⟩
  case resumed => exact hresumed h0 hwatch hs hr hp
  case stays => exact hstays h0 hwatch hclass hs hp

end Sys2Proof.Machine
end

section
/-! SUPPORT. What a lead departure does after its releases (R42, R61, R66, R87, R98; O10). -/

namespace Sys2Proof.Machine

/-! ### The routes at a departure -/

/-- R87, R98: a route after a lead departure, but for the counts of its aborts. -/
def Route.departed (r : Route) : Route :=
  { r with
    run := false
    state := if r.pages ≠ [] ∧ r.state = .running then .filling else r.state
    fill := if r.pages ≠ [] then 0 else r.fill
    tallies := if r.pages ≠ [] then r.tallies.map fun _ => 0 else r.tallies }

section Turn

variable {m n : Nat} (s : State)

theorem departRoute_other (hmn : m ≠ n) : (departRoute s n).route m = s.route m := by
  unfold departRoute
  rw [endRun_other n _ hmn, State.route_modRoute_other _ _ hmn.symm]

theorem departRoute_length (n : Nat) : (departRoute s n).routes.length = s.routes.length := by
  unfold departRoute
  rw [endRun_length, State.modRoute_routes, List.length_modify]

theorem departRoute_rest (n : Nat) : departRoute s n =
    { s with packets := (departRoute s n).packets, routes := (departRoute s n).routes } := by
  unfold departRoute
  exact endRun_rest n _

theorem departRoute_unassembled (n : Nat) : (departRoute s n).Unassembled n := endRun_unassembled n _

theorem State.Unassembled.departRoute {s : State} (h : s.Unassembled n) (m : Nat) : (departRoute s m).Unassembled n := by
  unfold Machine.departRoute
  exact State.Unassembled.endRun (s := s.modRoute m _) h m

theorem departRoute_same (hn : n < s.routes.length) : (departRoute s n).route n =
    { (s.route n).departed with
      aborted := ((departRoute s n).route n).aborted, lastAbort := ((departRoute s n).route n).lastAbort } := by
  have h := endRun_record n (s.modRoute n fun r =>
    if r.pages = [] then r
    else { r.flush with state := if r.state = .running then .filling else r.state })
  rw [State.route_modRoute_same _ _ _ hn] at h
  refine h.trans ?_
  unfold Route.departed
  by_cases hp : (s.route n).pages = []
  · rw [if_pos hp]
    simp only [hp, ne_eq, not_true_eq_false, false_and, if_false]
    rfl
  · rw [if_neg hp]
    simp only [hp, ne_eq, not_false_eq_true, true_and, if_true]
    rfl

end Turn

/-- The routes at a departure, in their order. -/
@[irreducible] def departRoutes (s : State) : State := (List.range 18).foldl departRoute s

section All

variable (s : State)

theorem departRoutes_rest : departRoutes s =
    { s with packets := (departRoutes s).packets, routes := (departRoutes s).routes } := by
  have h : ∃ p rs, departRoutes s = { s with packets := p, routes := rs } := by
    unfold departRoutes
    refine foldl_keeps (P := fun t : State => ∃ p rs, t = { s with packets := p, routes := rs })
      (fun b m hb => ?_) _ s ⟨_, _, rfl⟩
    obtain ⟨p, rs, rfl⟩ := hb
    exact ⟨_, _, departRoute_rest _ m⟩
  obtain ⟨p, rs, h⟩ := h
  rw [h]

theorem departRoutes_length : (departRoutes s).routes.length = s.routes.length := by
  unfold departRoutes
  exact foldl_keeps (P := fun t : State => t.routes.length = s.routes.length)
    (fun b m hb => (departRoute_length b m).trans hb) _ s rfl

theorem departRoutes_turn {n : Nat} (hn : n < 18) (hlen : n < s.routes.length) :
    ∃ c : State, n < c.routes.length ∧ c.route n = s.route n ∧ (departRoutes s).route n = (departRoute c n).route n := by
  unfold departRoutes
  exact foldl_reaches (f := departRoute) (π := fun t => t.route n) (fun b m hm => departRoute_other b (Ne.symm hm))
    (fun t => n < t.routes.length) (fun b m hb => hb.trans_eq (departRoute_length b m).symm) (List.range 18)
    (List.mem_range.mpr hn) List.nodup_range s hlen

theorem departRoutes_route {n : Nat} (hn : n < 18) : (departRoutes s).route n =
    { (s.route n).departed with
      aborted := ((departRoutes s).route n).aborted, lastAbort := ((departRoutes s).route n).lastAbort } := by
  by_cases hlen : n < s.routes.length
  · obtain ⟨c, hc, hsame, hturn⟩ := departRoutes_turn s hn hlen
    rw [hturn, ← hsame]
    exact departRoute_same c hc
  · have hle := Nat.le_of_not_lt hlen
    have hs : s.route n = .reset n := List.getD_eq_default _ _ hle
    have ht : (departRoutes s).route n = .reset n :=
      List.getD_eq_default _ _ ((departRoutes_length s).trans_le hle)
    rw [ht, hs]
    simp [Route.departed, Route.reset]

/-- R127: no assembly of a route is left. -/
theorem departRoutes_unassembled {n : Nat} (hn : n < 18) : (departRoutes s).Unassembled n := by
  have hfold : ∀ (ms : List Nat) (b : State), n ∈ ms ∨ b.Unassembled n → (ms.foldl departRoute b).Unassembled n := by
    intro ms
    induction ms with
    | nil => exact fun b hb => hb.resolve_left List.not_mem_nil
    | cons m rest ih =>
      intro b hb
      rw [List.foldl_cons]
      refine ih _ ?_
      obtain hmem | hb := hb
      · obtain rfl | hmem := List.mem_cons.mp hmem
        · exact .inr (departRoute_unassembled b n)
        · exact .inl hmem
      · exact .inr (hb.departRoute m)
  unfold departRoutes
  exact hfold _ s (.inl (List.mem_range.mpr hn))

end All

/-! ### The arm at a departure -/

/-- The part but for the arm record, the notices and the sticky flags, and the due mark of a held APPLY. -/
structure SameStages (s t : State) : Prop where
  linkA : t.linkA = s.linkA
  linkB : t.linkB = s.linkB
  merge : t.merge = s.merge
  leadTracker : t.leadTracker = s.leadTracker
  scoutTracker : t.scoutTracker = s.scoutTracker
  routes : t.routes = s.routes
  packets : t.packets = s.packets

theorem missArm_stages (s : State) : SameStages s (missArm (markDue s)) := by
  unfold missArm
  split
  · exact ⟨rfl, rfl, rfl, rfl, rfl, rfl, rfl⟩
  · exact ⟨by rw [State.raiseAt_linkA]; rfl, by rw [State.raiseAt_linkB]; rfl, by rw [State.raiseAt_merge]; rfl,
      by rw [State.raiseAt_leadTracker]; rfl, by rw [State.raiseAt_scoutTracker]; rfl,
      by rw [State.raiseAt_routes]; rfl, by rw [State.raiseAt_packets]; rfl⟩

theorem missArm_roles (s : State) : (missArm (markDue s)).roles = { s.roles with arm := none } := by
  unfold missArm
  split
  · rename_i h
    exact (congrArg (fun a => { s.roles with arm := a }) h : { s.roles with arm := s.roles.arm } = _)
  · rw [State.raiseAt_roles]
    rfl

/-- R66: the arm is missed with a notice at its FN. -/
theorem missArm_notice {s : State} {n : Fn} (h : s.roles.arm = some n) :
    (missArm (markDue s)).HasNotice fun x => x.body = .armMissed ∧ x.fn = some n := by
  have h' : (markDue s).roles.arm = some n := h
  unfold missArm
  rw [h']
  exact State.hasNotice_raiseAt _ _ _

/-! ### The departure -/

/-- What a lead departure does behind its releases. -/
theorem leadDeparture_eq (s : State) : leadDeparture s =
    (let t := dropHeld (fun _ => true) (missArm (markDue (departRoutes (clearTarget .lead (releaseAll (actIfDue s))))))
    { t with merge := { t.merge with releasePoint := none } }) := by
  unfold departRoutes
  rfl

theorem releaseAll_waiting (s : State) : (releaseAll s).merge.waiting = [] := by
  have hdrop : ∀ (k : Nat) (s : State), (releaseFront^[k] s).merge.waiting = s.merge.waiting.drop k := by
    intro k
    induction k with
    | zero => exact fun _ => rfl
    | succ k ih =>
      intro s
      rw [Function.iterate_succ_apply, ih, releaseFront_waiting, List.drop_tail]
  unfold releaseAll
  rw [hdrop, List.drop_length]

/-- What a lead departure that has released u leaves. -/
structure State.LeadGone (u t : State) : Prop where
  merge : t.merge = { u.merge with held := [], releasePoint := none }
  dropped : ∀ l, (t.link l).mergeDropped =
    bump^[(u.merge.held.filter fun h => h.link = l).length] (u.link l).mergeDropped
  leadTracker : t.leadTracker = { u.leadTracker with target := none }
  scoutTracker : t.scoutTracker = u.scoutTracker
  roles : t.roles = { u.roles with arm := none }
  missed : ∀ n, u.roles.arm = some n →
    (∃ x ∈ t.trunk.notices, x.body = .armMissed ∧ x.fn = some n) ∨ t.mgmt.sticky.noticeLost = true
  route : ∀ n < 18, t.route n =
    { (u.route n).departed with aborted := (t.route n).aborted, lastAbort := (t.route n).lastAbort }
  unassembled : ∀ n < 18, t.Unassembled n

theorem leadDeparture_gone (s : State) : (releaseAll (actIfDue s)).LeadGone (leadDeparture s) := by
  rw [leadDeparture_eq]
  generalize releaseAll (actIfDue s) = u
  obtain ⟨v, hv⟩ : ∃ v, departRoutes (clearTarget .lead u) = v := ⟨_, rfl⟩
  have hrest := departRoutes_rest (clearTarget .lead u)
  have hroute := fun n hn => departRoutes_route (clearTarget .lead u) (n := n) hn
  have hun := fun n hn => departRoutes_unassembled (clearTarget .lead u) (n := n) hn
  rw [hv] at hrest hroute hun
  have hst := missArm_stages v
  have hro := missArm_roles v
  have hno := fun n (h : v.roles.arm = some n) => missArm_notice h
  rw [hv]
  generalize missArm (markDue v) = w at hst hro hno
  have hdl := dropHeld_links (fun _ => true) w
  have hdm := dropHeld_merge (fun _ => true) w
  have hdk := dropHeld_link (fun _ => true) w
  generalize dropHeld (fun _ => true) w = x at hdl hdm hdk
  have hvroles : v.roles = u.roles := by rw [hrest]; rfl
  have hvmerge : v.merge = u.merge := by rw [hrest]; rfl
  have hvlink : ∀ l, v.link l = u.link l := fun l => by rw [hrest]; rfl
  have hvt : v.leadTracker = { u.leadTracker with target := none } ∧ v.scoutTracker = u.scoutTracker := by
    rw [hrest]
    exact ⟨rfl, rfl⟩
  have hwlink : ∀ l, w.link l = v.link l := fun l => by
    cases l
    · exact hst.linkA
    · exact hst.linkB
  have hxw : x.leadTracker = w.leadTracker ∧ x.scoutTracker = w.scoutTracker ∧ x.roles = w.roles ∧
      x.routes = w.routes ∧ x.packets = w.packets ∧ x.trunk = w.trunk ∧ x.mgmt = w.mgmt := by
    rw [hdl]
    exact ⟨rfl, rfl, rfl, rfl, rfl, rfl, rfl⟩
  obtain ⟨hx1, hx2, hx3, hx4, hx5, hx6, hx7⟩ := hxw
  obtain ⟨t, ht⟩ : ∃ t, { x with merge := { x.merge with releasePoint := none } } = t := ⟨_, rfl⟩
  have htm : t.merge = { u.merge with held := [], releasePoint := none } := by
    rw [← ht]
    show { x.merge with releasePoint := none } = _
    rw [hdm, hst.merge, hvmerge]
    simp
  have htl : ∀ l, t.link l = x.link l := fun l => by
    rw [← ht]
    cases l
    · rfl
    · rfl
  have htx : t.leadTracker = x.leadTracker ∧ t.scoutTracker = x.scoutTracker ∧ t.roles = x.roles ∧
      t.routes = x.routes ∧ t.packets = x.packets ∧ t.trunk = x.trunk ∧ t.mgmt = x.mgmt := by
    rw [← ht]
    exact ⟨rfl, rfl, rfl, rfl, rfl, rfl, rfl⟩
  obtain ⟨ht1, ht2, ht3, ht4, ht5, ht6, ht7⟩ := htx
  have hr : ∀ n, t.route n = v.route n := fun n =>
    congrArg (fun rs : List Route => rs.getD n (.reset n)) (ht4.trans (hx4.trans hst.routes))
  dsimp only
  rw [ht]
  refine ⟨htm, fun l => ?_, ht1.trans (hx1.trans (hst.leadTracker.trans hvt.1)),
    ht2.trans (hx2.trans (hst.scoutTracker.trans hvt.2)), ht3.trans (hx3.trans (hro.trans (by rw [hvroles]))),
    fun n hn => ?_, fun n hn => ?_,
    fun n hn => State.Unassembled.congr (s := v) (hun n hn) (ht5.trans (hx5.trans hst.packets))⟩
  · have hl := congrArg Link.mergeDropped (hdk l)
    rw [hst.merge, hvmerge, hwlink, hvlink] at hl
    simp only [Bool.true_and] at hl
    rw [htl]
    exact hl
  · have hk : t.HasNotice _ := (hno n (hvroles ▸ hn)).congr (congrArg Trunk.notices (ht6.trans hx6))
      (congrArg Management.sticky (ht7.trans hx7))
    exact hk
  · rw [hr]
    exact hroute n hn

end Sys2Proof.Machine
end

section
/-! SUPPORT. What a departed lead leaves to the end of its event: an empty merge stage, no arm, and routes that have no
run (R61, R66, R87, R98; O10). -/

namespace Sys2Proof.Machine

/-! ### Routes without a run -/

/-- A route that has no run, and of whose pages nothing is filled. -/
def Route.Idle (r : Route) : Prop := r.run = false ∧ (r.pages ≠ [] → r.state ≠ .running ∧ r.fill = 0)

theorem Route.Idle.of_no_pages {r : Route} (hr : r.run = false) (hp : r.pages = []) : r.Idle := ⟨hr, fun h => absurd hp h⟩

theorem Route.Idle.congr {r r' : Route} (h : r.Idle) (hrun : r'.run = r.run) (hpages : r'.pages = r.pages)
    (hstate : r'.state = r.state) (hfill : r'.fill = r.fill) : r'.Idle :=
  ⟨hrun.trans h.1, fun hp => by
    rw [hstate, hfill]
    exact h.2 (hpages ▸ hp)⟩

theorem Route.departed_idle (r : Route) : r.departed.Idle := by
  refine ⟨rfl, fun hp => ?_⟩
  have hp' : r.pages ≠ [] := hp
  refine ⟨?_, if_pos hp'⟩
  show (if r.pages ≠ [] ∧ r.state = .running then RouteState.filling else r.state) ≠ .running
  by_cases hs : r.state = .running
  · rw [if_pos ⟨hp', hs⟩]
    decide
  · rw [if_neg fun h => hs h.2]
    exact hs

theorem Route.Resolved.idle {r r' : Route} (h : r.Resolved r') : r'.Idle := by
  refine ⟨h.run, fun hp => ?_⟩
  obtain ⟨-, hpages, -⟩ | ⟨-, hpages⟩ | ⟨hstate, hfill, -⟩ := h.outcome
  · exact absurd hpages hp
  · exact absurd hpages hp
  · rw [hstate]
    exact ⟨by decide, hfill⟩

theorem Route.Waits.idle {r : Route} {lane : Lane} (h : r.Waits lane false) : r.Idle := .of_no_pages h.run h.pages

theorem idleSettled (n : Nat) : Settled n Route.Idle where
  held _ _ h := h
  grant _ _ _ h _ := ⟨h.1, fun _ => ⟨nofun, rfl⟩⟩
  ended _ _ h _ hr := by rw [hr.eq]; exact h.congr (h.1.symm ▸ rfl) rfl rfl rfl
  unbind _ _ _ := .of_no_pages rfl rfl
  ask _ r _ _ h hv := ⟨h.1, fun hp => ⟨nofun, (h.2 hp).2⟩⟩
  binding _ _ _ h := h
  damage _ _ _ h := h
  resumed _ _ _ _ _ hr := hr.idle

section Turns

variable {n : Nat} {s : State}

theorem State.route_idle_of_out (h : s.routes.length ≤ n) : (s.route n).Idle := by
  have hout : s.route n = .reset n := List.getD_eq_default _ _ h
  rw [hout]
  exact .of_no_pages rfl rfl

theorem vacateRoute_idle (m : Nat) (hs : OnRoute n Route.Idle s) : OnRoute n Route.Idle (vacateRoute m s) := by
  unfold OnRoute
  by_cases hmn : n = m
  · subst hmn
    by_cases hlen : n < s.routes.length
    · have h := vacateRoute_vacated hlen
      exact .of_no_pages h.run h.pages
    · exact State.route_idle_of_out ((vacateRoute_length n s).trans_le (Nat.le_of_not_lt hlen))
  · rw [vacateRoute_other hmn]
    exact hs

theorem suspendRoute_idle (why : SuspendReason) (m : Nat) (hs : OnRoute n Route.Idle s) :
    OnRoute n Route.Idle (suspendRoute why m s) := by
  unfold OnRoute
  by_cases hmn : n = m
  · subst hmn
    by_cases hlen : n < s.routes.length
    · have h := suspendRoute_stopped why hlen
      exact .of_no_pages h.run h.pages
    · exact State.route_idle_of_out ((suspendRoute_length why n s).trans_le (Nat.le_of_not_lt hlen))
  · rw [suspendRoute_other hmn]
    exact hs

theorem resolveRoute_idle {x : State × List Nat} (m : Nat) (hs : OnRoute n Route.Idle x.1) :
    OnRoute n Route.Idle (resolveRoute x m).1 := by
  unfold OnRoute
  by_cases hmn : n = m
  · subst hmn
    by_cases hlen : n < x.1.routes.length
    · exact (resolveRoute_resolved x hlen).idle
    · exact State.route_idle_of_out ((resolveRoute_length x n).trans_le (Nat.le_of_not_lt hlen))
  · rw [resolveRoute_other _ hmn]
    exact hs

theorem applyStep_idle (kind : ApplyKind) (hs : OnRoute n Route.Idle s) : OnRoute n Route.Idle (applyStep kind s) := by
  have h := idleSettled n
  unfold applyStep
  extract_lets ns x
  split
  · exact h.closeStep _ _ (foldl_keeps (f := fun s n => vacateRoute n s) (P := OnRoute n Route.Idle)
      (fun _ m hb => vacateRoute_idle m hb) ns s hs)
  · exact h.closeStep _ _ (foldl_keeps (f := fun s n => suspendRoute .request n s) (P := OnRoute n Route.Idle)
      (fun _ m hb => suspendRoute_idle .request m hb) ns s hs)
  · exact h.closeStep _ _ (foldl_keeps (P := fun x : State × List Nat => OnRoute n Route.Idle x.1)
      (fun _ m hb => resolveRoute_idle m hb) ns (s, []) hs)

theorem remapRoute_idle {x : State × List Nat} (hlen : n < x.1.routes.length) (hs : (x.1.route n).Idle) :
    ((remapRoute x n).1.route n).Idle := by
  have waits : ∀ {r : Route} {lane : Lane}, r.Waits lane (x.1.route n).run → r.Idle := fun h =>
    .of_no_pages (h.run.trans hs.1) h.pages
  by_cases hv : (x.1.route n).state = .vacant
  · rw [remapRoute_stays (.inl hv)]
    exact hs
  by_cases hsus : (x.1.route n).state = .suspended
  · rw [remapRoute_stays (.inr hsus)]
    exact hs
  cases h : lookupLane x.1 n with
  | none =>
    rw [remapRoute_lost hv hsus h]
    dsimp only
    rw [toPending_same hlen]
    exact .of_no_pages rfl rfl
  | some lane =>
    obtain ⟨-, he⟩ | ⟨-, asks, -, he⟩ | ⟨-, he⟩ := remapRoute_found hv hsus h
    · rw [he]
      exact waits (toWaiting_waits hlen)
    · rw [he]
      dsimp only
      rw [State.route_modRoute_same _ _ _ hlen]
      exact hs
    · rw [he]
      by_cases hh : (x.1.route n).holds lane.geometry = true
      · obtain ⟨k, why, hr⟩ := rebindTurn_rebound hlen hh
        rw [hr]
        exact hs
      · exact waits (rebindTurn_waits hlen hh).1

theorem remapRoutes_idle (hn : n < 18) (hs : OnRoute n Route.Idle s) : OnRoute n Route.Idle (remapRoutes s) := by
  obtain ⟨c, hroute, -, hclen, hsame, -, -⟩ := remapTurns_at (s := s) hn
  refine remapRoutes_kept (idleSettled n).toAllotted ?_
  by_cases hlen : n < s.routes.length
  · rw [hsame]
    refine remapRoute_idle (hlen.trans_eq hclen.symm) ?_
    rw [hroute]
    exact hs
  · exact State.route_idle_of_out ((remapTurns_length s).trans_le (Nat.le_of_not_lt hlen))

theorem toPending_idle {m : Nat} (hs : OnRoute n Route.Idle s) : OnRoute n Route.Idle (toPending m s) := by
  unfold OnRoute
  by_cases hmn : n = m
  · subst hmn
    by_cases hlen : n < s.routes.length
    · rw [toPending_same hlen]
      exact .of_no_pages rfl rfl
    · exact State.route_idle_of_out ((toPending_length n s).trans_le (Nat.le_of_not_lt hlen))
  · rw [toPending_other hmn]
    exact hs

theorem followRoute_idle {x : State × List Nat} (m : Nat) (hs : OnRoute n Route.Idle x.1) :
    OnRoute n Route.Idle (followRoute x m).1 := by
  have hp : OnRoute n Route.Idle (toPending m x.1) := toPending_idle hs
  unfold followRoute
  split
  · exact hs
  · exact hs
  · generalize toPending m x.1 = u at hp
    exact resolveRoute_idle (x := (u, x.2)) m hp

theorem followRoutes_idle (before : State) (hs : OnRoute n Route.Idle s) :
    OnRoute n Route.Idle (followRoutes before s) := by
  unfold followRoutes
  extract_lets x
  have hx : OnRoute n Route.Idle x.1 :=
    foldl_keeps (f := followRoute) (P := fun x : State × List Nat => OnRoute n Route.Idle x.1)
      (fun _ m hb => followRoute_idle m hb) _ (s, []) hs
  clear_value x
  exact (idleSettled n).closeStep before _ hx

theorem emptyLead_idle (why : LostReason) (hn : n < 18) (hs : OnRoute n Route.Idle s) :
    OnRoute n Route.Idle (emptyTracker .lead why s) := by
  unfold emptyTracker emptyMap
  split
  · exact hs
  · exact (idleSettled n).controllerMapChange (remapRoutes_idle hn (Passed.raiseAt (R := Route.Idle) _ _ hs))

theorem actApply_leaves_idle (hs : OnRoute n Route.Idle s) : OnRoute n Route.Idle (actApply s) := by
  have h := idleSettled n
  unfold actApply
  split
  · extract_lets found changed skipped _ a b _ c
    have ha : OnRoute n Route.Idle a := applyStep_idle _ hs
    have hb : OnRoute n Route.Idle b := h.settle (h.tellController _ ha)
    exact hb
  · exact hs

end Turns

/-! ### The end of the event -/

/-- What a departed lead leaves until the next arrival. -/
structure State.Departed (t : State) : Prop where
  waiting : t.merge.waiting = []
  held : t.merge.held = []
  point : t.merge.releasePoint = none
  arm : t.roles.arm = none
  idle : ∀ n < 18, (t.route n).Idle

theorem State.Departed.next {s t : State} (h : s.Departed) (hm : t.merge = s.merge) (ha : t.roles.arm = none)
    (hr : ∀ n < 18, (t.route n).Idle) : t.Departed :=
  ⟨by rw [hm]; exact h.waiting, by rw [hm]; exact h.held, by rw [hm]; exact h.point, ha, hr⟩

theorem State.Departed.of_ports {s t : State} (h : s.Departed) (hp : SamePorts s t) (hr : ∀ n < 18, (t.route n).Idle) :
    t.Departed := h.next hp.merge (by rw [hp.roles]; exact h.arm) hr

theorem State.LeadGone.departed {u t : State} (h : u.LeadGone t) (hw : u.merge.waiting = []) : t.Departed where
  waiting := by rw [h.merge]; exact hw
  held := by rw [h.merge]
  point := by rw [h.merge]
  arm := by rw [h.roles]
  idle n hn := by
    rw [h.route n hn]
    exact (u.route n).departed_idle.congr rfl rfl rfl rfl

theorem settle_departed {s : State} (h : s.Departed) : (settle s).Departed :=
  h.of_ports (settle_ports s) fun n hn => (idleSettled n).settle (h.idle n hn)

theorem actApply_departed {s : State} (h : s.Departed) : (actApply s).Departed :=
  h.of_ports (actApply_ports s) fun n hn => actApply_leaves_idle (h.idle n hn)

theorem raiseAt_departed {s : State} (h : s.Departed) (fn : Option Fn) (b : NoticeBody) : (s.raiseAt fn b).Departed :=
  h.of_ports ((portsEngine s).raise _ fn b (.refl s)) fun n hn => Passed.raiseAt (R := Route.Idle) fn b (h.idle n hn)

theorem clearMerge_departed {s : State} (ha : s.roles.arm = none) (hr : ∀ n < 18, (s.route n).Idle) :
    (clearMerge s).Departed := by
  have hm := clearMerge_merge s
  have hroles : (clearMerge s).roles = s.roles := by rw [clearMerge_eq]
  have hroutes : (clearMerge s).routes = s.routes := by rw [clearMerge_eq]
  refine ⟨by rw [hm], by rw [hm], by rw [hm], by rw [hroles, ha], fun n hn => ?_⟩
  have hroute : (clearMerge s).route n = s.route n :=
    congrArg (fun rs : List Route => rs.getD n (.reset n)) hroutes
  rw [hroute]
  exact hr n hn

theorem emptyLead_departed {s : State} (h : s.Departed) (why : LostReason) : (emptyTracker .lead why s).Departed :=
  h.of_ports ((portsEngine s).emptyTracker _ _ (.refl s)) fun n hn => emptyLead_idle why hn (h.idle n hn)

theorem handover_departed {s : State} (h : s.Departed) (l : LinkId) (role : Role) (seamless : Bool)
    (why : RoleReason) : (handover l role seamless why s).Departed := by
  unfold handover
  extract_lets t
  have harm : t.roles.arm = none := rfl
  have hmerge : t.merge = s.merge := by
    unfold t
    cases l
    · rfl
    · rfl
  have hroutes : t.routes = s.routes := by
    unfold t
    cases l
    · rfl
    · rfl
  have hidle : ∀ n < 18, (t.route n).Idle := fun n hn => by
    have hroute : t.route n = s.route n := congrArg (fun rs : List Route => rs.getD n (.reset n)) hroutes
    rw [hroute]
    exact h.idle n hn
  have ht : t.Departed := h.next hmerge harm hidle
  clear_value t
  split
  · exact raiseAt_departed ht _ _
  · exact raiseAt_departed (emptyLead_departed (clearMerge_departed harm hidle) .handover) _ _

theorem follow_departed {s : State} (h : s.Departed) (why : RoleReason) : (follow why s).Departed := by
  rw [follow_eq]
  obtain ⟨-, -, hroles, hroutes, -⟩ := exchanged_rest s
  have hm := exchanged_merge s
  have he : (exchanged s).Departed := by
    refine ⟨by rw [hm], by rw [hm], by rw [hm], by rw [hroles], fun n hn => ?_⟩
    have hroute : (exchanged s).route n = s.route n := congrArg (fun rs : List Route => rs.getD n (.reset n)) hroutes
    rw [hroute]
    exact h.idle n hn
  have hn : (roleNotice why (some .following) (exchanged s)).Departed := raiseAt_departed he _ _
  generalize roleNotice why (some .following) (exchanged s) = u at hn
  refine hn.of_ports (followTail_front u).toSamePorts fun n hlt => ?_
  have hc := (idleSettled n).followController (s := u) (hn.idle n hlt)
  have hr := Passed.rereadBottom (R := Route.Idle) (n := n) (followRoutes_idle u hc)
  unfold followTail
  exact hr

theorem finishEvent_departed {s : State} (h : s.Departed) : (finishEvent s).Departed := by
  unfold finishEvent
  split
  · exact h
  extract_lets _ t first u v
  have ht : t.Departed := h.next rfl h.arm h.idle
  have hu : u.Departed := ht.next rfl ht.arm ht.idle
  have hv : v.Departed := by
    unfold v
    split
    · split
      · exact actApply_departed hu
      · exact hu
    · exact ht
  have hswap : ∀ why, (swapRoles why v).Departed := fun why => by
    unfold swapRoles
    extract_lets l
    split
    · exact handover_departed hv _ _ _ _
    · exact hv
  clear_value v
  split
  · exact hswap _
  · exact hswap _
  · split
    · exact follow_departed hv _
    · exact hv

theorem finishFrame_departed {s : State} (h : s.Departed) : (finishFrame s).Departed :=
  settle_departed (finishEvent_departed h)

end Sys2Proof.Machine
end

section
/-! SUPPORT. A timer expiry (R17, R18, R61; O10). -/

namespace Sys2Proof.Machine

/-! ### Roles through a release -/

theorem updateQuality_role (l k : LinkId) (q : Nat) (s : State) :
    ((updateQuality l q s).link k).role = (s.link k).role := by
  unfold updateQuality
  rw [setLevel_role]
  cases l <;> cases k <;> rfl

/-- A miss finds the link's role as it was. -/
theorem missed_role (l : LinkId) (s : State) :
    ((handOn l (s.link l).substitute (updateQuality l 0 (s.modLink l Link.missed))).link l).role = (s.link l).role := by
  refine (rolesKept l (s.link l).role).handOn l _ ?_
  rw [updateQuality_role]
  cases l <;> rfl

/-! ### The end of a coast -/

theorem depart_lead {l : LinkId} {s : State} (v : SyncState) (h : (s.link l).role = .lead) : (depart l v s).Departed := by
  have hrole : ((portDepart l v s).link l).role = .lead := by
    unfold portDepart
    rw [setLevel_role, ← h]
    cases l <;> rfl
  unfold depart
  dsimp only
  rw [hrole]
  exact (leadDeparture_gone _).departed (releaseAll_waiting _)

theorem State.Departed.modLink {s : State} (h : s.Departed) (l : LinkId) (f : Link → Link) : (s.modLink l f).Departed := by
  cases l
  · exact ⟨h.1, h.2, h.3, h.4, h.5⟩
  · exact ⟨h.1, h.2, h.3, h.4, h.5⟩

/-- R18, R61: the miss that ends the coast of the lead. -/
theorem declareMiss_departed {l : LinkId} {s : State} (hr : (s.link l).role = .lead)
    (hc : s.mgmt.settings.coast ≤ (s.link l).consecutive + 1) : (declareMiss l s).Departed := by
  have hm := (PortMakes.refl l s).missed
  have hrole := (missed_role l s).trans hr
  unfold declareMiss
  dsimp only
  generalize handOn l (s.link l).substitute (updateQuality l 0 (s.modLink l Link.missed)) = u at hm hrole ⊢
  have hgoes : u.mgmt.settings.coast ≤ (u.link l).consecutive := by
    rw [hm.settings, hm.consecutive]
    exact hc
  unfold checkCoast
  rw [if_pos hgoes]
  have hd := (depart_lead .hunt hrole).modLink l fun x => { x with coastExpiries := bump x.coastExpiries }
  refine raiseAt_departed ?_ _ _
  exact ⟨hd.1, hd.2, hd.3, hd.4, hd.5⟩

/-! ### The expiry -/

section Expiry

variable {s : State} {l : LinkId}

theorem exec_miss_idle (h : (s.link l).due = none) : exec (.miss l) s = .next s := by
  show execMiss l s = _
  unfold execMiss
  rw [h]

variable {d : Nat} (hd : (s.link l).due = some d) (hsync : (s.link l).synced = true)

/-- The part as an expiry at due time d finds it, the due time advanced. -/
def expiredAt (l : LinkId) (d : Nat) (s : State) : State :=
  ({ s with clock := max s.clock (d + missGrace) } : State).modLink l Link.advanceDue

include hd hsync in
theorem exec_miss_expires : exec (.miss l) s = .next (finishFrame (declareMiss l (expiredAt l d s))) := by
  show execMiss l s = _
  unfold execMiss
  rw [hd]
  dsimp only
  rw [if_pos hsync]
  rfl

include hd in
theorem expiredAt_link : (expiredAt l d s).link l = (s.link l).setDue d := by
  have h : (expiredAt l d s).link l = Link.advanceDue (s.link l) := by cases l <;> rfl
  rw [h]
  unfold Link.advanceDue
  rw [hd]

theorem expiredAt_other : (expiredAt l d s).link (otherLink l) = s.link (otherLink l) := by cases l <;> rfl

theorem expiredAt_mgmt : (expiredAt l d s).mgmt = s.mgmt := by cases l <;> rfl

theorem expiredAt_clock : (expiredAt l d s).clock = max s.clock (d + 96000) := by cases l <;> rfl

include hd hsync

/-- R17: an expiry short of the coast limit. -/
theorem exec_miss_coasts (hc : (s.link l).consecutive + 1 < s.mgmt.settings.coast) :
    ∃ t, exec (.miss l) s = .next t ∧ t.clock = max s.clock (d + 96000) ∧
      (t.link l).core = (((s.link l).setDue d).afterMiss s.mgmt.settings).core ∧
      (t.link (otherLink l)).core = (s.link (otherLink l)).core := by
  have hlink := expiredAt_link hd
  have hm := (PortMakes.refl l (expiredAt l d s)).declareMiss (by rw [hlink, expiredAt_mgmt]; exact hc)
  have h := hm.next (finishFrame_core _)
  rw [hlink, expiredAt_mgmt] at h
  refine ⟨_, exec_miss_expires hd hsync, h.clock.trans expiredAt_clock, h.link, ?_⟩
  rw [h.other, expiredAt_other]

/-- R18: the expiry that ends the coast. -/
theorem exec_miss_departs (hc : s.mgmt.settings.coast ≤ (s.link l).consecutive + 1) :
    ∃ t, exec (.miss l) s = .next t ∧
      (t.link l).core = Link.core
        { (((s.link l).setDue d).afterMiss s.mgmt.settings).afterDeparture .hunt with
          coastExpiries := bump (s.link l).coastExpiries } ∧
      (t.link (otherLink l)).core = (s.link (otherLink l)).core ∧
      t.mgmt.sticky.coastExpired = true ∧ t.Noticed (.coastExpired l) ∧
      ((s.link l).role = .lead → t.Departed) := by
  have hlink := expiredAt_link hd
  have hc' : (expiredAt l d s).mgmt.settings.coast ≤ ((expiredAt l d s).link l).consecutive + 1 := by
    rw [hlink, expiredAt_mgmt]
    exact hc
  obtain ⟨hm, hsticky, hnotice⟩ := (PortMakes.refl l (expiredAt l d s)).expiresMiss hc'
  have h := hm.next (finishFrame_core _)
  rw [hlink, expiredAt_mgmt] at h
  let kept := stickyKept (declareMiss l (expiredAt l d s)).mgmt.sticky
  obtain ⟨-, -, -, -, hcoast, -, -⟩ := kept.finishFrame (.refl _)
  refine ⟨_, exec_miss_expires hd hsync, h.link, ?_, hcoast hsticky,
    (noticeKept fun n => n.body = .coastExpired l).finishFrame hnotice, fun hlead => ?_⟩
  · rw [h.other, expiredAt_other]
  · exact finishFrame_departed (declareMiss_departed (by rw [hlink]; exact hlead) hc')

end Expiry

/-- Settles O10: a timer expiry, and what a lead departure does. -/
theorem timerExpiry : Obligations.TimerExpiry := by
  refine ⟨fun s l => ?expiry, fun s => ?departure⟩
  case expiry =>
    intro x
    refine ⟨exec_miss_idle, fun d hd hsync hc => exec_miss_coasts hd hsync hc, fun d hd hsync hc => ?_⟩
    obtain ⟨t, hexec, hcore, hother, hsticky, hnotice, hlead⟩ := exec_miss_departs hd hsync hc
    refine ⟨t, hexec, hcore, hother, hsticky, hnotice, fun hr => ?_⟩
    obtain ⟨hwaiting, hheld, hpoint, harm, hidle⟩ := hlead hr
    exact ⟨hwaiting, hheld, hpoint, harm, hidle⟩
  case departure =>
    intro u t
    have h : u.LeadGone t := leadDeparture_gone s
    refine ⟨releaseAll_waiting _, h.merge, h.dropped, h.leadTracker, h.scoutTracker, h.roles, h.missed, h.route,
      fun i hi a ha => ?_⟩
    by_contra hlt
    exact h.unassembled a.route (Nat.lt_of_not_le hlt) i hi a ha rfl

end Sys2Proof.Machine
end
